-- ==== Sys2Proof/Word.lean ====
section
/-! DEFINITION. The words of the part: octets, tags and slip clock values. -/

namespace Sys2Proof

/-- One octet of a frame (R164). -/
abbrev Byte := BitVec 8

/-- A tag, 0..15 (R164). -/
abbrev Tag := BitVec 4

/-- A value of the slip clock, a 32-bit count of seconds (R184). -/
abbrev Clock := BitVec 32

end Sys2Proof
end

