-- ==== Sys2Proof/Config.lean ====
section
/-! DEFINITION. What the part fixes: its capacities, its identity, and the names the manual gives to things
(kinds of frame, ports, conditions and their subjects, the blocks that take an advance of the slip clock). -/

namespace Sys2Proof

/-- Jack 0 to jack 95 (R1). -/
abbrev JackId := Fin 96
/-- Sector 0 to sector 23 (R24). -/
abbrev SectorId := Fin 24
/-- Feed node 0 to feed node 7 (R84). -/
abbrev FeedId := Fin 8
/-- Pump group 0 to pump group 7 (R51). -/
abbrev GroupId := Fin 8
/-- Mix 0 to mix 7 (R24). -/
abbrev MixId := Fin 8
/-- A ring address 0..126. Address 0 is the part itself; nodes hold 1..126 (R164). -/
abbrev Addr := Fin 127

namespace Config

/-- Open commands XT holds at most (R65). -/
def maxOpen : Nat := 64
/-- Deferred entries ADM holds at most (R53). -/
def maxDeferred : Nat := 32
/-- Layers held per sector at most (R24). -/
def maxLayers : Nat := 16
/-- Fault log records held at most (R131). -/
def maxLog : Nat := 32
/-- Frames waiting for the deck link at most (R175). -/
def maxSend : Nat := 256
/-- Frames passed through from the deck that wait for ring-out at most (R171). -/
def maxPassed : Nat := 16
/-- The largest depth of a layer, in mm (R24). -/
def maxDepth : Nat := 65535
/-- The largest position of a jack, in strokes (R1). -/
def maxPosition : Nat := 65535
/-- The slip clock at the reset event (R181). -/
def resetClock : Clock := 86400
/-- The pause before a resend, in seconds (R76). -/
def resendPause : Nat := 2
/-- IDENT's vendor code, part code and revision (R180). -/
def vendorCode : Nat := 1207
def partCode : Nat := 60
def revision : Nat := 2

end Config

/-- The fifteen kinds of frame (R166). -/
inductive Kind
  | lift | lifted | still | ask | state | wait | trouble | pour | poured | nodeset | mgmt | reply
  | held | refused | ended
  deriving DecidableEq, Repr

/-- The two ports that take frames (00_scope.md, Connections). -/
inductive Port
  | deck | ring
  deriving DecidableEq, Repr

/-- A frame as the part reads or sends it: the header and payload of R164, the check left to R165.
The field summary is bits 4-7 of octet 3. -/
structure Frame where
  dest : Byte
  source : Byte
  kind : Kind
  tag : Tag
  summary : BitVec 4
  payload : List Byte
  deriving DecidableEq, Repr

/-- A condition together with its subject (R117): the ring, a sector or a feed node. -/
inductive Pair
  | spread
  | bond (k : SectorId)
  | starve (k : SectorId)
  | pressure (k : SectorId)
  | silent (k : SectorId)
  | trouble (k : SectorId)
  | rod (k : SectorId)
  | feed (f : FeedId)
  | deck
  | stopin
  | compound
  | request
  deriving DecidableEq, Repr

/-- The blocks' shares of one advance of the slip clock that a row of the operation table names (R184):
ADM's expiries, XT's timeouts and resends, MODE's creep timer and lease, SUP's window, CFG's commit wait,
MON's deglitch and blanking. -/
inductive Share
  | deferred | transactions | creep | lease | window | commitWait | deglitch | blanking
  deriving DecidableEq, Repr

end Sys2Proof
end

