-- ==== Sys2Proof/Syntax.lean ====
section
/-! DEFINITION. The commands of the part: one constructor for each row of spec/opcode_table.json. A command
is one whole and indivisible step (95_what_each_step_holds.md): a frame taken, a frame gone, a change of a
line, a second, or something that falls due at an advance. Operands are the fields the part reads; the source
octet of deck frames and the upper half of octet 3 are not read (R164) and are no operands. -/

namespace Sys2Proof

inductive Instr
  /-- A deck LIFT frame (R41, R170). -/
  | lift (dest : Byte) (tag : Tag) (payload : List Byte)
  /-- A deck POUR frame (R87, R170). -/
  | pour (dest : Byte) (tag : Tag) (payload : List Byte)
  /-- An ASK from the deck (R171). -/
  | ask (dest : Byte) (tag : Tag) (payload : List Byte)
  /-- A STILL from the deck (R171). -/
  | still (dest : Byte) (tag : Tag) (payload : List Byte)
  /-- A NODESET from the deck (R149). -/
  | nodeset (dest : Byte) (tag : Tag) (payload : List Byte)
  /-- A deck frame of a kind the deck may not send, or an MGMT not to address 0 (R170). -/
  | deckFrameWrongKind (dest : Byte) (kind : Kind) (tag : Tag)
  /-- A frame with a bad check, or a malformed frame (R165). -/
  | frameBadCheck (port : Port)
  /-- A frame whose kind code names no kind (R166). -/
  | unknownKindDropped (port : Port) (code : Byte)
  /-- An MGMT to address 0 that is none of the requests below (R176; for CONTROL with an argument other than
  0..3, which no other row carries, log 18). -/
  | mgmtBadRequest (tag : Tag) (payload : List Byte)
  | heartbeat (tag : Tag) (token : Byte)
  | status (tag : Tag) (page : Byte)
  | faults (tag : Tag) (index : Byte)
  | clear (tag : Tag)
  | tableWrite (tag : Tag) (table index field : Byte) (value : BitVec 24)
  | tableRead (tag : Tag) (bank table index field : Byte)
  | shadowLoad (tag : Tag)
  | commit (tag : Tag) (sum : BitVec 16)
  | controlStart (tag : Tag)
  | controlHold (tag : Tag)
  | controlResume (tag : Tag)
  | controlStop (tag : Tag)
  | spliceBegin (tag : Tag) (jack : Byte)
  | spliceEnd (tag : Tag) (jack : Byte) (rod : BitVec 16)
  | rodSet (tag : Tag) (jack : Byte) (rod : BitVec 16)
  | positionSet (tag : Tag) (jack : Byte) (position : BitVec 16)
  | isolate (tag : Tag) (node : Byte)
  | restore (tag : Tag) (node : Byte)
  | jackRead (tag : Tag) (jack : Byte)
  | sectorRead (tag : Tag) (sector : Byte)
  | layerRead (tag : Tag) (sector n : Byte)
  | layerEnter (tag : Tag) (sector : Byte) (depth : BitVec 16) (age : BitVec 24) (mix : Byte)
  | leaseAsk (tag : Tag)
  | leaseEnd (tag : Tag)
  | reset (tag : Tag)
  | ident (tag : Tag)
  /-- A LIFTED from ring-in (R70): done count, position echo, peak pressure. -/
  | lifted (source : Byte) (tag : Tag) (done : Byte) (echo peak : BitVec 16)
  /-- A POURED from ring-in (R73): sector, litres placed, mix. -/
  | poured (source : Byte) (tag : Tag) (sector : Byte) (litres : BitVec 16) (mix : Byte)
  /-- A WAIT from ring-in (R76). -/
  | wait (source : Byte) (tag : Tag)
  /-- A STATE from ring-in (R11): position echo, depth, pressure, node code. -/
  | nodeState (source : Byte) (tag : Tag) (echo : BitVec 16) (depth : Byte) (pressure : BitVec 16)
      (code : Byte)
  /-- A TROUBLE from ring-in (R23, R94): fault code. -/
  | trouble (source : Byte) (tag : Tag) (code : Byte)
  /-- The part's own LIFT or POUR returning untaken (R82). -/
  | unclaimedLiftPour (kind : Kind) (dest : Byte) (tag : Tag)
  /-- An ASK or STILL returning untaken (R83). -/
  | unclaimedAskStill (kind : Kind) (dest : Byte) (tag : Tag)
  /-- A NODESET returning untaken (R149). -/
  | unclaimedNodeset (dest : Byte) (tag : Tag)
  /-- A ring-in frame that R172 drops. -/
  | ringFrameDropped (source dest : Byte) (kind : Kind) (length : Nat)
  /-- RPORT finishes sending the frame at the front of its queue (R174). -/
  | ringOutSend
  /-- DPORT finishes sending the oldest frame of its queue (R175). -/
  | deckSend
  | stopInAssert
  | stopInRelease
  | powerOn
  | resetLineAssert
  | resetLineRelease
  /-- The reset of a RESET request whose ACK has left (R183). -/
  | resetAfterAck
  | slipClockAdvance
  /-- ADM takes its share of the latest advance (R56). -/
  | deferredEntryExpiry
  /-- The present sub-transaction of the node's command reaches its time limit (R74, R75). -/
  | subTransactionTimeout (node : Byte)
  /-- The resend due to the node (R76). -/
  | resendDue (node : Byte)
  | creepTimerExpiry
  | leaseLimit
  | windowExpiry
  | commitWaitCancel
  /-- A PENDING pair reaches its deglitch time (R125). -/
  | deglitchExpiry (pair : Pair)
  | resumeBlankingEnd
  deriving DecidableEq, Repr

end Sys2Proof
end

