-- ==== Sys2Proof/WellFormed.lean ====
section
/-! DEFINITION. Which commands can arise: the operands a port, a line or an advance can give each row. The
machine itself answers every command (see Machine/Dispatch.lean); this check says which of them the ports
make (Decode.lean). -/

namespace Sys2Proof

/-- A payload a well-formed frame can carry (R164). -/
def payloadFits (payload : List Byte) : Bool := payload.length ≤ 12

/-- An address of a node, 1..126 (R164). -/
def isNode (a : Byte) : Bool := 1 ≤ a.toNat && a.toNat ≤ 126

/-- The payload length of a request by its code (11.1), 1 plus its arguments' widths. -/
def requestLength : Nat → Option Nat
  | 1 | 2 | 3 | 9 | 10 | 13 | 14 | 16 | 17 => some 2
  | 4 | 7 | 20 | 21 | 22 | 23 => some 1
  | 5 => some 7
  | 6 => some 5
  | 8 | 18 => some 3
  | 11 | 12 | 15 => some 4
  | 19 => some 8
  | _ => none

/-- Whether an MGMT payload is a request that one of the rows HEARTBEAT .. IDENT carries. -/
def isRequest : List Byte → Bool
  | [] => false
  | code :: args =>
    requestLength code.toNat == some (args.length + 1) && (code.toNat != 9 || args.all (·.toNat ≤ 3))

/-- The payload length of a node's frame (R167). -/
def nodePayloadLength : Kind → Option Nat
  | .lifted => some 5
  | .state => some 6
  | .wait => some 0
  | .trouble => some 1
  | .poured => some 4
  | .lift | .still | .ask | .pour | .nodeset | .mgmt | .reply | .held | .refused | .ended => none

/-- The kinds whose frames the part itself sends on ring-out (R173). -/
def Kind.isOwn : Kind → Bool
  | .lift | .pour | .ask | .still | .nodeset => true
  | .lifted | .state | .wait | .trouble | .poured | .mgmt | .reply | .held | .refused | .ended => false

/-- Whether RPORT drops a ring-in frame with LINKERR (R172). -/
def ringDrops (source dest : Byte) (kind : Kind) (length : Nat) : Bool :=
  if source = 0 then !kind.isOwn
  else !(isNode source && dest == 0 && nodePayloadLength kind == some length)

/-- The kinds the deck may not send (R170). -/
def Kind.isDeckBarred : Kind → Bool
  | .lifted | .state | .wait | .trouble | .poured | .reply | .held | .refused | .ended => true
  | .lift | .pour | .ask | .still | .nodeset | .mgmt => false

/-- Whether a pair's condition has a deglitch time (R117). -/
def Pair.hasDeglitch : Pair → Bool
  | .spread | .bond _ | .starve _ => true
  | .pressure _ | .silent _ | .trouble _ | .rod _ | .feed _ | .deck | .stopin | .compound | .request => false

def Instr.wellFormed : Instr → Bool
  | .lift _ _ payload | .pour _ _ payload | .ask _ _ payload | .still _ _ payload
  | .nodeset _ _ payload => payloadFits payload
  | .deckFrameWrongKind dest kind _ => kind.isDeckBarred || (kind == .mgmt && dest != 0)
  | .frameBadCheck _ => true
  | .unknownKindDropped _ code => code.toNat == 0 || 16 ≤ code.toNat
  | .mgmtBadRequest _ payload => payloadFits payload && !isRequest payload
  | .heartbeat _ _ | .status _ _ | .faults _ _ | .clear _ => true
  | .tableWrite _ _ _ _ _ | .tableRead _ _ _ _ _ | .shadowLoad _ | .commit _ _ => true
  | .controlStart _ | .controlHold _ | .controlResume _ | .controlStop _ => true
  | .spliceBegin _ _ | .spliceEnd _ _ _ | .rodSet _ _ _ | .positionSet _ _ _ => true
  | .isolate _ _ | .restore _ _ | .jackRead _ _ | .sectorRead _ _ | .layerRead _ _ _ => true
  | .layerEnter _ _ _ _ _ | .leaseAsk _ | .leaseEnd _ | .reset _ | .ident _ => true
  | .lifted source _ _ _ _ | .poured source _ _ _ _ | .wait source _ => isNode source
  | .nodeState source _ _ _ _ _ | .trouble source _ _ => isNode source
  | .unclaimedLiftPour kind _ _ => kind == .lift || kind == .pour
  | .unclaimedAskStill kind _ _ => kind == .ask || kind == .still
  | .unclaimedNodeset _ _ => true
  | .ringFrameDropped source dest kind length => length ≤ 12 && ringDrops source dest kind length
  | .ringOutSend | .deckSend | .stopInAssert | .stopInRelease | .powerOn => true
  | .resetLineAssert | .resetLineRelease | .resetAfterAck | .slipClockAdvance => true
  | .deferredEntryExpiry => true
  | .subTransactionTimeout node | .resendDue node => isNode node
  | .creepTimerExpiry | .leaseLimit | .windowExpiry | .commitWaitCancel => true
  | .deglitchExpiry pair => pair.hasDeglitch
  | .resumeBlankingEnd => true

end Sys2Proof
end

