-- ==== Sys2Proof/Decode.lean ====
section
/-! DEFINITION. From octets to commands. The frame form and its check (R164, R165), the kind codes (R166), and
how each port reads a whole frame into the command it stands for (R170, R172, R173, R176). The rows of
spec/opcode_table.json give no bits, so decodeTableWord spells none. -/

namespace Sys2Proof

/-- The kind codes of R166. -/
def Kind.code : Kind → Byte
  | .lift => 1
  | .lifted => 2
  | .still => 3
  | .ask => 4
  | .state => 5
  | .wait => 6
  | .trouble => 7
  | .pour => 8
  | .poured => 9
  | .nodeset => 10
  | .mgmt => 11
  | .reply => 12
  | .held => 13
  | .refused => 14
  | .ended => 15

/-- The kind a code names; codes 0 and 16..255 name none (R166). -/
def Kind.ofCode (code : Byte) : Option Kind :=
  match code.toNat with
  | 1 => some .lift
  | 2 => some .lifted
  | 3 => some .still
  | 4 => some .ask
  | 5 => some .state
  | 6 => some .wait
  | 7 => some .trouble
  | 8 => some .pour
  | 9 => some .poured
  | 10 => some .nodeset
  | 11 => some .mgmt
  | 12 => some .reply
  | 13 => some .held
  | 14 => some .refused
  | 15 => some .ended
  | _ => none

/-- One bit into the check register: generator x^16 + x^12 + x^5 + 1 (R165). -/
def crcBit (reg : BitVec 16) (bit : Bool) : BitVec 16 :=
  if reg.msb ^^ bit then (reg <<< 1) ^^^ 0x1021 else reg <<< 1

/-- One octet into the check register, most significant bit first (R165). -/
def crcOctet (reg : BitVec 16) (octet : Byte) : BitVec 16 :=
  [7, 6, 5, 4, 3, 2, 1, 0].foldl (fun r i => crcBit r (octet.getLsbD i)) reg

/-- The check of a run of octets: the register starts at all ones and is not inverted (R165). -/
def crc (octets : List Byte) : BitVec 16 :=
  octets.foldl crcOctet 0xFFFF

/-- The high and low octet of a 16-bit number, high octet first (R164). -/
def be16 (w : BitVec 16) : List Byte := [(w >>> 8).setWidth 8, w.setWidth 8]

/-- A 16-bit number from its high and low octet (R164). -/
def ofBe16 (hi lo : Byte) : BitVec 16 := hi ++ lo

/-- A 24-bit number from its octets, high octet first (R164). -/
def ofBe24 (hi mid lo : Byte) : BitVec 24 := hi ++ mid ++ lo

/-- The octets of a frame up to its payload's last (R164). -/
def Frame.body (f : Frame) : List Byte :=
  [f.dest, f.source, f.kind.code, f.summary ++ f.tag, BitVec.ofNat 8 f.payload.length] ++ f.payload

/-- The octets of a frame on either port, its check last (R164, R165). -/
def Frame.octets (f : Frame) : List Byte := f.body ++ be16 (crc f.body)

/-- What a port finds in the octets delivered as one frame: a frame dropped for its check or form, a frame
whose kind code names no kind, or a frame it reads further (R164 to R166). -/
inductive Taken
  | bad
  | unknownKind (code : Byte)
  | frame (f : Frame)
  deriving DecidableEq, Repr

/-- A port takes the octets of one frame (R164, R165, R166). -/
def takeOctets : List Byte → Taken
  | dest :: source :: kind :: tagOctet :: length :: rest =>
    let n := length.toNat
    let payload := rest.take n
    if n ≤ 12 && rest.length == n + 2
        && rest.drop n == be16 (crc (dest :: source :: kind :: tagOctet :: length :: payload)) then
      match Kind.ofCode kind with
      | none => .unknownKind kind
      | some k => .frame ⟨dest, source, k, tagOctet.setWidth 4, (tagOctet >>> 4).setWidth 4, payload⟩
    else .bad
  | _ => .bad

/-- The request an MGMT payload carries (R176 and the table of 11.1). -/
def decodeRequest (tag : Tag) (payload : List Byte) : Instr :=
  match payload with
  | [] => .mgmtBadRequest tag payload
  | code :: args =>
    match code.toNat, args with
    | 1, [token] => .heartbeat tag token
    | 2, [page] => .status tag page
    | 3, [index] => .faults tag index
    | 4, [] => .clear tag
    | 5, [table, index, field, v2, v1, v0] => .tableWrite tag table index field (ofBe24 v2 v1 v0)
    | 6, [bank, table, index, field] => .tableRead tag bank table index field
    | 7, [] => .shadowLoad tag
    | 8, [s1, s0] => .commit tag (ofBe16 s1 s0)
    | 9, [argument] =>
      match argument.toNat with
      | 0 => .controlStart tag
      | 1 => .controlHold tag
      | 2 => .controlResume tag
      | 3 => .controlStop tag
      | _ => .mgmtBadRequest tag payload
    | 10, [jack] => .spliceBegin tag jack
    | 11, [jack, r1, r0] => .spliceEnd tag jack (ofBe16 r1 r0)
    | 12, [jack, r1, r0] => .rodSet tag jack (ofBe16 r1 r0)
    | 13, [node] => .isolate tag node
    | 14, [node] => .restore tag node
    | 15, [jack, p1, p0] => .positionSet tag jack (ofBe16 p1 p0)
    | 16, [jack] => .jackRead tag jack
    | 17, [sector] => .sectorRead tag sector
    | 18, [sector, n] => .layerRead tag sector n
    | 19, [sector, d1, d0, a2, a1, a0, mix] =>
      .layerEnter tag sector (ofBe16 d1 d0) (ofBe24 a2 a1 a0) mix
    | 20, [] => .leaseAsk tag
    | 21, [] => .leaseEnd tag
    | 22, [] => .reset tag
    | 23, [] => .ident tag
    | _, _ => .mgmtBadRequest tag payload

/-- The command a well-formed deck frame stands for: routing by kind (R170). -/
def deckFrameCommand (f : Frame) : Instr :=
  match f.kind with
  | .lift => .lift f.dest f.tag f.payload
  | .pour => .pour f.dest f.tag f.payload
  | .ask => .ask f.dest f.tag f.payload
  | .still => .still f.dest f.tag f.payload
  | .nodeset => .nodeset f.dest f.tag f.payload
  | .mgmt =>
    if f.dest = 0 then decodeRequest f.tag f.payload else .deckFrameWrongKind f.dest .mgmt f.tag
  | .lifted | .state | .wait | .trouble | .poured | .reply | .held | .refused | .ended =>
    .deckFrameWrongKind f.dest f.kind f.tag

/-- The command the octets of one frame on the deck link stand for (R164 to R166, R170). -/
def deckLinkCommand (octets : List Byte) : Instr :=
  match takeOctets octets with
  | .bad => .frameBadCheck .deck
  | .unknownKind code => .unknownKindDropped .deck code
  | .frame f => deckFrameCommand f

/-- The command a frame at ring-in with a node's source stands for (R172). -/
def nodeFrameCommand (f : Frame) : Instr :=
  match f.kind, f.payload with
  | .lifted, [done, e1, e0, p1, p0] => .lifted f.source f.tag done (ofBe16 e1 e0) (ofBe16 p1 p0)
  | .poured, [sector, l1, l0, mix] => .poured f.source f.tag sector (ofBe16 l1 l0) mix
  | .wait, [] => .wait f.source f.tag
  | .state, [e1, e0, depth, p1, p0, code] =>
    .nodeState f.source f.tag (ofBe16 e1 e0) depth (ofBe16 p1 p0) code
  | .trouble, [code] => .trouble f.source f.tag code
  | kind, payload => .ringFrameDropped f.source f.dest kind payload.length

/-- The command one of the part's own frames returning stands for (R172, R173). -/
def ownFrameCommand (f : Frame) : Instr :=
  match f.kind with
  | .lift | .pour => .unclaimedLiftPour f.kind f.dest f.tag
  | .ask | .still => .unclaimedAskStill f.kind f.dest f.tag
  | .nodeset => .unclaimedNodeset f.dest f.tag
  | .lifted | .state | .wait | .trouble | .poured | .mgmt | .reply | .held | .refused | .ended =>
    .ringFrameDropped f.source f.dest f.kind f.payload.length

/-- The command the octets of one frame at ring-in stand for (R164 to R166, R172). -/
def ringInCommand (octets : List Byte) : Instr :=
  match takeOctets octets with
  | .bad => .frameBadCheck .ring
  | .unknownKind code => .unknownKindDropped .ring code
  | .frame f =>
    if f.source = 0 then ownFrameCommand f
    else if isNode f.source && f.dest == 0 then nodeFrameCommand f
    else .ringFrameDropped f.source f.dest f.kind f.payload.length

/-- No row of the operation table gives bits, so no word spells a command. -/
def decodeTableWord (_nbits _w : Nat) : Option Instr := none

end Sys2Proof
end

