-- ==== Sys2Proof/Machine/Types.lean ====
section
/-! DEFINITION. The records of the part's blocks, as plain data, with the field names of the manual. -/

namespace Sys2Proof.Machine

/-! ### Reasons, outcomes, events -/

/-- The reasons of R168. -/
inductive Reason
  | range | noNode | wrongKind | mode | jackState | sectorStopped | busy | rod | commit | table
  | group | spread | fill | young | full | expired | flushed | stopped | short | timeout
  | nodeBusy | isolated | faulted | stilled | sectorSplice | limit | layersFull | notAllowed
  | nodeState | noRoom | leased | deck | early | token | notLeased | check | inconsistent | badRequest
  deriving DecidableEq, Repr

/-- The event kinds of R136, in the order of its table. -/
inductive EventKind
  | reset | linkerr | warned | late | unsolicited | nodeBusy | creepSkipped | rodLow | layersFull
  | overpour | misroute | leaseOverrun | logFull | commitCancelled
  deriving DecidableEq, Repr

/-! ### Jack table (R1) -/

inductive FaultCause
  | pressure | silent | trouble
  deriving DecidableEq, Repr

/-- A jack's state (R1). The fault cause is present only in FAULTED, so FAULTED holds it. -/
inductive JackState
  | absent | active | catchup | splice | isolated
  | faulted (cause : FaultCause)
  deriving DecidableEq, Repr

/-- The live record of one jack (R1). -/
structure Jack where
  state : JackState
  position : Nat
  rod : Nat
  depth : Nat
  strikes : Nat
  rodLow : Bool
  deriving DecidableEq, Repr

/-! ### Layer table (R24, R25) -/

inductive Source
  | feed (f : FeedId)
  | entered
  deriving DecidableEq, Repr

/-- One layer (R24). -/
structure Layer where
  base : Nat
  depth : Nat
  mix : MixId
  first : Clock
  last : Clock
  source : Source
  deriving DecidableEq, Repr

/-- A sector's floor and layer queue, oldest and lowest first (R24, R25). -/
structure Sector where
  floor : Nat
  layers : List Layer
  deriving DecidableEq, Repr

/-! ### Admission (R49, R51) -/

/-- A deferred entry (R49). -/
structure Entry where
  jack : JackId
  node : Byte
  strokes : Nat
  tag : Tag
  deferred : Clock
  reason : Reason
  deriving DecidableEq, Repr

/-- ADM's state: the deferred queue, oldest at the front, and each pump group's occupancy (R51, R53). -/
structure Admission where
  queue : List Entry
  occupancy : Vector Nat 8
  deriving DecidableEq, Repr

/-! ### Transaction table (R65, R67) -/

/-- What a command is for (R65). -/
inductive Subject
  | jack (j : JackId)
  | feed (f : FeedId)
  deriving DecidableEq, Repr

/-- Kind and subject of a command, with the sector of a POUR (R65). -/
inductive Task
  | lift (j : JackId)
  | pour (f : FeedId) (k : SectorId)
  deriving DecidableEq, Repr

/-- Origin, with the deck tag of a DECK command (R65). -/
inductive Origin
  | deck (tag : Tag)
  | device
  deriving DecidableEq, Repr

inductive Phase
  | sent | resend
  deriving DecidableEq, Repr

/-- Why a command is being stopped (R65, R78). -/
inductive Ending
  | isolated | faulted | sectorStopped | stopped | stilled
  deriving DecidableEq, Repr

/-- An open command (R65). -/
structure Command where
  task : Task
  origin : Origin
  asked : Nat
  done : Nat
  tag : Tag
  size : Nat
  phase : Phase
  sent : Clock
  retries : Nat
  peak : Option Nat
  ending : Option Ending
  deriving DecidableEq, Repr

/-- A last abandoned tag; its kind is its subject's (R67). -/
structure Abandoned where
  tag : Tag
  subject : Subject
  deriving DecidableEq, Repr

/-- What XT keeps for one node address (R67). -/
structure NodeTags where
  counter : Tag
  abandoned : Option Abandoned
  deriving DecidableEq, Repr

/-- XT's state. Slot 0 of nodes is unused: address 0 is the part (R67, R164). -/
structure Transactions where
  table : List Command
  nodes : Vector NodeTags 127
  deriving DecidableEq, Repr

/-! ### Feed control (R85) -/

inductive FeedState
  | ready | pouring | faulted
  deriving DecidableEq, Repr

structure Feed where
  state : FeedState
  lastSector : Option SectorId
  deriving DecidableEq, Repr

/-! ### Mode controller (R97, R146) -/

inductive HoldCause
  | request | deckLost | fromStop
  deriving DecidableEq, Repr

inductive StoppedFrom
  | setup | slip | hold
  deriving DecidableEq, Repr

/-- The climb mode. HOLD holds its hold cause and STOPPED its stopped-from, each present only there (R97). -/
inductive ClimbMode
  | setup
  | slip
  | hold (cause : HoldCause)
  | stopped (left : StoppedFrom)
  deriving DecidableEq, Repr

/-- The service lease, with asking tag and grant time where they are present (R146). -/
inductive Lease
  | none
  | pending (asking : Tag)
  | held (asking : Tag) (granted : Clock)
  deriving DecidableEq, Repr

/-- The mode record (R97). The creep timer is none while stopped. -/
structure ModeRecord where
  mode : ClimbMode
  heartbeatSinceHold : Bool
  creepTimer : Option Nat
  roundInProgress : Bool
  roundList : List JackId
  roundCommands : Nat
  roundOwed : Bool
  lease : Lease
  deriving DecidableEq, Repr

/-! ### Condition monitor (R117, R126, R128, R129, R131, R135, R136) -/

/-- A condition's mode (R117). -/
inductive CondMode
  | ignore | warn | sector | ring
  deriving DecidableEq, Repr

/-- A pair's condition state, with its deglitch start in PENDING and its applied mode in PRESENT (R117). -/
inductive PairState
  | notPresent
  | pending (start : Clock)
  | present (applied : CondMode)
  deriving DecidableEq, Repr

/-- What MON keeps for one pair: its condition state, and whether it is in its sector's stop cause set (R128)
and in the ring stop cause set (R129). -/
structure PairRecord where
  state : PairState
  stopsSector : Bool
  stopsRing : Bool
  deriving DecidableEq, Repr

/-- A fault log record (R131). Condition and subject are the pair. -/
structure LogRecord where
  pair : Pair
  applied : CondMode
  detail : Option JackId
  first : Clock
  last : Clock
  repeats : Nat
  present : Bool
  deriving DecidableEq, Repr

/-- MON's state. blanking is none while resume blanking does not run (R126); events has one bit for each kind
in the order of R136, bits 14 and 15 being 0 (R178). -/
structure Monitor where
  pairs : Vector PairRecord 157
  blanking : Option Nat
  log : List LogRecord
  alert : Bool
  events : BitVec 16
  deriving DecidableEq, Repr

/-! ### Deck supervision (R137) -/

inductive SupKind
  | token | any
  deriving DecidableEq, Repr

structure Supervision where
  active : Bool
  expected : BitVec 1
  lastAccepted : Clock
  windowStart : Clock
  violations : Nat
  deckLost : Bool
  deriving DecidableEq, Repr

/-! ### Configuration store (R152 to R154) -/

structure JackEntry where
  enabled : Bool
  node : Addr
  sector : SectorId
  group : GroupId
  deriving DecidableEq, Repr

structure SectorEntry where
  length : Nat
  thickness : Nat
  deriving DecidableEq, Repr

structure MixEntry where
  minExit : Nat
  maxExit : Nat
  deriving DecidableEq, Repr

structure FeedEntry where
  enabled : Bool
  node : Addr
  allowed : Vector Bool 24
  deriving DecidableEq, Repr

/-- One bank. The profile's 35 fields are kept by field number, since software reads and writes them so; their
names are in Machine/Bank.lean (R153, R154). -/
structure Bank where
  profile : Vector Nat 35
  jacks : Vector JackEntry 96
  sectors : Vector SectorEntry 24
  mixes : Vector MixEntry 8
  groups : Vector Nat 8
  feeds : Vector FeedEntry 8
  deriving DecidableEq, Repr

/-- The commit state, with commit tag and accepted time in PENDING (R152). -/
inductive CommitState
  | idle
  | pending (tag : Tag) (accepted : Clock)
  deriving DecidableEq, Repr

structure Store where
  active : Bank
  shadow : Bank
  commit : CommitState
  storedSum : BitVec 16
  deriving DecidableEq, Repr

/-! ### Reset, ports and the order of free choices -/

inductive ResetCause
  | power | pin | request
  deriving DecidableEq, Repr

/-- A frame in the ring-out queue; passed marks one passed through from the deck (R174). -/
structure RingFrame where
  frame : Frame
  passed : Bool
  deriving DecidableEq, Repr

/-- The model's own field for the orders the manual leaves open (log 3): the order in which the blocks take a second
that no row orders (R184); the blocks that take it before LT's bond tests (R184, R185); the blocks that take it only
at a row of their own or at the end of the second, so that commands of that second come first (R141, R185); and whether
the ring stop request of a RING-mode DECK reaches MODE before the deck-lost move (R104). -/
structure Order where
  tick : List Share
  early : List Share
  late : List Share
  stopFirst : Bool
  deriving DecidableEq, Repr

end Sys2Proof.Machine
end

