-- ==== Sys2Proof/Machine/Bank.lean ====
section
/-! DEFINITION. The banks of the configuration store: the profile's field names, the ranges TABLE-WRITE accepts,
reading and writing a field by number, the table sum, and the default bank (R152 to R157). -/

namespace Sys2Proof.Machine

/-! ### The profile's fields (R153) -/

def Bank.strokePitch (b : Bank) : Nat := b.profile[0]
def Bank.formHeight (b : Bank) : Nat := b.profile[1]
def Bank.minFill (b : Bank) : Nat := b.profile[2]
def Bank.spreadAdmit (b : Bank) : Nat := b.profile[3]
def Bank.spreadAlarm (b : Bank) : Nat := b.profile[4]
def Bank.strokeTime (b : Bank) : Nat := b.profile[5]
def Bank.retryLimit (b : Bank) : Nat := b.profile[6]
def Bank.deferLimit (b : Bank) : Nat := b.profile[7]
def Bank.creepInterval (b : Bank) : Nat := b.profile[8]
/-- TOKEN is 0 and ANY is 1 (R153). -/
def Bank.supKind (b : Bank) : SupKind := if b.profile[9] = 1 then .any else .token
def Bank.windowMin (b : Bank) : Nat := b.profile[10]
def Bank.windowMax (b : Bank) : Nat := b.profile[11]
def Bank.strikes (b : Bank) : Nat := b.profile[12]
def Bank.leaseLimit (b : Bank) : Nat := b.profile[13]
def Bank.mergeInterval (b : Bank) : Nat := b.profile[14]
def Bank.resumeBlanking (b : Bank) : Nat := b.profile[15]
def Bank.spliceLimit (b : Bank) : Nat := b.profile[16]
def Bank.sectorStopLimit (b : Bank) : Nat := b.profile[17]
def Bank.pressureLimit (b : Bank) : Nat := b.profile[18]
def Bank.pressureStrikes (b : Bank) : Nat := b.profile[19]
def Bank.rodWarn (b : Bank) : Nat := b.profile[20]
def Bank.feedTime (b : Bank) : Nat := b.profile[21]
def Bank.commitWait (b : Bank) : Nat := b.profile[22]
def Bank.deglitchSpread (b : Bank) : Nat := b.profile[23]
def Bank.deglitchBond (b : Bank) : Nat := b.profile[24]
def Bank.deglitchStarve (b : Bank) : Nat := b.profile[25]

/-- IGNORE 0, WARN 1, SECTOR 2, RING 3 (R153). -/
def CondMode.ofCode : Nat → CondMode
  | 0 => .ignore
  | 1 => .warn
  | 2 => .sector
  | _ => .ring

def CondMode.code : CondMode → Nat
  | .ignore => 0
  | .warn => 1
  | .sector => 2
  | .ring => 3

/-- A pair's mode: fields 26..34, and RING for STOPIN, COMPOUND and REQUEST, fixed (R117, R153). -/
def Bank.condMode (b : Bank) : Pair → CondMode
  | .spread => .ofCode b.profile[26]
  | .bond _ => .ofCode b.profile[27]
  | .starve _ => .ofCode b.profile[28]
  | .pressure _ => .ofCode b.profile[29]
  | .silent _ => .ofCode b.profile[30]
  | .trouble _ => .ofCode b.profile[31]
  | .rod _ => .ofCode b.profile[32]
  | .feed _ => .ofCode b.profile[33]
  | .deck => .ofCode b.profile[34]
  | .stopin | .compound | .request => .ring

/-- A pair's deglitch time; 0 for a condition without deglitch (R117, R125). -/
def Bank.deglitch (b : Bank) : Pair → Nat
  | .spread => b.deglitchSpread
  | .bond _ => b.deglitchBond
  | .starve _ => b.deglitchStarve
  | .pressure _ | .silent _ | .trouble _ | .rod _ | .feed _ | .deck | .stopin | .compound | .request => 0

/-! ### Ranges (R153, R154) -/

/-- The least and greatest value TABLE-WRITE accepts for a profile field (R153). -/
def profileRange : Nat → Nat × Nat
  | 0 => (10, 40)
  | 1 => (900, 1500)
  | 2 => (100, 600)
  | 3 => (1, 8)
  | 4 => (2, 12)
  | 5 => (2, 30)
  | 6 => (0, 7)
  | 7 => (10, 600)
  | 8 => (60, 900)
  | 9 => (0, 1)
  | 10 => (0, 30)
  | 11 => (2, 120)
  | 12 => (1, 3)
  | 13 => (10, 900)
  | 14 => (0, 300)
  | 15 => (0, 120)
  | 16 => (1, 8)
  | 17 => (1, 4)
  | 18 => (100, 700)
  | 19 => (1, 4)
  | 20 => (0, 400)
  | 21 => (10, 600)
  | 22 => (5, 120)
  | 23 | 24 | 25 => (0, 60)
  | _ => (0, 3)

def inRange (r : Nat × Nat) (v : Nat) : Bool := r.1 ≤ v && v ≤ r.2

/-- Strikes is 1 or 3; 2 is refused RANGE (R153). -/
def profileAccepts (field value : Nat) : Bool :=
  inRange (profileRange field) value && !(field == 12 && value == 2)

def lengthRange : Nat × Nat := (500, 20000)
def thicknessRange : Nat × Nat := (150, 600)

/-- A sector's length and wall thickness are both in range (R27, R159). -/
def SectorEntry.configured (e : SectorEntry) : Bool :=
  inRange lengthRange e.length && inRange thicknessRange e.thickness

/-! ### Reading a field (R157) -/

def JackEntry.read (e : JackEntry) : Nat → Option Nat
  | 0 => some e.enabled.toNat
  | 1 => some e.node.val
  | 2 => some e.sector.val
  | 3 => some e.group.val
  | _ => none

def SectorEntry.read (e : SectorEntry) : Nat → Option Nat
  | 0 => some e.length
  | 1 => some e.thickness
  | _ => none

def MixEntry.read (e : MixEntry) : Nat → Option Nat
  | 0 => some e.minExit
  | 1 => some e.maxExit
  | _ => none

def FeedEntry.read (e : FeedEntry) (field : Nat) : Option Nat :=
  if field = 0 then some e.enabled.toNat
  else if field = 1 then some e.node.val
  else if h : field - 2 < 24 then some (e.allowed[field - 2]).toNat
  else none

/-- The value of a field, or none when check 1 of R156 refuses table, index or field. -/
def Bank.read (b : Bank) (table index field : Nat) : Option Nat :=
  match table with
  | 0 => if index = 0 then b.profile[field]? else none
  | 1 => (b.jacks[index]?).bind (·.read field)
  | 2 => (b.sectors[index]?).bind (·.read field)
  | 3 => (b.mixes[index]?).bind (·.read field)
  | 4 => if field = 0 then b.groups[index]? else none
  | 5 => (b.feeds[index]?).bind (·.read field)
  | _ => none

/-! ### Writing a field (R156) -/

/-- A yes/no value (R154). -/
def asFlag : Nat → Option Bool
  | 0 => some false
  | 1 => some true
  | _ => none

/-- A node address 1..126 (R154). -/
def asNode (v : Nat) : Option Addr :=
  if h : 1 ≤ v ∧ v ≤ 126 then some ⟨v, by omega⟩ else none

def asFin (n v : Nat) : Option (Fin n) := if h : v < n then some ⟨v, h⟩ else none

def asRange (r : Nat × Nat) (v : Nat) : Option Nat := if inRange r v then some v else none

def JackEntry.write (e : JackEntry) (field v : Nat) : Option JackEntry :=
  match field with
  | 0 => (asFlag v).map fun x => { e with enabled := x }
  | 1 => (asNode v).map fun x => { e with node := x }
  | 2 => (asFin 24 v).map fun x => { e with sector := x }
  | 3 => (asFin 8 v).map fun x => { e with group := x }
  | _ => none

def SectorEntry.write (e : SectorEntry) (field v : Nat) : Option SectorEntry :=
  match field with
  | 0 => (asRange lengthRange v).map fun x => { e with length := x }
  | 1 => (asRange thicknessRange v).map fun x => { e with thickness := x }
  | _ => none

def MixEntry.write (e : MixEntry) (field v : Nat) : Option MixEntry :=
  match field with
  | 0 => (asRange (600, 28800) v).map fun x => { e with minExit := x }
  | 1 => (asRange (1800, 86400) v).map fun x => { e with maxExit := x }
  | _ => none

def FeedEntry.write (e : FeedEntry) (field v : Nat) : Option FeedEntry :=
  if field = 0 then (asFlag v).map fun x => { e with enabled := x }
  else if field = 1 then (asNode v).map fun x => { e with node := x }
  else if h : field - 2 < 24 then (asFlag v).map fun x => { e with allowed := e.allowed.set (field - 2) x }
  else none

/-- The bank with one field written, or none when check 1 or 2 of R156 fails. -/
def Bank.write (b : Bank) (table index field v : Nat) : Option Bank :=
  match table with
  | 0 =>
    if h : index = 0 ∧ field < 35 then
      if profileAccepts field v then some { b with profile := b.profile.set field v h.2 } else none
    else none
  | 1 =>
    if h : index < 96 then (b.jacks[index].write field v).map fun e => { b with jacks := b.jacks.set index e }
    else none
  | 2 =>
    if h : index < 24 then
      (b.sectors[index].write field v).map fun e => { b with sectors := b.sectors.set index e }
    else none
  | 3 =>
    if h : index < 8 then (b.mixes[index].write field v).map fun e => { b with mixes := b.mixes.set index e }
    else none
  | 4 =>
    if h : index < 8 ∧ field = 0 then
      (asRange (0, 16) v).map fun x => { b with groups := b.groups.set index x h.1 }
    else none
  | 5 =>
    if h : index < 8 then (b.feeds[index].write field v).map fun e => { b with feeds := b.feeds.set index e }
    else none
  | _ => none

/-! ### The table sum (R155) -/

def JackEntry.sum (e : JackEntry) : Nat := e.enabled.toNat + e.node.val + e.sector.val + e.group.val

/-- What one allowed sector adds: one for the member, and its sector number; nothing while it is not allowed (R155,
log 34). -/
def allowedWeight (e : FeedEntry) (k : SectorId) : Nat := if e.allowed[k] then 1 + k.val else 0

/-- A feed node's fields: enabled and address, and of its set of allowed sectors the count of the members plus the sum
of their sector numbers, so that {8, 9, 10} adds 30 (R155, log 34). -/
def FeedEntry.sum (e : FeedEntry) : Nat :=
  e.enabled.toNat + e.node.val + ((List.finRange 24).map (allowedWeight e)).sum

/-- The sum of every field of every entry, before it is taken modulo 65 536 (R155). -/
def Bank.total (b : Bank) : Nat :=
  b.profile.toList.sum + (b.jacks.toList.map JackEntry.sum).sum
    + (b.sectors.toList.map fun e => e.length + e.thickness).sum
    + (b.mixes.toList.map fun e => e.minExit + e.maxExit).sum
    + b.groups.toList.sum + (b.feeds.toList.map FeedEntry.sum).sum

def Bank.tableSum (b : Bank) : BitVec 16 := BitVec.ofNat 16 b.total

/-! ### The default bank (R153, R154) -/

def defaultProfile : Vector Nat 35 :=
  #v[25, 1200, 300, 2, 4, 8, 3, 120, 300, 0, 1, 10, 3, 300, 60, 30, 4, 1, 450, 2, 40, 180, 30, 10, 30, 20,
    1, 1, 1, 2, 2, 2, 1, 1, 1]

def defaultBank : Bank where
  profile := defaultProfile
  jacks := Vector.ofFn fun j => ⟨false, ⟨j.val + 1, by omega⟩, 0, 0⟩
  sectors := Vector.replicate 24 ⟨0, 0⟩
  mixes := Vector.replicate 8 ⟨3600, 14400⟩
  groups := Vector.replicate 8 0
  feeds := Vector.ofFn fun f => ⟨false, ⟨f.val + 97, by omega⟩, Vector.replicate 24 false⟩

end Sys2Proof.Machine
end

