-- ==== Sys2Proof/Machine/State.lean ====
section
/-! DEFINITION. The state of the part, the queue of commands that wait, the reasons a command could stop, and
the state right after reset. -/

namespace Sys2Proof.Machine

/-- No command ends in a fault: the manual gives every row its effect in every state (log 19). -/
inductive Fault
  deriving DecidableEq, Repr

/-- Why a command has no meaning. -/
inductive Refusal
  /-- Raised by exec for a row that is not modelled yet; no arm raises it. Safe: the model stops where the part
  goes on. -/
  | notModelled (mnemonic : String)
  deriving DecidableEq, Repr

/-- The part: everything the manual gives it, block by block. -/
structure Part where
  /-- JT, one live record per jack (R1). -/
  jacks : Vector Jack 96
  /-- LT, a floor and a layer queue per sector (R24, R25). -/
  sectors : Vector Sector 24
  /-- ADM (R51, R53). -/
  adm : Admission
  /-- XT (R65, R67). -/
  xt : Transactions
  /-- FEED, one live record per feed node (R85). -/
  feeds : Vector Feed 8
  /-- MODE (R97, R146). -/
  mode : ModeRecord
  /-- MON (R117). -/
  mon : Monitor
  /-- SUP (R137). -/
  sup : Supervision
  /-- CFG (R152). -/
  cfg : Store
  /-- The slip clock (R184). -/
  clock : Clock
  /-- MGR's reset cause (R181). -/
  resetCause : ResetCause
  /-- A RESET request has been accepted and its ACK waits to leave: the number of frames of the send queue up to
  and including the ACK; some 0 once the ACK has left (R183). -/
  resetWait : Option Nat
  /-- DPORT's send queue, oldest first (R175). -/
  sendQueue : List Frame
  /-- RPORT's ring-out queue, oldest first (R174). -/
  ringQueue : List RingFrame
  /-- The level of the STOP IN line, true while asserted (R123). -/
  stopIn : Bool
  /-- The level of the RESET line, true while asserted; the part is held in reset meanwhile (R182). -/
  resetLine : Bool
  /-- The STOP OUT line, true while asserted (R106). -/
  stopOut : Bool
  /-- The model's own: the blocks that have still to take the latest advance of the slip clock (log 2). -/
  owed : List Share
  /-- The model's own: orders the manual leaves open (log 3). -/
  order : Order
  deriving DecidableEq, Repr

/-- The part and the commands that wait for it, first in, first out (log 1). -/
structure State where
  part : Part
  pending : List Instr
  deriving DecidableEq, Repr

/-- A jack record after reset: rod-low reported is no, R2's value, where R9's "set afresh at reset" would make it yes
(log 30). -/
def resetJack : Jack := ⟨.absent, 0, 0, 1, 0, false⟩

/-- The mode record after reset (R98, R146). -/
def resetMode : ModeRecord := ⟨.setup, false, none, false, [], 0, false, .none⟩

/-- MON after reset: every pair NOT-PRESENT, empty sets and log, the event set {RESET} (R118). -/
def resetMonitor : Monitor where
  pairs := Vector.replicate 157 ⟨.notPresent, false, false⟩
  blanking := none
  log := []
  alert := false
  events := 1

/-- SUP after reset; last accepted and window start have no value then and stand at 0 (R137, log 5). -/
def resetSupervision : Supervision := ⟨false, 0, 0, 0, 0, false⟩

/-- CFG after reset: both banks the defaults, commit IDLE, stored sum 21 533 (R152). -/
def resetStore : Store := ⟨defaultBank, defaultBank, .idle, 21533⟩

/-- The order in which the blocks take a second after State.reset: that of R184's list, all of them after LT's bond
tests and before the next command, and MODE before MON at a deck-lost declaration, that of R142's list (log 3). -/
def resetOrder : Order :=
  ⟨[.deferred, .transactions, .creep, .lease, .window, .commitWait, .deglitch, .blanking], [], [], false⟩

/-- The STILL to broadcast with tag 0 (R78, R105, R181). -/
def broadcastStill : RingFrame := ⟨⟨127, 0, .still, 0, 0, []⟩, false⟩

/-- The machine right after reset: power-on's reset event and release event (R181, R182) with the RESET and STOP
IN lines released (log 4). Nothing waits. -/
def State.reset : State where
  part :=
    { jacks := Vector.replicate 96 resetJack
      sectors := Vector.replicate 24 ⟨0, []⟩
      adm := ⟨[], Vector.replicate 8 0⟩
      xt := ⟨[], Vector.replicate 127 ⟨0, none⟩⟩
      feeds := Vector.replicate 8 ⟨.ready, none⟩
      mode := resetMode
      mon := resetMonitor
      sup := resetSupervision
      cfg := resetStore
      clock := Config.resetClock
      resetCause := .power
      resetWait := none
      sendQueue := []
      ringQueue := [broadcastStill]
      stopIn := false
      resetLine := false
      stopOut := false
      owed := []
      order := resetOrder }
  pending := []

end Sys2Proof.Machine
end

