-- ==== Sys2Proof/Machine/Operands.lean ====
section
/-! DEFINITION. How values stand in octets: reason and outcome codes, state codes, the widths of REPLY data, and
ages of slip clock values (R167, R168, R178, R179, R184). -/

namespace Sys2Proof.Machine

/-- An age: a difference of slip clock values, taken modulo 2^32 (R184). -/
def age (now recorded : Clock) : Nat := (now - recorded).toNat

/-! ### Octets of numbers (R164, R167) -/

def octet (n : Nat) : Byte := BitVec.ofNat 8 n

def octets2 (n : Nat) : List Byte := [octet (n / 256), octet n]

def octets3 (n : Nat) : List Byte := octet (n / 65536) :: octets2 n

def octets4 (n : Nat) : List Byte := octet (n / 16777216) :: octets3 n

/-- A field marked absent carries all ones in its width (R167). -/
def ones (width : Nat) : List Byte := List.replicate width 0xFF

/-- A position, all ones when absent (R178). -/
def octets2? : Option Nat → List Byte
  | some n => octets2 n
  | none => ones 2

def flagBit (b : Bool) (i : Nat) : Nat := if b then 2 ^ i else 0

/-! ### Codes (R168, R178, R179) -/

def Reason.code : Reason → Byte
  | .range => 1
  | .noNode => 2
  | .wrongKind => 3
  | .mode => 4
  | .jackState => 5
  | .sectorStopped => 6
  | .busy => 7
  | .rod => 8
  | .commit => 9
  | .table => 10
  | .group => 11
  | .spread => 12
  | .fill => 13
  | .young => 14
  | .full => 15
  | .expired => 16
  | .flushed => 17
  | .stopped => 18
  | .short => 19
  | .timeout => 20
  | .nodeBusy => 21
  | .isolated => 22
  | .faulted => 23
  | .stilled => 24
  | .sectorSplice => 25
  | .limit => 26
  | .layersFull => 27
  | .notAllowed => 28
  | .nodeState => 29
  | .noRoom => 30
  | .leased => 31
  | .deck => 32
  | .early => 33
  | .token => 34
  | .notLeased => 35
  | .check => 36
  | .inconsistent => 37
  | .badRequest => 38

/-- The reason an ending reason is answered with (R71). -/
def Ending.reason : Ending → Reason
  | .isolated => .isolated
  | .faulted => .faulted
  | .sectorStopped => .sectorStopped
  | .stopped => .stopped
  | .stilled => .stilled

/-- SETUP 0, SLIP 1, HOLD 2, STOPPED 3 (R169, R178). -/
def ClimbMode.code : ClimbMode → Nat
  | .setup => 0
  | .slip => 1
  | .hold _ => 2
  | .stopped _ => 3

/-- REQUEST 0, DECK-LOST 1, FROM-STOP 2; absent outside HOLD (R178). -/
def ClimbMode.holdCauseOctet : ClimbMode → Byte
  | .hold .request => 0
  | .hold .deckLost => 1
  | .hold .fromStop => 2
  | .setup | .slip | .stopped _ => 0xFF

def ClimbMode.isHold : ClimbMode → Bool
  | .hold _ => true
  | .setup | .slip | .stopped _ => false

def ClimbMode.isStopped : ClimbMode → Bool
  | .stopped _ => true
  | .setup | .slip | .hold _ => false

/-- NONE 0, PENDING 1, HELD 2 (R178). -/
def Lease.code : Lease → Nat
  | .none => 0
  | .pending _ => 1
  | .held _ _ => 2

/-- IDLE 0, PENDING 1 (R178). -/
def CommitState.code : CommitState → Nat
  | .idle => 0
  | .pending _ _ => 1

def CommitState.isPending : CommitState → Bool
  | .idle => false
  | .pending _ _ => true

/-- POWER 0, PIN 1, REQUEST 2 (R178). -/
def ResetCause.code : ResetCause → Nat
  | .power => 0
  | .pin => 1
  | .request => 2

/-- ABSENT 0, ACTIVE 1, CATCHUP 2, SPLICE 3, ISOLATED 4, FAULTED 5 (R179). -/
def JackState.code : JackState → Nat
  | .absent => 0
  | .active => 1
  | .catchup => 2
  | .splice => 3
  | .isolated => 4
  | .faulted _ => 5

/-- PRESSURE 1, SILENT 2, TROUBLE 3, 0 when absent (R179). -/
def JackState.causeCode : JackState → Nat
  | .faulted .pressure => 1
  | .faulted .silent => 2
  | .faulted .trouble => 3
  | .absent | .active | .catchup | .splice | .isolated => 0

/-- 0..7 for a feed node, 8 for ENTERED (R167). -/
def Source.code : Source → Nat
  | .feed f => f.val
  | .entered => 8

/-- The condition codes of R167, in the order of R117's table. -/
def conditionCode : Pair → Nat
  | .spread => 0
  | .bond _ => 1
  | .starve _ => 2
  | .pressure _ => 3
  | .silent _ => 4
  | .trouble _ => 5
  | .rod _ => 6
  | .feed _ => 7
  | .deck => 8
  | .stopin => 9
  | .compound => 10
  | .request => 11

/-- A subject's octet: a sector's number, 32 plus a feed node's index, all ones for none (R167). -/
def subjectOctet : Pair → Byte
  | .bond k | .starve k | .pressure k | .silent k | .trouble k | .rod k => octet k.val
  | .feed f => octet (32 + f.val)
  | .spread | .deck | .stopin | .compound | .request => 0xFF

/-- The sector a pair's subject is, if it is one (R117). -/
def pairSector : Pair → Option SectorId
  | .bond k | .starve k | .pressure k | .silent k | .trouble k | .rod k => some k
  | .spread | .feed _ | .deck | .stopin | .compound | .request => none

/-! ### Request codes (11.1) -/

def codeHeartbeat : Byte := 1
def codeStatus : Byte := 2
def codeFaults : Byte := 3
def codeClear : Byte := 4
def codeTableWrite : Byte := 5
def codeTableRead : Byte := 6
def codeShadowLoad : Byte := 7
def codeCommit : Byte := 8
def codeControl : Byte := 9
def codeSpliceBegin : Byte := 10
def codeSpliceEnd : Byte := 11
def codeRodSet : Byte := 12
def codeIsolate : Byte := 13
def codeRestore : Byte := 14
def codePositionSet : Byte := 15
def codeJackRead : Byte := 16
def codeSectorRead : Byte := 17
def codeLayerRead : Byte := 18
def codeLayerEnter : Byte := 19
def codeLeaseAsk : Byte := 20
def codeLeaseEnd : Byte := 21
def codeReset : Byte := 22
def codeIdent : Byte := 23

/-! ### Outcome codes (R168) -/

def outAck : Byte := 0
def outData : Byte := 1
def outRefused : Byte := 2
def outCommitted : Byte := 3
def outCommitCancelled : Byte := 4
def outLeaseGranted : Byte := 5
def outLeaseEnded : Byte := 6

/-! ### Operands that name entries -/

/-- A table index given as an octet, if it is in range (R14, R38, R39). -/
def indexOf (n : Nat) (b : Byte) : Option (Fin n) := asFin n b.toNat

/-- A node address as an octet. -/
def addrOctet (a : Addr) : Byte := octet a.val

end Sys2Proof.Machine
end

