-- ==== Sys2Proof/Machine/Flags.lean ====
section
/-! DEFINITION. The event set and NOTICE, stop states and ALERT, and the summary field stamped into frames to the
deck (R128, R135, R136, R169). -/

namespace Sys2Proof.Machine

/-- The bit of an event kind in STATUS page 0: RESET 0 to COMMIT-CANCELLED 13 (R178). -/
def EventKind.bit : EventKind → Nat
  | .reset => 0
  | .linkerr => 1
  | .warned => 2
  | .late => 3
  | .unsolicited => 4
  | .nodeBusy => 5
  | .creepSkipped => 6
  | .rodLow => 7
  | .layersFull => 8
  | .overpour => 9
  | .misroute => 10
  | .leaseOverrun => 11
  | .logFull => 12
  | .commitCancelled => 13

/-- An event kind joins the event set; a kind already there leaves it unchanged (R136). -/
def Part.raise (e : EventKind) (p : Part) : Part :=
  { p with mon := { p.mon with events := p.mon.events ||| (1 <<< e.bit) } }

/-- Raise an event when a test holds. -/
def Part.raiseIf (b : Bool) (e : EventKind) (p : Part) : Part := if b then p.raise e else p

/-- Whether a kind is in the event set. -/
def Part.hasEvent (p : Part) (e : EventKind) : Bool := p.mon.events.getLsbD e.bit

/-- The NOTICE flag: the event set is not empty (R136). -/
def Part.notice (p : Part) : Bool := p.mon.events != 0

/-- The place of a pair among MON's 157 (R117). -/
def pairIndex : Pair → Fin 157
  | .spread => 0
  | .bond k => ⟨1 + k.val, by omega⟩
  | .starve k => ⟨25 + k.val, by omega⟩
  | .pressure k => ⟨49 + k.val, by omega⟩
  | .silent k => ⟨73 + k.val, by omega⟩
  | .trouble k => ⟨97 + k.val, by omega⟩
  | .rod k => ⟨121 + k.val, by omega⟩
  | .feed f => ⟨145 + f.val, by omega⟩
  | .deck => 153
  | .stopin => 154
  | .compound => 155
  | .request => 156

/-- MON's record of a pair (R117). -/
def Part.pair (p : Part) (q : Pair) : PairRecord := p.mon.pairs[pairIndex q]

def Part.setPair (q : Pair) (r : PairRecord) (p : Part) : Part :=
  { p with mon := { p.mon with pairs := p.mon.pairs.set (pairIndex q) r } }

/-- All sectors, jacks, feed nodes and mixes in order of index. -/
def sectorIds : List SectorId := List.finRange 24
def jackIds : List JackId := List.finRange 96
def feedIds : List FeedId := List.finRange 8
def mixIds : List MixId := List.finRange 8

/-- The pairs whose subject is a sector (R117). -/
def sectorPairs (k : SectorId) : List Pair :=
  [.bond k, .starve k, .pressure k, .silent k, .trouble k, .rod k]

/-- Every pair (R117). -/
def allPairs : List Pair :=
  .spread :: sectorIds.flatMap sectorPairs ++ feedIds.map .feed ++ [.deck, .stopin, .compound, .request]

/-- A sector is STOPPED while its stop cause set holds a condition, and OPEN while it is empty (R128). -/
def Part.sectorStopped (p : Part) (k : SectorId) : Bool :=
  (sectorPairs k).any fun q => (p.pair q).stopsSector

/-- The number of STOPPED sectors, 0..24 (R128). -/
def Part.stoppedSectors (p : Part) : Nat := sectorIds.countP p.sectorStopped

/-- The ring stop cause set is empty (R129). -/
def Part.ringCausesEmpty (p : Part) : Bool := allPairs.all fun q => !(p.pair q).stopsRing

/-- What the ALERT flag is brought up to date to (R135). -/
def Part.alertDue (p : Part) : Bool := p.mode.mode.isStopped || sectorIds.any p.sectorStopped

/-- MON brings the ALERT flag, and with it the ALERT line, up to date (R135). -/
def Part.updateAlert (p : Part) : Part := { p with mon := { p.mon with alert := p.alertDue } }

/-- The summary field: mode in bits 0-1 of the field, ALERT in bit 2, NOTICE in bit 3 (R169). -/
def Part.summary (p : Part) : BitVec 4 :=
  BitVec.ofNat 4 (p.mode.mode.code + flagBit p.mon.alert 2 + flagBit p.notice 3)

end Sys2Proof.Machine
end

