-- ==== Sys2Proof/Machine/Ops.lean ====
section
/-! DEFINITION. Named operations over the part's registers and queues, and the quantities derived from them:
accessors, deck level and sector bottoms (R3 to R5), heights (R25), address lookups, sending to the deck and onto
the ring (R169, R174, R175). -/

namespace Sys2Proof.Machine

/-! ### Accessors -/

/-- The active bank, the one every block reads (R152). -/
def Part.bank (p : Part) : Bank := p.cfg.active

def Part.jack (p : Part) (j : JackId) : Jack := p.jacks[j]

def Part.setJack (j : JackId) (r : Jack) (p : Part) : Part := { p with jacks := p.jacks.set j r }

/-- A jack's active configuration entry. -/
def Part.jackEntry (p : Part) (j : JackId) : JackEntry := p.bank.jacks[j]

/-- A jack's sector, of its active entry. -/
def Part.sectorOf (p : Part) (j : JackId) : SectorId := (p.jackEntry j).sector

def Part.sector (p : Part) (k : SectorId) : Sector := p.sectors[k]

def Part.setSector (k : SectorId) (x : Sector) (p : Part) : Part := { p with sectors := p.sectors.set k x }

def Part.feed (p : Part) (f : FeedId) : Feed := p.feeds[f]

def Part.setFeed (f : FeedId) (x : Feed) (p : Part) : Part := { p with feeds := p.feeds.set f x }

def Part.feedEntry (p : Part) (f : FeedId) : FeedEntry := p.bank.feeds[f]

/-- A commit is pending (R152). -/
def Part.commitPending (p : Part) : Bool := p.cfg.commit.isPending

/-- The part takes frames from its ports: it is not held in reset (R182), and no accepted RESET request waits
(R183). -/
def Part.takesFrames (p : Part) : Bool := !p.resetLine && p.resetWait.isNone

/-! ### Deck level (R3, R5) -/

/-- Jacks that may climb: ACTIVE and CATCHUP (R43 check 4). -/
def JackState.climbs : JackState → Bool
  | .active | .catchup => true
  | .absent | .splice | .isolated | .faulted _ => false

/-- Jacks counted in the sector bottom (R4). -/
def JackState.inBottom : JackState → Bool
  | .active | .catchup | .splice | .faulted _ => true
  | .absent | .isolated => false

def Part.isActive (p : Part) (j : JackId) : Bool := (p.jack j).state == .active

/-- The positions of the ACTIVE jacks. -/
def Part.activePositions (p : Part) : List Nat :=
  (jackIds.filter p.isActive).map fun j => (p.jack j).position

/-- Lowest ACTIVE, undefined while no jack is ACTIVE (R3). -/
def Part.lowestActive (p : Part) : Option Nat := p.activePositions.min?

/-- Highest ACTIVE (R3). -/
def Part.highestActive (p : Part) : Option Nat := p.activePositions.max?

/-- The spread: highest minus lowest ACTIVE, 0 with fewer than two ACTIVE jacks (R3). -/
def Part.spread (p : Part) : Nat :=
  match p.lowestActive, p.highestActive with
  | some low, some high => high - low
  | _, _ => 0

/-- The splice count (R5). -/
def Part.spliceCount (p : Part) : Nat := jackIds.countP fun j => (p.jack j).state == .splice

/-! ### Sector heights (R4, R25) -/

/-- A jack's height in mm (R1). -/
def Part.height (p : Part) (j : JackId) : Nat := (p.jack j).position * p.bank.strokePitch

/-- The sector bottom: the lowest height of the sector's jacks that count, or the floor when it has none (R4). -/
def Part.sectorBottom (p : Part) (k : SectorId) : Nat :=
  (((jackIds.filter fun j => p.sectorOf j == k && (p.jack j).state.inBottom).map p.height).min?).getD
    (p.sector k).floor

def Layer.top (l : Layer) : Nat := l.base + l.depth

/-- The sector top: the newest layer's top, or the floor when the queue is empty (R25). -/
def Sector.top (x : Sector) : Nat :=
  match x.layers.getLast? with
  | some l => l.top
  | none => x.floor

/-- The sector form top (R25). -/
def Part.formTop (p : Part) (k : SectorId) : Nat := p.sectorBottom k + p.bank.formHeight

/-- A sector in use: some enabled jack entry names it (R120). -/
def Part.inUse (p : Part) (k : SectorId) : Bool :=
  jackIds.any fun j => (p.jackEntry j).enabled && p.sectorOf j == k

/-! ### Addresses (R14, R43, R84) -/

/-- The enabled jack entry that holds an address. -/
def Part.findJack (p : Part) (a : Byte) : Option JackId :=
  jackIds.find? fun j => (p.jackEntry j).enabled && (p.jackEntry j).node.val == a.toNat

/-- The enabled feed node entry that holds an address. -/
def Part.findFeed (p : Part) (a : Byte) : Option FeedId :=
  feedIds.find? fun f => (p.feedEntry f).enabled && (p.feedEntry f).node.val == a.toNat

/-- The node address of a subject: that of its active entry (R65). -/
def Part.addrOf (p : Part) : Subject → Addr
  | .jack j => (p.jackEntry j).node
  | .feed f => (p.feedEntry f).node

/-! ### Open commands (R65) -/

def Task.subject : Task → Subject
  | .lift j => .jack j
  | .pour f _ => .feed f

def Command.subject (c : Command) : Subject := c.task.subject

/-- The open command of a subject (R65: at most one). -/
def Part.openOf (p : Part) (s : Subject) : Option Command := p.xt.table.find? (·.subject == s)

/-- The open command whose node holds an address. -/
def Part.openAt (p : Part) (a : Byte) : Option Command :=
  p.xt.table.find? fun c => (p.addrOf c.subject).val == a.toNat

def Part.openCount (p : Part) : Nat := p.xt.table.length

/-- The deferred entry of a jack (R53: at most one). -/
def Part.entryOf (p : Part) (j : JackId) : Option Entry := p.adm.queue.find? (·.jack == j)

/-! ### Sending (R169, R174, R175) -/

/-- A frame is handed to DPORT: stamped now, and queued, or discarded with LINKERR when 256 wait (R169, R175).
Frames to the deck carry destination 0 (R164). -/
def Part.emit (kind : Kind) (source : Byte) (tag : Tag) (payload : List Byte) (p : Part) : Part :=
  if p.sendQueue.length < Config.maxSend then
    { p with sendQueue := p.sendQueue ++ [⟨0, source, kind, tag, p.summary, payload⟩] }
  else p.raise .linkerr

/-- A REPLY (R167, R168, R176). -/
def Part.reply (tag : Tag) (code outcome : Byte) (data : List Byte) (p : Part) : Part :=
  p.emit .reply 0 tag (code :: outcome :: data)

/-- REPLY ACK. -/
def Part.ack (tag : Tag) (code : Byte) (p : Part) : Part := p.reply tag code outAck []

/-- REPLY DATA. -/
def Part.data (tag : Tag) (code : Byte) (bytes : List Byte) (p : Part) : Part := p.reply tag code outData bytes

/-- REPLY REFUSED with a reason. -/
def Part.deny (tag : Tag) (code : Byte) (r : Reason) (p : Part) : Part := p.reply tag code outRefused [r.code]

/-- REFUSED, answering a deck frame that is no request (R41, R167, R170; header tag: log 14). -/
def Part.refuse (dest : Byte) (kind : Kind) (tag : Tag) (r : Reason) (p : Part) : Part :=
  p.emit .refused 0 tag [dest, kind.code, tag.setWidth 8, r.code]

/-- HELD (R41, R167; header tag: log 14). -/
def Part.held (node : Byte) (tag : Tag) (r : Reason) (p : Part) : Part :=
  p.emit .held 0 tag [node, tag.setWidth 8, r.code]

/-- ENDED (R71, R167; header tag: log 14). -/
def Part.ended (node : Byte) (tag : Tag) (done : Nat) (r : Reason) (p : Part) : Part :=
  p.emit .ended 0 tag ([node, tag.setWidth 8] ++ octets2 done ++ [r.code])

/-- A frame is handed to RPORT, at the back of its queue, with source 0 and no summary (R164, R174). -/
def Part.ringOut (passed : Bool) (kind : Kind) (dest : Byte) (tag : Tag) (payload : List Byte) (p : Part) :
    Part :=
  { p with ringQueue := p.ringQueue ++ [⟨⟨dest, 0, kind, tag, 0, payload⟩, passed⟩] }

/-- Frames passed through from the deck that wait for ring-out (R171). -/
def Part.passedWaiting (p : Part) : Nat := p.ringQueue.countP (·.passed)

end Sys2Proof.Machine
end

