-- ==== Sys2Proof/Machine/Layers.lean ====
section
/-! DEFINITION. The layer table's own work: conversion of volumes, placement, entering, retirement, and the exit
layer, young and bond tests (02_the_layer_table.md). What LT then tells its neighbours (R33) is in
Machine/JackTable.lean and Machine/FeedControl.lean. -/

namespace Sys2Proof.Machine

/-! ### Conversion (R27) -/

/-- The depth of V litres over a cross-section, exact and rounded up to the next mm (R27). -/
def depthOf (e : SectorEntry) (litres : Nat) : Nat :=
  (litres * 1000000 + (e.length * e.thickness - 1)) / (e.length * e.thickness)

def Part.sectorEntry (p : Part) (k : SectorId) : SectorEntry := p.bank.sectors[k]

/-! ### Placement (R28 to R30) -/

/-- The four conditions of a merge (R28). -/
def mergesInto (now : Clock) (interval : Nat) (l : Layer) (mix : MixId) (depth : Nat) : Bool :=
  l.mix == mix && age now l.last ≤ interval && l.depth + depth ≤ Config.maxDepth

/-- A layer grown by a placement: depth up to 65 535, last placed now (R28, R29). -/
def Layer.grow (now : Clock) (depth : Nat) (l : Layer) : Layer :=
  { l with depth := min (l.depth + depth) Config.maxDepth, last := now }

/-- The queue with its newest layer changed. -/
def Sector.mapNewest (f : Layer → Layer) (x : Sector) : Sector :=
  match x.layers.getLast? with
  | some l => { x with layers := x.layers.dropLast ++ [f l] }
  | none => x

/-- The queue with a layer appended at the sector top (R28, R34). -/
def Sector.append (depth : Nat) (mix : MixId) (placed : Clock) (source : Source) (x : Sector) : Sector :=
  { x with layers := x.layers ++ [⟨x.top, depth, mix, placed, placed, source⟩] }

/-- The queue holds 16 layers (R29, R34). -/
def Sector.isFull (x : Sector) : Bool := Config.maxLayers ≤ x.layers.length

/-- A depth of at least 1 mm recorded in a sector: merged (R28), merged into a full queue (R29) or appended. -/
def Sector.place (now : Clock) (interval depth : Nat) (mix : MixId) (f : FeedId) (x : Sector) : Sector :=
  match x.layers.getLast? with
  | some l =>
    if x.isFull || mergesInto now interval l mix depth then x.mapNewest (Layer.grow now depth)
    else x.append depth mix now (.feed f)
  | none => x.append depth mix now (.feed f)

/-- A full queue whose newest layer would pass 65 535 mm (R29). -/
def Sector.overflows (depth : Nat) (x : Sector) : Bool :=
  x.isFull && (match x.layers.getLast? with
    | some l => Config.maxDepth < l.depth + depth
    | none => false)

/-- The sector top stands above the sector form top (R30). -/
def Part.overTop (p : Part) (k : SectorId) : Bool := p.formTop k < (p.sector k).top

/-- What a placement does to the layer table and which events it raises (R27 to R30). The flag tells whether the
queue changed, so that LT reports by R33: a placement of 0 litres hands nothing, one that MISROUTE discards hands
the event alone. -/
def Part.placeRecord (k : SectorId) (litres : Nat) (mix : MixId) (f : FeedId) (p : Part) : Part × Bool :=
  if litres = 0 then (p, false)
  else if (p.sectorEntry k).configured then
    let computed := depthOf (p.sectorEntry k) litres
    let depth := min computed Config.maxDepth
    let x := p.sector k
    let q := p.setSector k (x.place p.clock p.bank.mergeInterval depth mix f)
    let tooHigh := Config.maxDepth < computed || x.overflows depth || q.overTop k
    ((q.raiseIf x.isFull .layersFull).raiseIf tooHigh .overpour, true)
  else (p.raise .misroute, false)

/-! ### Retirement (R31) -/

/-- The layers a new sector bottom has passed leave from the front; the floor becomes the top of the last one, and
is raised to the bottom when no layer is left (R31). -/
def Sector.retire (bottom : Nat) (x : Sector) : Sector :=
  let gone := x.layers.takeWhile fun l => l.top ≤ bottom
  let kept := x.layers.dropWhile fun l => l.top ≤ bottom
  let floor := match gone.getLast? with
    | some l => l.top
    | none => x.floor
  { floor := if kept.isEmpty then max floor bottom else floor, layers := kept }

/-- Retirement in one sector whose bottom has risen from an earlier value; nothing otherwise (R31, R32). -/
def Part.retireFrom (before : Nat) (k : SectorId) (p : Part) : Part :=
  if before < p.sectorBottom k then p.setSector k ((p.sector k).retire (p.sectorBottom k)) else p

/-! ### Tests (R35 to R37) -/

/-- The exit layer of a proposed height (R35). -/
def Sector.exitLayer (x : Sector) (h : Nat) : Option Layer :=
  x.layers.find? fun l => l.base < h && h ≤ l.top

def Part.mixEntry (p : Part) (m : MixId) : MixEntry := p.bank.mixes[m]

/-- The young test for a proposed height in a sector (R36). -/
def Part.young (p : Part) (k : SectorId) (h : Nat) : Bool :=
  match (p.sector k).exitLayer h with
  | some l => age p.clock l.last < (p.mixEntry l.mix).minExit
  | none => false

/-- The bond test of a sector (R37). -/
def Part.bond (p : Part) (k : SectorId) : Bool :=
  (p.sector k).layers.any fun l =>
    p.sectorBottom k < l.top && (p.mixEntry l.mix).maxExit < age p.clock l.first

end Sys2Proof.Machine
end

