-- ==== Sys2Proof/Machine/Transactions.lean ====
section
/-! DEFINITION. The transaction table: opening commands and sending their sub-transactions under XT's own tags
(R65 to R69), resends (R76), and the time limit (R74). Closing is in Machine/Closing.lean. -/

namespace Sys2Proof.Machine

/-! ### The table -/

def Task.kind : Task → Kind
  | .lift _ => .lift
  | .pour _ _ => .pour

def Command.kind (c : Command) : Kind := c.task.kind

def Part.setTable (t : List Command) (p : Part) : Part := { p with xt := { p.xt with table := t } }

/-- The record of a subject's command replaced. -/
def Part.setCommand (c : Command) (p : Part) : Part :=
  p.setTable (p.xt.table.map fun d => if d.subject = c.subject then c else d)

/-- The record of a subject's command removed (R72 step 1). -/
def Part.removeCommand (s : Subject) (p : Part) : Part :=
  p.setTable (p.xt.table.filter fun d => d.subject ≠ s)

/-! ### Tags (R67) -/

def Part.nodeTags (p : Part) (a : Addr) : NodeTags := p.xt.nodes[a]

def Part.setNodeTags (a : Addr) (t : NodeTags) (p : Part) : Part :=
  { p with xt := { p.xt with nodes := p.xt.nodes.set a t } }

/-- The last abandoned tag of an address is set (R75) or discarded (R67). -/
def Part.setAbandoned (a : Addr) (x : Option Abandoned) (p : Part) : Part :=
  p.setNodeTags a { p.nodeTags a with abandoned := x }

/-- The tag of the next sub-transaction to an address (R67). -/
def Part.nextTag (p : Part) (a : Addr) : Tag := (p.nodeTags a).counter + 1

def Part.setCounter (a : Addr) (t : Tag) (p : Part) : Part :=
  p.setNodeTags a { p.nodeTags a with counter := t }

/-! ### Sub-transactions (R69) -/

/-- The size of a command's next sub-transaction (R69). -/
def Part.nextSize (p : Part) (c : Command) : Nat :=
  match c.task with
  | .lift j => min (c.asked - c.done) (p.jack j).depth
  | .pour _ _ => c.asked

/-- The frame of a command's present sub-transaction handed to RPORT (R69, R167). -/
def Part.sendFrame (c : Command) (p : Part) : Part :=
  let dest := addrOctet (p.addrOf c.subject)
  match c.task with
  | .lift _ => p.ringOut false .lift dest c.tag [octet c.size]
  | .pour _ k => p.ringOut false .pour dest c.tag (octet k.val :: octets2 c.size)

/-- A new sub-transaction of a command: the next tag, its size, phase SENT, sent now, no retries used (R69). -/
def Part.sendSub (c : Command) (p : Part) : Part :=
  let a := p.addrOf c.subject
  let t := p.nextTag a
  let c := { c with tag := t, size := p.nextSize c, phase := .sent, sent := p.clock, retries := 0 }
  ((p.setCounter a t).setCommand c).sendFrame c

/-- A command opened: the address's last abandoned tag is discarded, the record made, its first sub-transaction
sent (R68). -/
def Part.openCommand (task : Task) (origin : Origin) (asked : Nat) (p : Part) : Part :=
  let c : Command := ⟨task, origin, asked, 0, 0, 0, .sent, p.clock, 0, none, none⟩
  let p := p.setAbandoned (p.addrOf c.subject) none
  (p.setTable (p.xt.table ++ [c])).sendSub c

/-- The resend due: the same frame under the same tag, sent now (R76). -/
def Part.resend (c : Command) (p : Part) : Part :=
  let c := { c with phase := .sent, sent := p.clock }
  (p.setCommand c).sendFrame c

/-- The time limit of a sub-transaction in SENT, in seconds (R74). -/
def Part.timeLimit (p : Part) (c : Command) : Nat :=
  match c.task with
  | .lift _ => p.bank.strokeTime * c.size
  | .pour _ _ => p.bank.feedTime

/-- The sub-transaction has reached its time limit at this advance (R74). -/
def Part.timedOut (p : Part) (c : Command) : Bool :=
  c.phase == .sent && age p.clock c.sent == p.timeLimit c

/-- The resend is due at this advance (R76). -/
def Part.resendDue (p : Part) (c : Command) : Bool :=
  c.phase == .resend && age p.clock c.sent == Config.resendPause

end Sys2Proof.Machine
end

