-- ==== Sys2Proof/Machine/Admission.lean ====
section
/-! DEFINITION. The admission unit: the checks of a LIFT (R43 to R48), deferral (R49), admission (R50), pump group
occupancy (R51), the re-examination pass (R55, R56), and the removals of R57 to R60. -/

namespace Sys2Proof.Machine

/-! ### Checks -/

def Part.groupOf (p : Part) (j : JackId) : GroupId := (p.jackEntry j).group

def Part.occupancy (p : Part) (g : GroupId) : Nat := p.adm.occupancy[g]

def Part.setOccupancy (g : GroupId) (n : Nat) (p : Part) : Part :=
  { p with adm := { p.adm with occupancy := p.adm.occupancy.set g n } }

def Part.setQueue (q : List Entry) (p : Part) : Part := { p with adm := { p.adm with queue := q } }

/-- Checks 4 to 7 of R43 for a jack and n strokes, shared with device LIFTs (R62). -/
def Part.jackCheck (p : Part) (j : JackId) (n : Nat) : Option Reason :=
  if !(p.jack j).state.climbs then some .jackState
  else if p.sectorStopped (p.sectorOf j) then some .sectorStopped
  else if (p.openOf (.jack j)).isSome || (p.entryOf j).isSome then some .busy
  else if (p.jack j).rod < n then some .rod
  else none

/-- The SPREAD check fails: (position + n) − lowest ACTIVE is above the spread admit limit (R46). -/
def Part.spreadFails (p : Part) (j : JackId) (n : Nat) : Bool :=
  match p.lowestActive with
  | some low => low + p.bank.spreadAdmit < (p.jack j).position + n
  | none => false

/-- The height a jack would stand at after n strokes (R35, R47). -/
def Part.proposed (p : Part) (j : JackId) (n : Nat) : Nat := ((p.jack j).position + n) * p.bank.strokePitch

/-- The FILL check fails: sector top − h, with its sign, is below min fill (R47). -/
def Part.fillFails (p : Part) (j : JackId) (n : Nat) : Bool :=
  (p.sector (p.sectorOf j)).top < p.proposed j n + p.bank.minFill

/-- The first transient check that fails, in the order COMMIT, TABLE, GROUP, SPREAD, FILL, YOUNG (R44 to R49). -/
def Part.transientCheck (p : Part) (j : JackId) (n : Nat) : Option Reason :=
  if p.commitPending then some .commit
  else if Config.maxOpen ≤ p.openCount then some .table
  else if p.occupancy (p.groupOf j) = p.bank.groups[p.groupOf j] then some .group
  else if p.spreadFails j n then some .spread
  else if p.fillFails j n then some .fill
  else if p.young (p.sectorOf j) (p.proposed j n) then some .young
  else none

/-! ### Admission (R50, R51) -/

/-- A LIFT takes a place in its pump group and XT opens its command (R50, R62). -/
def Part.admitLift (j : JackId) (n : Nat) (origin : Origin) (p : Part) : Part :=
  let g := p.groupOf j
  (p.setOccupancy g (p.occupancy g + 1)).openCommand (.lift j) origin n

/-- The fall of a group's occupancy at a close (R51). -/
def Part.release (g : GroupId) (p : Part) : Part := p.setOccupancy g (p.occupancy g - 1)

/-! ### The deferred queue (R53) -/

def Part.dropEntry (j : JackId) (p : Part) : Part := p.setQueue (p.adm.queue.filter fun e => e.jack ≠ j)

/-- An entry removed and answered REFUSED under the address and deck tag of its LIFT. -/
def Part.refuseEntry (r : Reason) (p : Part) (e : Entry) : Part :=
  (p.dropEntry e.jack).refuse e.node .lift e.tag r

/-- Every entry of a kind removed, oldest first, each answered with one reason (R57, R58; for R59 and R60, which give
no order, log 31). -/
def Part.removeEntries (which : Entry → Bool) (r : Reason) (p : Part) : Part :=
  (p.adm.queue.filter which).foldl (Part.refuseEntry r) p

/-- The flush on leaving SLIP (R57). -/
def Part.flush (r : Reason) (p : Part) : Part := p.removeEntries (fun _ => true) r

/-- What checks 2, 4 and 5 test still holds of an entry. An entry for which it does not is being removed in this
same event (R58 to R60) and no pass examines it (log 7). -/
def Part.entryStands (p : Part) (e : Entry) : Bool :=
  (p.jack e.jack).state.climbs && !p.sectorStopped (p.sectorOf e.jack)
    && (p.jackEntry e.jack).node.val == e.node.toNat

/-- The entry's age exceeds the defer limit (R55, R56). -/
def Part.overdue (p : Part) (e : Entry) : Bool := p.bank.deferLimit < age p.clock e.deferred

/-- The entry's new reason is kept, and a fresh HELD sent, when it differs from the one it held (R55). -/
def Part.rehold (e : Entry) (r : Reason) (p : Part) : Part :=
  if e.reason = r then p
  else (p.setQueue (p.adm.queue.map fun d => if d.jack = e.jack then { d with reason := r } else d)).held
    e.node e.tag r

/-- A pass examines one entry (R55). The expiry guard is used at ADM's own share of an advance, and between the
advance and that share (R56, R161; log 9). -/
def Part.examineEntry (expiring : Bool) (p : Part) (e : Entry) : Part :=
  if !p.entryStands e then p
  else if expiring && p.overdue e then p.refuseEntry .expired e
  else if (p.jack e.jack).rod < e.strokes then p.refuseEntry .rod e
  else match p.transientCheck e.jack e.strokes with
    | none => (p.dropEntry e.jack).admitLift e.jack e.strokes (.deck e.tag)
    | some r => p.rehold e r

/-- The entry of a jack, if it still stands in the queue, examined. -/
def Part.examine (expiring : Bool) (p : Part) (j : JackId) : Part :=
  match p.entryOf j with
  | some e => p.examineEntry expiring e
  | none => p

/-- One re-examination pass, taken whole: the entries in queue order, oldest first, each once (R54, R55). -/
def Part.passWith (expiring : Bool) (p : Part) : Part :=
  (p.adm.queue.map Entry.jack).foldl (Part.examine expiring) p

/-- A pass caused by anything but ADM's own share of an advance. -/
def Part.admPass (p : Part) : Part := p.passWith (p.owed.contains .deferred)

/-! ### A deck LIFT (R41, R43, R49) -/

/-- The LIFT is deferred: an entry at the back and a HELD, or REFUSED FULL (R49). -/
def Part.defer (j : JackId) (dest : Byte) (n : Nat) (tag : Tag) (r : Reason) (p : Part) : Part :=
  if p.adm.queue.length < Config.maxDeferred then
    (p.setQueue (p.adm.queue ++ [⟨j, dest, n, tag, p.clock, r⟩])).held dest tag r
  else p.refuse dest .lift tag .full

/-- Check 2 of R43, of an address that is no enabled jack. -/
def Part.noJackReason (p : Part) (a : Byte) : Reason := if (p.findFeed a).isSome then .wrongKind else .noNode

/-- A deck LIFT for address dest asking n strokes, decided as one event (R41, R43). -/
def Part.deckLift (dest : Byte) (tag : Tag) (n : Nat) (p : Part) : Part :=
  if !(1 ≤ n && n ≤ 8) then p.refuse dest .lift tag .range
  else match p.findJack dest with
    | none => p.refuse dest .lift tag (p.noJackReason dest)
    | some j =>
      if p.mode.mode ≠ .slip then p.refuse dest .lift tag .mode
      else match p.jackCheck j n with
        | some r => p.refuse dest .lift tag r
        | none =>
          match p.transientCheck j n with
          | some r => p.defer j dest n tag r
          | none => p.admitLift j n (.deck tag)

/-! ### A device LIFT (R62) -/

/-- Whether a verdict's reason leaves the jack waiting in the round list (R62). -/
def Reason.waits : Reason → Bool
  | .commit | .table | .group | .spread => true
  | _ => false

/-- The first failing check of a device LIFT of one stroke, none when it is ISSUED (R62). -/
def Part.deviceCheck (p : Part) (j : JackId) : Option Reason :=
  match p.jackCheck j 1 with
  | some r => some r
  | none => p.transientCheck j 1

end Sys2Proof.Machine
end

