-- ==== Sys2Proof/Machine/Creep.lean ====
section
/-! DEFINITION. Creep rounds and the grant of the service lease: offers, passes, the end test (R110 to R116,
R148). -/

namespace Sys2Proof.Machine

def Part.setMode (m : ModeRecord) (p : Part) : Part := { p with mode := m }

/-- The grant test of R116: no round in progress and no round command open. -/
def Part.grantTest (p : Part) : Bool := !p.mode.roundInProgress && p.mode.roundCommands == 0

/-- MODE grants a pending lease that passes the test, with the later REPLY LEASE-GRANTED (R116, R148). -/
def Part.leaseTest (p : Part) : Part :=
  match p.mode.lease with
  | .pending asking =>
    if p.grantTest then
      (p.setMode { p.mode with lease := .held asking p.clock }).reply asking codeLeaseAsk outLeaseGranted []
    else p
  | .none | .held _ _ => p

/-- MODE tests the lease for an event that found the part pre: each end of a round and each close of a DEVICE command in
it asks for the test (R114, R116), and one of them has come to pass exactly where the test passes now and did not then.
The REPLY follows the answers of all the closes of the event (R148, log 39). -/
def Part.leaseSince (pre p : Part) : Part := if pre.grantTest then p else p.leaseTest

def Part.dropFromRound (j : JackId) (p : Part) : Part :=
  p.setMode { p.mode with roundList := p.mode.roundList.filter (· ≠ j) }

/-- One offer of a device LIFT, and what MODE does with the verdict (R62, R111). -/
def Part.offer (p : Part) (j : JackId) : Part :=
  match p.deviceCheck j with
  | none =>
    let q := (p.admitLift j 1 .device).dropFromRound j
    q.setMode { q.mode with roundCommands := q.mode.roundCommands + 1 }
  | some r => if r.waits then p else p.dropFromRound j

/-- The round ends when its list is empty and no round command is open (R114); the lease is tested at the end of the
event (R148, log 39). -/
def Part.endRoundTest (p : Part) : Part :=
  if p.mode.roundInProgress && p.mode.roundList.isEmpty && p.mode.roundCommands == 0 then
    p.setMode { p.mode with roundInProgress := false }
  else p

/-- The first case of the end test: jacks that nothing open can mend are dropped (R114). -/
def Part.dropStuck (p : Part) : Part :=
  if !p.mode.roundList.isEmpty && p.xt.table.isEmpty && !p.commitPending then
    p.setMode { p.mode with roundList := [] }
  else p

/-- A pass over the creep round list, with the end test at its end (R111, R114). -/
def Part.creepPass (p : Part) : Part := (p.mode.roundList.foldl Part.offer p).dropStuck.endRoundTest

/-- A further pass, made only while the list is not empty (R112). -/
def Part.creepPassIfWaiting (p : Part) : Part := if p.mode.roundList.isEmpty then p else p.creepPass

/-- A creep round starts: the list of climbing jacks in OPEN sectors, and the first pass (R110). -/
def Part.startRound (p : Part) : Part :=
  (p.setMode { p.mode with
    roundInProgress := true
    roundList := jackIds.filter fun j => (p.jack j).state.climbs && !p.sectorStopped (p.sectorOf j) }).creepPass

/-- MODE drops every jack still in the list, at RESUME and at entry into STOPPED (R102, R105). -/
def Part.emptyRound (p : Part) : Part := p.setMode { p.mode with roundList := [] }

/-- MODE is told of a jack that has left ACTIVE and CATCHUP (R113). A round left with an empty list and no open
command ends (R114, log 11). -/
def Part.roundLoses (j : JackId) (p : Part) : Part := (p.dropFromRound j).endRoundTest

/-- MODE is told of a close (R72 step 5): a DEVICE close lowers round commands, the waiting jacks are offered
again, and the round may end (R112, R114); the lease is tested at the end of the event (R116, R148, log 39). -/
def Part.toldOfClose (origin : Origin) (p : Part) : Part :=
  match origin with
  | .device =>
    let q := p.setMode { p.mode with roundCommands := p.mode.roundCommands - 1 }
    q.creepPassIfWaiting.endRoundTest
  | .deck _ => p.creepPassIfWaiting

/-- The owed round after a lease has ended: it starts at once in HOLD (R116). -/
def Part.owedRound (p : Part) : Part :=
  if p.mode.mode.isHold && p.mode.roundOwed then
    (p.setMode { p.mode with roundOwed := false }).startRound
  else p

end Sys2Proof.Machine
end

