-- ==== Sys2Proof/Machine/Monitor.lean ====
section
/-! DEFINITION. What the condition monitor keeps for itself: the fault log (R131, R132), condition states
(R125), and the inputs of the conditions (R117, R119 to R121). What an assertion does to the deck is in
Machine/Stops.lean. -/

namespace Sys2Proof.Machine

/-! ### The fault log -/

def Part.setLog (l : List LogRecord) (p : Part) : Part := { p with mon := { p.mon with log := l } }

/-- A record that an assertion finds: one more repeat up to 255, and the fields of this assertion (R131). -/
def LogRecord.again (now : Clock) (m : CondMode) (detail : Option JackId) (r : LogRecord) : LogRecord :=
  { r with repeats := min (r.repeats + 1) 255, last := now, applied := m, detail := detail, present := true }

/-- The log with room for one more record, or none when no record may go (R132). -/
def logRoom (l : List LogRecord) : Option (List LogRecord) :=
  if l.length < Config.maxLog then some l
  else if l.any (!·.present) then some (l.eraseP (!·.present))
  else if l.any (·.applied == .warn) then some (l.eraseP (·.applied == .warn))
  else none

/-- The fault log takes an assertion (R131, R132). -/
def Part.logAssertion (q : Pair) (m : CondMode) (detail : Option JackId) (p : Part) : Part :=
  if p.mon.log.any (·.pair == q) then
    p.setLog (p.mon.log.map fun r => if r.pair = q then r.again p.clock m detail else r)
  else match logRoom p.mon.log with
    | some l => p.setLog (l ++ [⟨q, m, detail, p.clock, p.clock, 1, true⟩])
    | none => p.raise .logFull

/-! ### Condition states -/

def PairState.isPresent : PairState → Bool
  | .present _ => true
  | .notPresent | .pending _ => false

def Part.setPairState (q : Pair) (x : PairState) (p : Part) : Part :=
  p.setPair q { p.pair q with state := x }

/-- A pair leaves PENDING or PRESENT; its record, if any, reads present no. Cause sets stay (R125). -/
def Part.cease (q : Pair) (p : Part) : Part :=
  let log := if (p.pair q).state.isPresent then
      p.mon.log.map fun r => if r.pair = q then { r with present := false } else r
    else p.mon.log
  (p.setPairState q .notPresent).setLog log

/-- A pair's input found true makes it assert at once: NOT-PRESENT, without deglitch time (R125). -/
def Part.assertsNow (q : Pair) (input : Bool) (p : Part) : Bool :=
  input && (p.pair q).state == .notPresent && p.bank.deglitch q == 0

/-- The table of R125 where it asserts nothing: an input found true starts the wait of a NOT-PRESENT pair, one found
false ends PENDING and PRESENT. -/
def Part.follow (q : Pair) (input : Bool) (p : Part) : Part :=
  match (p.pair q).state with
  | .notPresent => if input then p.setPairState q (.pending p.clock) else p
  | .pending _ | .present _ => if input then p else p.cease q

/-- A condition joins its sector's stop cause set (R128). -/
def Part.addSectorCause (q : Pair) (p : Part) : Part := p.setPair q { p.pair q with stopsSector := true }

/-- A pair joins the ring stop cause set (R129). -/
def Part.addRingCause (q : Pair) (p : Part) : Part := p.setPair q { p.pair q with stopsRing := true }

/-- What an assertion does inside MON: the pair is PRESENT under the mode applied, the log takes the assertion,
WARNED is raised or a cause set grows (R127). The stops that follow are Machine/Stops.lean's. -/
def Part.noteAssertion (q : Pair) (detail : Option JackId) (p : Part) : Part :=
  let m := p.bank.condMode q
  let p := p.setPairState q (.present m)
  match m with
  | .ignore => p
  | .warn => (p.logAssertion q m detail).raise .warned
  | .sector => (p.logAssertion q m detail).addSectorCause q
  | .ring => (p.logAssertion q m detail).addRingCause q

/-! ### Inputs -/

/-- SPREAD and STARVE are held back: blanking runs in SLIP (R126). -/
def Part.blanked (p : Part) : Bool := p.mode.mode == .slip && p.mon.blanking.isSome

/-- SPREAD's input (R119). -/
def Part.spreadInput (p : Part) : Bool :=
  p.mode.mode != .setup && !p.blanked && p.bank.spreadAlarm < p.spread

/-- BOND's input (R120). -/
def Part.bondInput (p : Part) (k : SectorId) : Bool := p.inUse k && p.bond k

/-- The fill of a sector is below min fill (R25, R120). -/
def Part.fillLow (p : Part) (k : SectorId) : Bool :=
  (p.sector k).top < p.sectorBottom k + p.bank.minFill

/-- STARVE's input: in SLIP outside blanking and in HOLD, for a sector in use (R120). -/
def Part.starveInput (p : Part) (k : SectorId) : Bool :=
  (p.mode.mode == .slip || p.mode.mode.isHold) && !p.blanked && p.inUse k && p.fillLow k

/-- COMPOUND's input (R124). -/
def Part.compoundInput (p : Part) : Bool := p.bank.sectorStopLimit < p.stoppedSectors

/-- The fault condition or ROD condition whose test a jack meets; it meets at most one (R117, R121). -/
def Part.meets (p : Part) (j : JackId) : Option Pair :=
  match (p.jack j).state with
  | .faulted .pressure => some (.pressure (p.sectorOf j))
  | .faulted .silent => some (.silent (p.sectorOf j))
  | .faulted .trouble => some (.trouble (p.sectorOf j))
  | .active | .catchup => if (p.jack j).rod = 0 then some (.rod (p.sectorOf j)) else none
  | .absent | .splice | .isolated => none

end Sys2Proof.Machine
end

