-- ==== Sys2Proof/Machine/Closing.lean ====
section
/-! DEFINITION. Closing an open command (R71, R72), and stopping one in flight: ending reasons, STILLs and the
close of a command in RESEND (R78, R79). Closes that fault their subject are in Machine/FeedControl.lean. -/

namespace Sys2Proof.Machine

/-- A close of a command (R72 steps 1 to 5); the argument answer is step 2, the argument fault step 3. Step 6 is
taken at the end of the event (Machine/Tick.lean, log 6). -/
def Part.closeWith (c : Command) (answer fault : Part → Part) (p : Part) : Part :=
  let p := fault (answer (p.removeCommand c.subject))
  let p := match c.task with
    | .lift j => p.release (p.groupOf j)
    | .pour _ _ => p
  p.admPass.toldOfClose c.origin

/-- ENDED to the deck for a DECK command, nothing for a DEVICE command (R71). -/
def Part.answerEnded (c : Command) (r : Reason) (p : Part) : Part :=
  match c.origin with
  | .deck tag => p.ended (addrOctet (p.addrOf c.subject)) tag c.done r
  | .device => p

/-- A feed node that was POURING returns to READY, its FEED input absent (R90 step 1, R91). -/
def Part.feedReturn (f : FeedId) (p : Part) : Part :=
  if (p.feed f).state = .pouring then
    (p.setFeed f { p.feed f with state := .ready }).cease (.feed f)
  else p

/-- What becomes of the subject of a command that ends without a fault (R91). -/
def Part.subjectReturn (c : Command) (p : Part) : Part :=
  match c.task with
  | .lift _ => p
  | .pour f _ => p.feedReturn f

/-- A command closes as ended with a reason (R71, R77, R79). -/
def Part.closeEnded (c : Command) (r : Reason) (p : Part) : Part :=
  p.closeWith c (·.answerEnded c r) (·.subjectReturn c)

/-! ### Ending reasons (R78, R79) -/

/-- A command takes an ending reason unless it has one. -/
def Command.mark (e : Ending) (c : Command) : Command := { c with ending := some (c.ending.getD e) }

/-- Every command of a kind takes an ending reason unless it has one (R78). -/
def Part.markAll (e : Ending) (which : Command → Bool) (p : Part) : Part :=
  p.setTable (p.xt.table.map fun c => if which c then c.mark e else c)

/-- The command of a subject, if it has one, takes an ending reason. -/
def Part.markOf (e : Ending) (x : Subject) (p : Part) : Part := p.markAll e (·.subject == x)

/-- A STILL to the node of a command, under the command's current tag (R78). -/
def Part.stillNode (p : Part) (c : Command) : Part :=
  p.ringOut false .still (addrOctet (p.addrOf c.subject)) c.tag []

/-- A command in RESEND that is being stopped closes at once (R79). -/
def Part.closeStopped (x : Subject) (p : Part) : Part :=
  match p.openOf x with
  | some c =>
    match c.phase, c.ending with
    | .resend, some e => p.closeEnded c e.reason
    | _, _ => p
  | none => p

/-- The closes of R79 for every command open now, in the table's order (log 10). -/
def Part.closeAllStopped (p : Part) : Part :=
  (p.xt.table.map Command.subject).foldl (fun p x => p.closeStopped x) p

end Sys2Proof.Machine
end

