-- ==== Sys2Proof/Machine/Stops.lean ====
section
/-! DEFINITION. What assertions do to the deck: the sector stop (R128), the assertion itself (R127), the tests of the
conditions whose inputs MON evaluates (R119, R120, R124, R130), the entry into STOPPED (R105), and the judging of one
event. -/

namespace Sys2Proof.Machine

/-! ### The sector stop (R128) -/

/-- A LIFT of a jack whose active entry names the sector. -/
def Part.liftsIn (p : Part) (k : SectorId) (c : Command) : Bool :=
  match c.task with
  | .lift j => p.sectorOf j == k
  | .pour _ _ => false

/-- A sector that has become STOPPED: ending reasons and STILLs, the removals of R58, ALERT (R128 steps 1 to 3). That
the STILLs go out in the order of the transaction table is the model's choice (log 36).
COMPOUND is evaluated when the event's assertions have all been made (R127). -/
def Part.stopSector (k : SectorId) (p : Part) : Part :=
  let mine := p.xt.table.filter (p.liftsIn k)
  let p := p.markAll .sectorStopped (p.liftsIn k)
  let p := mine.foldl Part.stillNode p
  let p := (mine.map Command.subject).foldl (fun p x => p.closeStopped x) p
  (p.removeEntries (fun e => p.sectorOf e.jack == k) .sectorStopped).updateAlert

/-! ### Assertion (R127)

MON judges an event in one go. Each test leaves the part with what it noted and the sector it stopped, and says whether
it asks for the ring stop; MODE takes that request once, after all the tests of the event (R127, R129, log 29). -/

/-- A test of MON's: the part it leaves, and whether it asks for the ring stop. -/
abbrev Judging := Part → Part × Bool

/-- An assertion with its sector stop (R127, R128). -/
def Part.assertHere (q : Pair) (detail : Option JackId) (p : Part) : Part :=
  match p.bank.condMode q, pairSector q with
  | .sector, some k =>
    if p.sectorStopped k then p.noteAssertion q detail else (p.noteAssertion q detail).stopSector k
  | _, _ => p.noteAssertion q detail

/-- An assertion: under mode RING it asks for the ring stop (R129). -/
def assertion (q : Pair) (detail : Option JackId) : Judging :=
  fun p => (p.assertHere q detail, p.bank.condMode q == .ring)

/-- A pair's input, with an assertion that has no detail jack, by the table of R125. -/
def judging (q : Pair) (input : Part → Bool) : Judging := fun p =>
  if p.assertsNow q (input p) then assertion q none p else (p.follow q (input p), false)

def bondJudging (k : SectorId) : Judging := judging (.bond k) (·.bondInput k)

def starveJudging (k : SectorId) : Judging := judging (.starve k) (·.starveInput k)

def spreadJudging : Judging := judging .spread Part.spreadInput

/-- COMPOUND, evaluated after the sector stops of an event (R124, R127). -/
def compoundJudging : Judging := judging .compound Part.compoundInput

/-- BOND, then STARVE of a sector (R120); that BOND goes first is the model's choice (log 35). -/
def sectorJudgings (k : SectorId) : List Judging := [bondJudging k, starveJudging k]

/-- A pair in PRESENT whose mode is no longer its applied mode, and is not IGNORE (R130). -/
def Part.outmoded (p : Part) (q : Pair) : Bool :=
  match (p.pair q).state with
  | .present m => p.bank.condMode q != m && p.bank.condMode q != .ignore
  | .notPresent | .pending _ => false

/-- Such a pair is asserted anew, with no detail jack (R130, log 21). -/
def reasserting (q : Pair) : Judging := fun p => if p.outmoded q then assertion q none p else (p, false)

/-- Tests made one after the other, each on the part the one before it left. -/
def judgeAll : List Judging → Judging
  | [], p => (p, false)
  | f :: l, p =>
    let r := f p
    let t := judgeAll l r.1
    (t.1, r.2 || t.2)

/-! ### Entry into STOPPED (R105) -/

def ClimbMode.left : ClimbMode → StoppedFrom
  | .setup => .setup
  | .slip => .slip
  | .hold _ => .hold
  | .stopped l => l

/-- MON told of STOPPED (R99 step 3): ALERT, blanking ended, STARVE not judged, SPREAD judged. The part is
STOPPED already, so an assertion found here asks for nothing more. -/
def Part.toldOfStopped (p : Part) : Part :=
  let p := { p with mon := { p.mon with blanking := none } }.updateAlert
  let p := sectorIds.foldl (fun p k => p.follow (.starve k) false) p
  (spreadJudging p).1

/-- MODE takes a ring stop request (R105). The creep list is dropped with the mode change, so that no close of
this event offers a jack (log 11). -/
def Part.enterStopped (p : Part) : Part :=
  match p.mode.mode with
  | .stopped _ => p
  | old =>
    let p := p.setMode { p.mode with
      mode := .stopped old.left, creepTimer := none, roundList := [], roundOwed := false }
    let p := if old = .slip then p.flush .stopped else p
    let p := (p.markAll .stopped fun _ => true).closeAllStopped
    let p := p.ringOut false .still 127 0 []
    let p := { p with stopOut := true }.endRoundTest.toldOfStopped
    { p with sup := { p.sup with active := false } }

/-! ### The judging of an event -/

/-- The tests of one event, and the ring stop if one of them asks for it (R127, R129). -/
def Part.event (l : List Judging) (p : Part) : Part :=
  let r := judgeAll l p
  if r.2 then r.1.enterStopped else r.1

/-- An assertion that is an event of its own. -/
def Part.assertPair (q : Pair) (detail : Option JackId) (p : Part) : Part := p.event [assertion q detail]

/-- A pair's input, judged as an event of its own. -/
def Part.judge (q : Pair) (input : Bool) (p : Part) : Part := p.event [judging q fun _ => input]

def Part.judgeCompound (p : Part) : Part := p.event [compoundJudging]

/-- BOND and STARVE of one sector that LT reports, then COMPOUND (R33 step 3, log 35). -/
def Part.judgeReported (k : SectorId) (p : Part) : Part := p.event (sectorJudgings k ++ [compoundJudging])

/-- STARVE of every sector, SPREAD and COMPOUND: at a mode change and at the end of blanking (R119, R120,
R126). -/
def Part.judgeDeck (p : Part) : Part := p.event (sectorIds.map starveJudging ++ [spreadJudging, compoundJudging])

/-- BOND of every sector and COMPOUND, at an advance (R37). -/
def Part.judgeBonds (p : Part) : Part := p.event (sectorIds.map bondJudging ++ [compoundJudging])

end Sys2Proof.Machine
end

