-- ==== Sys2Proof/Machine/JackTable.lean ====
section
/-! DEFINITION. The jack table's reports (R6), catch-up (R13), the done count (R7, R9, R10) and faults (R21 to
R23). A report compares the part after the change with the part before it. -/

namespace Sys2Proof.Machine

/-! ### Catch-up (R13) -/

/-- A CATCHUP jack passes against the highest ACTIVE given. -/
def Part.passesCatchup (p : Part) (high : Option Nat) (j : JackId) : Bool :=
  match high with
  | some h => h ≤ (p.jack j).position + p.bank.spreadAdmit
  | none => true

/-- The catch-up test: every CATCHUP jack against highest ACTIVE as it stands when the test begins (R13). -/
def Part.catchUp (p : Part) : Part :=
  let passing := jackIds.filter fun j =>
    (p.jack j).state == .catchup && p.passesCatchup p.highestActive j
  passing.foldl (fun p j => p.setJack j { p.jack j with state := .active }) p

/-! ### The report (R6) -/

def Part.moved (pre p : Part) (j : JackId) : Bool := (pre.jack j).position != (p.jack j).position

def Part.restated (pre p : Part) (j : JackId) : Bool := (pre.jack j).state != (p.jack j).state

/-- Some jack's position or state has changed: what the catch-up test and ADM ask for. -/
def Part.stirred (pre p : Part) : Bool := jackIds.any fun j => pre.moved p j || pre.restated p j

/-- LT takes one sector's new bottom (R31, R32), and tells ADM of what it changed (R33 step 2). -/
def Part.reportBottom (pre : Part) (p : Part) (k : SectorId) : Part :=
  let q := p.retireFrom (pre.sectorBottom k) k
  if q.sector k ≠ p.sector k ∨ p.sectorBottom k < pre.sectorBottom k then q.admPass else q

/-- A deferred entry of a jack that no longer climbs is removed (R59). -/
def Part.removeUnclimbing (j : JackId) (p : Part) : Part :=
  if (p.jack j).state.climbs then p else p.removeEntries (·.jack == j) .jackState

/-- ADM is told of one jack's position change and of its state change, each with a pass of its own (R6 step 3,
log 8). -/
def Part.tellAdm (pre : Part) (p : Part) (j : JackId) : Part :=
  let q := if pre.moved p j then p.admPass else p
  if pre.restated p j then (q.removeUnclimbing j).admPass else q

/-- MODE is told of one jack's state change (R6 step 4, R113). -/
def Part.tellMode (pre : Part) (p : Part) (j : JackId) : Part :=
  if pre.restated p j && !(p.jack j).state.climbs then p.roundLoses j else p

/-- The pairs judged from the jack table's reports (R121). -/
def faultPairs (k : SectorId) : List Pair := [.pressure k, .silent k, .trouble k, .rod k]

/-- A fault or ROD pair ceases when no jack meets its test any more (R121). -/
def Part.ceaseUnmet (p : Part) (q : Pair) : Part :=
  if (p.pair q).state.isPresent && !jackIds.any (p.meets · == some q) then p.cease q else p

/-- The pairs whose tests no jack meets any more cease before anything asserts (R121, log 12). -/
def Part.ceaseAllUnmet (p : Part) : Part := (sectorIds.flatMap faultPairs).foldl Part.ceaseUnmet p

/-- A jack that has come to meet a test asserts its pair, as its detail jack (R121). -/
def metJudging (pre : Part) (j : JackId) : Judging := fun p =>
  match p.meets j with
  | some q => if pre.meets j = some q then (p, false) else assertion q (some j) p
  | none => (p, false)

/-- The sectors a report concerns (R120). -/
def Part.concerned (pre p : Part) (k : SectorId) : Bool :=
  pre.sectorBottom k != p.sectorBottom k || pre.sector k != p.sector k
    || jackIds.any fun j => p.sectorOf j == k && (pre.moved p j || pre.restated p j)

/-- MON takes a report (R6 step 5): fault conditions and ROD in order of jack index, BOND and STARVE by sector,
SPREAD, COMPOUND, in the order of R127 (log 12); BOND of a sector before its STARVE is the model's choice (log 35). -/
def Part.tellMon (pre p : Part) : Part :=
  let touched := sectorIds.filter (pre.concerned p)
  p.ceaseAllUnmet.event
    (jackIds.map (metJudging pre) ++ touched.flatMap sectorJudgings ++ [spreadJudging, compoundJudging])

/-- The jack table's report of the change from pre to p (R6). -/
def Part.jackReport (pre p : Part) : Part :=
  let p := if pre.stirred p then p.catchUp else p
  let q := sectorIds.foldl pre.reportBottom p
  let q := jackIds.foldl pre.tellAdm q
  let q := jackIds.foldl pre.tellMode q
  pre.tellMon q

/-! ### Faults (R21) -/

/-- A jack in ACTIVE or CATCHUP enters FAULTED (R21); any other record is unchanged. -/
def Jack.fault (cause : FaultCause) (x : Jack) : Jack :=
  if x.state.climbs then { x with state := .faulted cause } else x

/-- A change of one jack's record reported, with what a fault in it does to the jack's open command: the ending
reason before the report, the close of R79 after it (R21, log 10). -/
def Part.reportFaulting (pre : Part) (j : JackId) (p : Part) : Part :=
  if (pre.jack j).state.climbs && !(p.jack j).state.climbs then
    (pre.jackReport (p.markOf .faulted (.jack j))).closeStopped (.jack j)
  else pre.jackReport p

/-- A jack is faulted with a cause (R21 to R23). -/
def Part.faultJack (cause : FaultCause) (j : JackId) (p : Part) : Part :=
  if (p.jack j).state.climbs then p.reportFaulting j (p.setJack j ((p.jack j).fault cause)) else p

/-! ### The done count (R7, R9, R10) -/

/-- The pressure strike rule (R10). -/
def Jack.strike (b : Bank) (peak : Nat) (x : Jack) : Jack :=
  if x.state.climbs then
    if b.pressureLimit < peak then
      let y := { x with strikes := min (x.strikes + 1) 4 }
      if b.pressureStrikes ≤ y.strikes then y.fault .pressure else y
    else { x with strikes := 0 }
  else x

/-- A done count raises ROD-LOW: the rod falls to rod warn or below for the first time (R9). -/
def Jack.rodFalls (b : Bank) (n : Nat) (x : Jack) : Bool :=
  x.rod - n < x.rod && x.rod - n ≤ b.rodWarn && !x.rodLow

/-- Position up and rod down by a done count (R7). -/
def Jack.climb (b : Bank) (n : Nat) (x : Jack) : Jack :=
  { x with
    position := min (x.position + n) Config.maxPosition
    rod := x.rod - n
    rodLow := x.rodLow || x.rodFalls b n }

/-- A done count reaches JT (R7). -/
def Part.applyDone (j : JackId) (n peak : Nat) (p : Part) : Part :=
  let x := p.jack j
  if x.state = .absent then p
  else p.reportFaulting j
    ((p.setJack j ((x.climb p.bank n).strike p.bank peak)).raiseIf (x.rodFalls p.bank n) .rodLow)

/-- A rod set: rod-low reported follows it afresh (R9). -/
def Jack.setRod (b : Bank) (rod : Nat) (x : Jack) : Jack := { x with rod := rod, rodLow := rod ≤ b.rodWarn }

end Sys2Proof.Machine
end

