-- ==== Sys2Proof/Machine/FeedControl.lean ====
section
/-! DEFINITION. Feed control (R84 to R95): POUR admission, placements handed to the layer table and what it tells
its neighbours (R33), POURED, TROUBLE; and the closes that fault their subject (R75, R91). -/

namespace Sys2Proof.Machine

/-! ### Admission of a POUR (R87 to R89) -/

/-- The depth of a command's POUR if it names the sector, 0 otherwise (R88). -/
def Part.pourDepth (p : Part) (k : SectorId) (c : Command) : Nat :=
  match c.task with
  | .pour _ s => if s = k then depthOf (p.sectorEntry k) c.asked else 0
  | .lift _ => 0

/-- The depths of every open POUR naming a sector (R88). -/
def Part.openPourDepth (p : Part) (k : SectorId) : Nat := (p.xt.table.map (p.pourDepth k)).sum

/-- Check 9 fails: the POUR's depth is greater than the room, taken with its sign (R88). -/
def Part.noRoom (p : Part) (k : SectorId) (litres : Nat) : Bool :=
  p.formTop k < (p.sector k).top + p.openPourDepth k + depthOf (p.sectorEntry k) litres

/-- Checks 3 to 9 of R87, with the reason of the first that fails. -/
def Part.pourCheck (p : Part) (f : FeedId) (k : SectorId) (litres : Nat) : Option Reason :=
  if p.mode.mode.isStopped then some .mode
  else if (p.feed f).state = .pouring then some .busy
  else if (p.feed f).state = .faulted then some .nodeState
  else if !(p.feedEntry f).allowed[k] then some .notAllowed
  else if p.sectorStopped k then some .sectorStopped
  else if p.commitPending then some .commit
  else if Config.maxOpen ≤ p.openCount then some .table
  else if p.noRoom k litres then some .noRoom
  else none

/-- A POUR admitted (R89). -/
def Part.admitPour (f : FeedId) (k : SectorId) (litres : Nat) (tag : Tag) (p : Part) : Part :=
  ((p.setFeed f ⟨.pouring, some k⟩).openCommand (.pour f k) (.deck tag) litres).cease (.feed f)

/-- Check 2 of R87, of an address that is no enabled feed node. -/
def Part.noFeedReason (p : Part) (a : Byte) : Reason := if (p.findJack a).isSome then .wrongKind else .noNode

/-- A deck POUR, decided as one event (R87). -/
def Part.deckPour (dest : Byte) (tag : Tag) (sector : Byte) (litres : Nat) (p : Part) : Part :=
  match indexOf 24 sector with
  | none => p.refuse dest .pour tag .range
  | some k =>
    if !(1 ≤ litres && litres ≤ 4000) then p.refuse dest .pour tag .range
    else match p.findFeed dest with
      | none => p.refuse dest .pour tag (p.noFeedReason dest)
      | some f =>
        match p.pourCheck f k litres with
        | some r => p.refuse dest .pour tag r
        | none => p.admitPour f k litres tag

/-! ### Placements (R33, R92) -/

/-- A placement recorded and reported by R33: events, ADM, MON. -/
def Part.place (k : SectorId) (litres : Nat) (mix : MixId) (f : FeedId) (p : Part) : Part :=
  let r := p.placeRecord k litres mix f
  if r.2 then r.1.admPass.judgeReported k else r.1

/-- The mix with the longest min exit age, the lowest code on a tie (R92). -/
def Part.slowestMix (p : Part) : MixId :=
  mixIds.foldl (fun best m => if (p.mixEntry best).minExit < (p.mixEntry m).minExit then m else best) 0

/-- The mix a placement is recorded under (R92). -/
def Part.settleMix (p : Part) (mix : Byte) : MixId := (indexOf 8 mix).getD p.slowestMix

/-- A POURED's report judged and placed; asked is the sector it should name and the litres asked, each where it is
compared (R92). -/
def Part.judgePoured (f : FeedId) (askedSector : Option SectorId) (askedLitres : Option Nat) (sector : Byte)
    (litres : Nat) (mix : Byte) (p : Part) : Part :=
  let k := indexOf 24 sector
  let misrouted := k.isNone || (askedSector.isSome && k != askedSector) || (indexOf 8 mix).isNone
  let p := p.raiseIf misrouted .misroute
  let p := p.raiseIf (askedLitres.any (· < litres)) .overpour
  match k with
  | some k => p.place k litres (p.settleMix mix) f
  | none => p

/-! ### Faults of a feed node (R91, R94) -/

/-- A feed node enters FAULTED with its FEED input present; one already FAULTED stays (R91, R94). -/
def Part.feedFault (f : FeedId) (p : Part) : Part :=
  if (p.feed f).state = .faulted then p
  else (p.setFeed f { p.feed f with state := .faulted }).judge (.feed f) true

/-! ### Timeout and unclaimed return (R75) -/

/-- Step 3 of a close by timeout or unclaimed return (R22, R91). -/
def Part.subjectFault (c : Command) (p : Part) : Part :=
  match c.task with
  | .lift j => p.faultJack .silent j
  | .pour f _ => p.feedFault f

/-- A timeout, or the unclaimed return of a command's frame, closes the command (R75). -/
def Part.closeTimeout (c : Command) (p : Part) : Part :=
  (p.setAbandoned (p.addrOf c.subject) (some ⟨c.tag, c.subject⟩)).closeWith c
    (·.answerEnded c .timeout) (·.subjectFault c)

end Sys2Proof.Machine
end

