-- ==== Sys2Proof/Machine/Modes.lean ====
section
/-! DEFINITION. Changes of climb mode other than the entry into STOPPED: START, HOLD, RESUME, deck lost, and the
return from STOPPED (R99 to R107), with what they do to supervision (R138) and resume blanking (R126). -/

namespace Sys2Proof.Machine

/-- Supervision starts: active, token 0, both times now, no violations; deck lost as given (R138). -/
def Part.startSupervision (deckLost : Bool) (p : Part) : Part :=
  { p with sup := ⟨true, 0, p.clock, p.clock, 0, deckLost⟩ }

/-- Resume blanking starts at an entry into SLIP; with a time of 0 it does not run (R126). -/
def Part.startBlanking (p : Part) : Part :=
  { p with mon := { p.mon with blanking := if p.bank.resumeBlanking = 0 then none else some p.bank.resumeBlanking } }

/-- Resume blanking ends at once when the mode leaves SLIP (R126). -/
def Part.endBlanking (p : Part) : Part := { p with mon := { p.mon with blanking := none } }

/-- MON told of a mode change (R99 step 3): ALERT, then SPREAD and STARVE according to the mode. -/
def Part.tellMonMode (p : Part) : Part := p.updateAlert.judgeDeck

/-- The mode moves to SLIP out of SETUP (R100). -/
def Part.startSlip (tag : Tag) (p : Part) : Part :=
  (((p.setMode { p.mode with mode := .slip }).ack tag codeControl).startSupervision false).startBlanking.tellMonMode

/-- The mode record at an entry into HOLD (R101, R104, R107). -/
def Part.holdRecord (cause : HoldCause) (p : Part) : ModeRecord :=
  { p.mode with
    mode := .hold cause
    heartbeatSinceHold := false
    creepTimer := some p.bank.creepInterval }

/-- SLIP to HOLD: the answer, if a request asked, then the flush, then MON (R101, R104). -/
def Part.enterHold (cause : HoldCause) (answer : Part → Part) (p : Part) : Part :=
  ((answer (p.setMode (p.holdRecord cause))).flush .flushed).endBlanking.tellMonMode

/-- HOLD to SLIP (R102). A round left with an empty list and no open command ends (log 11). -/
def Part.resumeSlip (tag : Tag) (p : Part) : Part :=
  let p := p.setMode { p.mode with mode := .slip, creepTimer := none, roundOwed := false, roundList := [] }
  (p.ack tag codeControl).startBlanking.tellMonMode.endRoundTest

/-- MODE takes a deck-lost declaration (R104). -/
def Part.deckLostMove (p : Part) : Part := if p.mode.mode = .slip then p.enterHold .deckLost id else p

/-- The return from STOPPED (R107). -/
def Part.returnFromStopped (p : Part) : Part :=
  match p.mode.mode with
  | .stopped .setup =>
    { p.setMode { p.mode with mode := .setup } with stopOut := false }.tellMonMode
  | .stopped .slip | .stopped .hold =>
    ({ p.setMode (p.holdRecord .fromStop) with stopOut := false }.startSupervision p.sup.deckLost).tellMonMode
  | .setup | .slip | .hold _ => p

end Sys2Proof.Machine
end

