-- ==== Sys2Proof/Machine/Supervision.lean ====
section
/-! DEFINITION. Deck supervision: acceptance, violations, deck lost and its end (R139 to R145). -/

namespace Sys2Proof.Machine

def Part.setSup (s : Supervision) (p : Part) : Part := { p with sup := s }

/-- Deck lost ends and the DECK pair ceases (R143, R145). -/
def Part.endDeckLost (p : Part) : Part :=
  if p.sup.deckLost then (p.setSup { p.sup with deckLost := false }).judge .deck false else p

/-- MODE told of an acceptance (R102). -/
def Part.tellModeAccepted (p : Part) : Part :=
  if p.mode.mode.isHold then p.setMode { p.mode with heartbeatSinceHold := true } else p

/-- A heartbeat accepted: both times now, no violations, deck lost ends, MODE told (R139, R140). -/
def Part.accept (p : Part) : Part :=
  (p.setSup { p.sup with lastAccepted := p.clock, windowStart := p.clock, violations := 0 }).endDeckLost.tellModeAccepted

/-- The deck is declared lost: to MODE and to MON, in the order of the part's own field (R104, R142, log 3). -/
def Part.declareLost (p : Part) : Part :=
  let p := p.setSup { p.sup with deckLost := true }
  if p.order.stopFirst then (p.judge .deck true).deckLostMove else p.deckLostMove.judge .deck true

/-- A violation is counted, and may declare the deck lost (R142). -/
def Part.violation (p : Part) : Part :=
  let q := p.setSup { p.sup with violations := min (p.sup.violations + 1) 255 }
  if q.bank.strikes ≤ q.sup.violations && !q.sup.deckLost then q.declareLost else q

/-- The supervision window has reached its maximum (R141). -/
def Part.windowDue (p : Part) : Bool := p.sup.active && p.bank.windowMax ≤ age p.clock p.sup.windowStart

/-- The window expires (R141). -/
def Part.expireWindow (p : Part) : Part := (p.setSup { p.sup with windowStart := p.clock }).violation

/-- A HEARTBEAT under kind TOKEN while supervision is active (R139). -/
def Part.judgeToken (tag : Tag) (token : Byte) (p : Part) : Part :=
  if age p.clock p.sup.lastAccepted < p.bank.windowMin then
    (p.deny tag codeHeartbeat .early).violation
  else if token ≠ p.sup.expected.setWidth 8 then (p.deny tag codeHeartbeat .token).violation
  else ((p.setSup { p.sup with expected := ~~~p.sup.expected }).accept).ack tag codeHeartbeat

/-- A HEARTBEAT taken while supervision is inactive: it ends deck lost in STOPPED (R144, R145). -/
def Part.idleHeartbeat (tag : Tag) (p : Part) : Part :=
  (if p.mode.mode.isStopped then p.endDeckLost else p).ack tag codeHeartbeat

/-- Under kind ANY a well-formed request counts as an accepted heartbeat before its owner decides it (R140). -/
def Part.acceptAny (p : Part) : Part := if p.sup.active && p.bank.supKind == .any then p.accept else p

end Sys2Proof.Machine
end

