-- ==== Sys2Proof/Machine/Commit.lean ====
section
/-! DEFINITION. COMMIT: the consistency checks (R159), application (R161, R12, R60, R96, R130), the live checks
(R162) and cancellation (R162, R163). -/

namespace Sys2Proof.Machine

/-! ### The consistency checks (R159) -/

/-- A table and an index, as a failing check names them. -/
abbrev Failing := Nat × Nat

def failIf (b : Bool) (t i : Nat) : Option Failing := if b then some (t, i) else none

/-- The first of a list of indices that fails, named in a table. -/
def firstFailing (t : Nat) {n : Nat} (l : List (Fin n)) (bad : Fin n → Bool) : Option Failing :=
  (l.find? bad).map fun i => (t, i.val)

/-- The enabled entries that hold addresses, in the order of check 3. -/
def Bank.holders (b : Bank) : List (Failing × Nat) :=
  (jackIds.filter fun j => b.jacks[j].enabled).map (fun j => ((1, j.val), b.jacks[j].node.val))
    ++ (feedIds.filter fun f => b.feeds[f].enabled).map (fun f => ((5, f.val), b.feeds[f].node.val))

/-- The first entry whose address an entry before it already holds (check 3). -/
def firstRepeated : List (Failing × Nat) → List Nat → Option Failing
  | [], _ => none
  | (e, a) :: rest, seen => if seen.contains a then some e else firstRepeated rest (a :: seen)

/-- The modes a condition of fields 26 to 34 allows (R117, check 7). -/
def Bank.modesAllowed (b : Bank) : Bool :=
  b.condMode .spread != .sector
    && b.condMode (.pressure 0) != .ignore && b.condMode (.silent 0) != .ignore
    && b.condMode (.trouble 0) != .ignore && b.condMode (.rod 0) != .ring
    && b.condMode (.feed 0) != .sector
    && b.condMode .deck != .ignore && b.condMode .deck != .sector

/-- Check 6 fails (R159). -/
def Part.spliceLimitLow (p : Part) : Bool := p.cfg.shadow.spliceLimit < p.spliceCount

/-- Check 8 fails for a jack (R159). -/
def Part.spliceMoved (p : Part) (j : JackId) : Bool :=
  (p.jack j).state == .splice
    && !(p.cfg.shadow.jacks[j].enabled && p.cfg.shadow.jacks[j].sector == p.sectorOf j)

/-- Check 9 fails for a feed node (R159). -/
def Bank.feedBad (b : Bank) (f : FeedId) : Bool :=
  b.feeds[f].enabled
    && (!sectorIds.any (fun k => b.feeds[f].allowed[k])
      || sectorIds.any fun k => b.feeds[f].allowed[k] && !b.sectors[k].configured)

/-- The checks of R159 in their order; none when the shadow is consistent. -/
def Part.inconsistency (p : Part) : Option Failing :=
  let b := p.cfg.shadow
  (failIf (b.spreadAlarm ≤ b.spreadAdmit) 0 0)
    <|> (firstFailing 3 mixIds fun m => b.mixes[m].maxExit ≤ b.mixes[m].minExit)
    <|> (firstRepeated b.holders [])
    <|> (firstFailing 1 jackIds fun j => b.jacks[j].enabled && !b.sectors[b.jacks[j].sector].configured)
    <|> (failIf (b.windowMax ≤ b.windowMin) 0 0)
    <|> (failIf p.spliceLimitLow 0 0)
    <|> (failIf (!b.modesAllowed) 0 0)
    <|> (firstFailing 1 jackIds p.spliceMoved)
    <|> (firstFailing 5 feedIds b.feedBad)

/-- The live checks made again at application: 6, then 8 (R161 step 1, R162). -/
def Part.liveFailing (p : Part) : Option Failing :=
  (failIf p.spliceLimitLow 0 0) <|> (firstFailing 1 jackIds p.spliceMoved)

/-! ### The jack table at a commit (R12) -/

def Part.setCommit (c : CommitState) (p : Part) : Part := { p with cfg := { p.cfg with commit := c } }

/-- Enabled to disabled: ABSENT, the rest kept (R12). -/
def exitJacks (old new : Vector JackEntry 96) (p : Part) (j : JackId) : Part :=
  if old[j].enabled && !new[j].enabled then p.setJack j { p.jack j with state := .absent } else p

/-- Disabled to enabled: ACTIVE at the position given with no rod; a changed node address: depth 1 (R12). -/
def enterJacks (old new : Vector JackEntry 96) (position : Nat) (p : Part) (j : JackId) : Part :=
  if !old[j].enabled && new[j].enabled then
    p.setJack j (Jack.setRod p.bank 0 ⟨.active, position, 0, 1, 0, false⟩)
  else if new[j].enabled && old[j].node != new[j].node then p.setJack j { p.jack j with depth := 1 }
  else p

/-- The transitions of every jack: exits first, then entries at the lowest ACTIVE the exits leave (R12). -/
def Part.jackTransitions (old : Bank) (p : Part) : Part :=
  let q := jackIds.foldl (exitJacks old.jacks p.bank.jacks) p
  jackIds.foldl (enterJacks old.jacks p.bank.jacks (q.lowestActive.getD 0)) q

/-! ### The other blocks at a commit -/

/-- Removals from the deferred queue: exited jacks, changed addresses, stopped sectors (R59, R60 steps 1 and 2). The
entries of one kind are answered in queue order, oldest first (log 31). -/
def Part.commitRemovals (p : Part) : Part :=
  let p := p.removeEntries (fun e => !(p.jack e.jack).state.climbs) .jackState
  let p := p.removeEntries (fun e => (p.jackEntry e.jack).node.val != e.node.toNat) .noNode
  p.removeEntries (fun e => p.sectorStopped (p.sectorOf e.jack)) .sectorStopped

/-- The jack table's one report at a commit, up to MODE (R12, R6 steps 1 to 4); MON acts at R130 (log 8, 12). -/
def Part.commitJackReport (pre p : Part) : Part :=
  let p := p.catchUp
  let q := sectorIds.foldl (fun q k => q.retireFrom (pre.sectorBottom k) k) p
  let q := q.commitRemovals
  let q := if pre.stirred p then q.admPass else q
  jackIds.foldl pre.tellMode q

/-- Feed control at a commit (R96). -/
def Part.feedTransition (old : Bank) (p : Part) (f : FeedId) : Part :=
  if old.feeds[f].enabled
      && (!(p.feedEntry f).enabled || old.feeds[f].node != (p.feedEntry f).node) then
    (p.setFeed f ⟨.ready, none⟩).cease (.feed f)
  else p

/-- LT reports a sector the commit changed: ADM (R40, R33); MON takes BOND and STARVE at R130. -/
def Part.commitLayerReport (pre p : Part) (k : SectorId) : Part :=
  if pre.sector k ≠ p.sector k ∨ pre.sectorBottom k ≠ p.sectorBottom k then p.admPass else p

/-- Some jack has come to meet a pair's test at this commit, so that its assertion applies the new mode. -/
def Part.newlyMet (pre p : Part) (q : Pair) : Bool :=
  jackIds.any fun i => p.meets i == some q && pre.meets i != some q

/-- A jack at a commit: it asserts the pair whose test it has come to meet; a pair that it met before and whose mode
the commit has changed is asserted anew here, unless a jack that has come to meet it asserts it (R121, R130, log 21). -/
def commitJudging (pre : Part) (j : JackId) : Judging := fun p =>
  match p.meets j with
  | some q =>
    if pre.meets j = some q then (if pre.newlyMet p q then (p, false) else reasserting q p)
    else assertion q (some j) p
  | none => (p, false)

/-- MON at a commit: what the neighbours reported and the new modes, in the order of R127 (R130, logs 21, 33); BOND of
a sector before its STARVE is the model's choice (log 35). -/
def Part.commitMon (pre p : Part) : Part :=
  p.ceaseAllUnmet.event
    (jackIds.map (commitJudging pre)
      ++ sectorIds.flatMap (fun k =>
        [bondJudging k, reasserting (.bond k), starveJudging k, reasserting (.starve k)])
      ++ feedIds.map (fun f => reasserting (.feed f))
      ++ [spreadJudging, reasserting .spread, reasserting .deck, compoundJudging])

/-! ### Application (R161) and cancellation (R162, R163) -/

/-- Steps 2 to 9 of R161, the REPLY COMMITTED under the tag given. -/
def Part.applyBank (tag : Tag) (p : Part) : Part :=
  let pre := p
  let p := { p with cfg := ⟨p.cfg.shadow, p.cfg.shadow, .idle, p.cfg.shadow.tableSum⟩ }
  let p := p.reply tag codeCommit outCommitted []
  let p := pre.commitJackReport (p.jackTransitions pre.bank)
  let p := feedIds.foldl (Part.feedTransition pre.bank) p
  let p := sectorIds.foldl pre.commitLayerReport p
  let p := p.admPass
  (pre.commitMon p).creepPassIfWaiting

/-- The data of a COMMIT-CANCELLED: the failing table and index, both absent at the commit wait (R168). -/
def failingOctets : Option Failing → List Byte
  | some (t, i) => [octet t, octet i]
  | none => ones 2

/-- A pending commit is cancelled (R162, R163). -/
def Part.cancelCommit (tag : Tag) (why : Option Failing) (p : Part) : Part :=
  ((((p.setCommit .idle).raise .commitCancelled).reply tag codeCommit outCommitCancelled (failingOctets why)).admPass).creepPassIfWaiting

/-- A pending commit meets quiescence (R160 to R162). -/
def Part.applyPending (tag : Tag) (p : Part) : Part :=
  match p.liveFailing with
  | some e => p.cancelCommit tag (some e)
  | none => p.applyBank tag

/-- COMMIT with a sum, decided (R159). -/
def Part.decideCommit (tag : Tag) (sum : BitVec 16) (p : Part) : Part :=
  if p.commitPending then p.deny tag codeCommit .busy
  else if sum ≠ p.cfg.shadow.tableSum then p.deny tag codeCommit .check
  else match p.inconsistency with
    | some (t, i) => p.reply tag codeCommit outRefused [Reason.inconsistent.code, octet t, octet i]
    | none =>
      if p.xt.table.isEmpty then p.applyBank tag
      else (p.setCommit (.pending tag p.clock)).ack tag codeCommit

end Sys2Proof.Machine
end

