-- ==== Sys2Proof/Machine/Reset.lean ====
section
/-! DEFINITION. Reset: the reset event, the release event, and the reset of a RESET request (R181 to R183). -/

namespace Sys2Proof.Machine

/-- The reset event with a given cause (R181): every block takes its reset values, the queues are emptied, the
slip clock is set, STOP OUT is asserted. The levels of the input lines are the outside's and stay. -/
def Part.resetEvent (cause : ResetCause) (p : Part) : Part where
  jacks := Vector.replicate 96 resetJack
  sectors := Vector.replicate 24 ⟨0, []⟩
  adm := ⟨[], Vector.replicate 8 0⟩
  xt := ⟨[], Vector.replicate 127 ⟨0, none⟩⟩
  feeds := Vector.replicate 8 ⟨.ready, none⟩
  mode := resetMode
  mon := resetMonitor
  sup := resetSupervision
  cfg := resetStore
  clock := Config.resetClock
  resetCause := cause
  resetWait := none
  sendQueue := []
  ringQueue := []
  stopIn := p.stopIn
  resetLine := p.resetLine
  stopOut := true
  owed := []
  order := p.order


/-- The release event (R181): STOP OUT follows STOP IN, the broadcast STILL, and STOPIN asserts if the line is
asserted. -/
def Part.releaseEvent (p : Part) : Part :=
  let p := { p with stopOut := p.stopIn }.ringOut false .still 127 0 []
  if p.stopIn then p.judge .stopin true else p

/-- The reset and release events of a RESET request, taken together (R183). -/
def Part.requestReset (p : Part) : Part := (p.resetEvent .request).releaseEvent

end Sys2Proof.Machine
end

