-- ==== Sys2Proof/Machine/Tick.lean ====
section
/-! DEFINITION. Time: the advance of the slip clock (R184), the blocks' shares of it, and the form every command
takes (log 2, log 6). -/

namespace Sys2Proof.Machine

/-! ### The end of an event -/

/-- A pending commit is applied once no command is open (R72 step 6, R160). It is the last thing of the event that
brings quiescence (log 6), but for the grant of a lease that it lets come to pass (R148). -/
def Part.quiesce (p : Part) : Part :=
  match p.cfg.commit with
  | .pending tag _ => if p.xt.table.isEmpty then p.leaseSince (p.applyPending tag) else p
  | .idle => p

/-- The end of an event that found the part pre and has left it p: the grant of a pending lease, which MODE has by R72
step 5, then a pending commit, step 6 (R148, R160; logs 6, 39). -/
def Part.finish (pre p : Part) : Part := (pre.leaseSince p).quiesce

/-! ### The shares of an advance -/

/-- ADM's share: the queue once, oldest first, expiring and examining (R56). -/
def Part.shareDeferred (p : Part) : Part := p.passWith true

/-- One command's share: its timeout or its resend, if due (R74, R76). -/
def Part.dueCommand (c : Command) (p : Part) : Part :=
  if p.timedOut c then p.finish (p.closeTimeout c)
  else if p.resendDue c then p.resend c
  else p

/-- XT's share: every command open now, in the table's order, the order of opening (R74, R76; log 32). -/
def Part.shareTransactions (p : Part) : Part :=
  (p.xt.table.map Command.subject).foldl
    (fun p x => match p.openOf x with
      | some c => p.dueCommand c
      | none => p) p

/-- The creep timer expires: it is loaded again and R109 decides. -/
def Part.expireCreep (p : Part) : Part :=
  let p := p.setMode { p.mode with creepTimer := some p.bank.creepInterval }
  match p.mode.lease with
  | .held _ _ => (p.raise .creepSkipped).setMode { p.mode with roundOwed := true }
  | .pending _ => p.raise .creepSkipped
  | .none => if p.mode.roundInProgress then p.raise .creepSkipped else p.startRound

/-- MODE's creep timer has reached 0 (R108). -/
def Part.creepDue (p : Part) : Bool := p.mode.creepTimer == some 0

def Part.shareCreep (p : Part) : Part := if p.creepDue then p.expireCreep else p

/-- The held lease reaches its limit (R151). -/
def Part.shareLease (p : Part) : Part :=
  match p.mode.lease with
  | .held asking granted =>
    if p.bank.leaseLimit ≤ age p.clock granted then
      (((p.setMode { p.mode with lease := .none }).raise .leaseOverrun).reply asking codeLeaseAsk outLeaseEnded []).owedRound
    else p
  | .none | .pending _ => p

def Part.shareWindow (p : Part) : Part := if p.windowDue then p.expireWindow else p

/-- The commit wait is reached (R163). -/
def Part.shareCommitWait (p : Part) : Part :=
  match p.cfg.commit with
  | .pending tag accepted =>
    if age p.clock accepted = p.bank.commitWait then p.cancelCommit tag none else p
  | .idle => p

/-- A PENDING pair has waited its deglitch time (R125). -/
def Part.deglitchDue (p : Part) (q : Pair) : Bool :=
  match (p.pair q).state with
  | .pending start => p.bank.deglitch q ≤ age p.clock start
  | .notPresent | .present _ => false

/-- A PENDING pair asserts if its time has come (R125). -/
def deglitchJudging (q : Pair) : Judging := fun p => if p.deglitchDue q then assertion q none p else (p, false)

/-- The pairs with deglitch, in the order of R127; BOND before STARVE in a sector: the model's choice (log 35). -/
def deglitchPairs : List Pair := sectorIds.flatMap (fun k => [Pair.bond k, Pair.starve k]) ++ [.spread]

def Part.shareDeglitch (p : Part) : Part := p.event (deglitchPairs.map deglitchJudging ++ [compoundJudging])

/-- Resume blanking ends and SPREAD and every STARVE are judged (R126). -/
def Part.shareBlanking (p : Part) : Part := if p.mon.blanking = some 0 then p.endBlanking.judgeDeck else p

def Part.share : Share → Part → Part
  | .deferred => Part.shareDeferred
  | .transactions => Part.shareTransactions
  | .creep => Part.shareCreep
  | .lease => Part.shareLease
  | .window => Part.shareWindow
  | .commitWait => Part.shareCommitWait
  | .deglitch => Part.shareDeglitch
  | .blanking => Part.shareBlanking

def Part.dropShare (x : Share) (p : Part) : Part := { p with owed := p.owed.filter (· ≠ x) }

/-- A block takes its share of the latest advance, if it still owes it; the share is an event of its own
(R184). -/
def Part.takeShare (p : Part) (x : Share) : Part :=
  if p.owed.contains x then p.finish ((p.share x).dropShare x) else p

/-! ### Before and around a command -/

/-- All shares, in the order of R184's list. -/
def allShares : List Share :=
  [.deferred, .transactions, .creep, .lease, .window, .commitWait, .deglitch, .blanking]

/-- The reset of a RESET request whose ACK has left, taken before anything else (R183, log 23). -/
def Part.resetIfDue (p : Part) : Part := if p.resetWait = some 0 then p.requestReset else p

/-- The blocks in the order in which they take what no row has picked (R184, log 3). -/
def Part.shareOrder (p : Part) : List Share := p.order.tick ++ allShares

/-- What is due before the next command: the reset of R183, and the shares still owed, in the part's own order, but
for those of the blocks that take the second late (logs 2, 3). -/
def Part.settle (p : Part) : Part :=
  (p.shareOrder.filter fun x => !p.order.late.contains x).foldl Part.takeShare p.resetIfDue

/-- What is due before the slip clock moves on, and while no command waits: every share still owed (logs 2, 3). -/
def Part.settleAll (p : Part) : Part := p.shareOrder.foldl Part.takeShare p.resetIfDue

/-- A command taken as one event: what is due first, then its effect, then the end of the event. -/
def State.act (effect : Part → Part) (s : State) : Host.Outcome State Fault Refusal :=
  .next { s with part := s.part.settle.finish (effect s.part.settle) }

/-- The end of a second: all that is still due of it, then the effect, then the end of the event. -/
def State.endSecond (effect : Part → Part) (s : State) : Host.Outcome State Fault Refusal :=
  .next { s with part := s.part.settleAll.finish (effect s.part.settleAll) }

/-- A row that names what falls due at an advance: it takes its share and no other (log 2). -/
def State.due (effect : Part → Part) (s : State) : Host.Outcome State Fault Refusal :=
  .next { s with part := s.part.resetIfDue.finish (effect s.part.resetIfDue) }

/-- A frame at a port: not taken while the part is held in reset or a RESET request waits (R182, R183). -/
def Part.ifTaking (effect : Part → Part) (p : Part) : Part := if p.takesFrames then effect p else p

/-- A frame taken from a port. -/
def State.takeFrame (effect : Part → Part) (s : State) : Host.Outcome State Fault Refusal :=
  s.act (Part.ifTaking effect)

/-- A well-formed request: supervision under kind ANY counts it before its owner decides it (R140, R176). -/
def State.takeRequest (effect : Part → Part) (s : State) : Host.Outcome State Fault Refusal :=
  s.takeFrame fun p => effect p.acceptAny

/-! ### The advance (R184) -/

/-- The counts that fall by one at an advance (R108, R126). -/
def Part.countDown (p : Part) : Part :=
  { p with
    clock := p.clock + 1
    mode := { p.mode with creepTimer := p.mode.creepTimer.map (· - 1) }
    mon := { p.mon with blanking := p.mon.blanking.map (· - 1) } }

/-- ADM takes the advance at once, if it owes it still and is not late, unless an entry is overdue, which the row
DEFERRED_ENTRY_EXPIRY takes (R56, logs 2, 3). -/
def Part.admAdvance (p : Part) : Part :=
  if p.owed.contains .deferred && !p.order.late.contains .deferred && !p.adm.queue.any p.overdue then
    (p.passWith false).dropShare .deferred
  else p

/-- The blocks that take the advance before LT's bond tests take their shares (R184, R185, log 3). -/
def Part.takeEarly (p : Part) : Part := p.order.early.foldl Part.takeShare p

/-- The slip clock advances by one second (R184); the clock stands while the RESET line is held (R182). -/
def Part.advance (p : Part) : Part :=
  if p.resetLine then p
  else
    let q := ({ p.countDown with owed := allShares }).takeEarly
    (q.finish q.judgeBonds).admAdvance

end Sys2Proof.Machine
end

