-- ==== Sys2Proof/Machine/DeckFrames.lean ====
section
/-! DEFINITION. Frames from the deck link that are no requests: LIFT, POUR, ASK, STILL, NODESET, the kinds DPORT
refuses, and the frames either port drops (R41, R87, R149, R165, R166, R170, R171). -/

namespace Sys2Proof.Machine

/-- A destination on the ring: a node or broadcast (R170). -/
def onRing (a : Byte) : Bool := 1 ≤ a.toNat && a.toNat ≤ 127

/-- The ring-out queue has no room for another frame passed through (R171). -/
def Part.passFull (p : Part) : Bool := Config.maxPassed ≤ p.passedWaiting

/-- XT takes a STILL from the deck: the command at the address, or every command (R78, R171). -/
def Part.stillFromDeck (dest : Byte) (p : Part) : Part :=
  if dest.toNat = 127 then (p.markAll .stilled fun _ => true).closeAllStopped
  else match p.openAt dest with
    | some c => (p.markOf .stilled c.subject).closeStopped c.subject
    | none => p

/-- DPORT's checks of an ASK or STILL, and the passing (R170, R171). A STILL goes to XT before it joins ring-out, as R171
says, so the closes of R79 that it brings stand before it (log 10). -/
def Part.passThrough (kind : Kind) (dest : Byte) (tag : Tag) (payload : List Byte) (before : Part → Part)
    (p : Part) : Part :=
  if !payload.isEmpty then p.refuse dest kind tag .range
  else if !onRing dest then p.refuse dest kind tag .noNode
  else if p.passFull then p.refuse dest kind tag .busy
  else (before p).ringOut true kind dest tag []

/-- LIFT (R41, R43, R170). -/
def execLift (dest : Byte) (tag : Tag) (payload : List Byte) (s : State) : Host.Outcome State Fault Refusal :=
  s.takeFrame fun p =>
    match payload with
    | [strokes] => p.deckLift dest tag strokes.toNat
    | _ => p.refuse dest .lift tag .range

/-- POUR (R87, R170). -/
def execPour (dest : Byte) (tag : Tag) (payload : List Byte) (s : State) : Host.Outcome State Fault Refusal :=
  s.takeFrame fun p =>
    match payload with
    | [sector, hi, lo] => p.deckPour dest tag sector (ofBe16 hi lo).toNat
    | _ => p.refuse dest .pour tag .range

/-- ASK (R171). -/
def execAsk (dest : Byte) (tag : Tag) (payload : List Byte) (s : State) : Host.Outcome State Fault Refusal :=
  s.takeFrame (Part.passThrough .ask dest tag payload id)

/-- STILL (R171, R78). -/
def execStill (dest : Byte) (tag : Tag) (payload : List Byte) (s : State) :
    Host.Outcome State Fault Refusal :=
  s.takeFrame (Part.passThrough .still dest tag payload (Part.stillFromDeck dest))

/-- MODE judges a NODESET (R149). -/
def Part.nodeset (dest : Byte) (tag : Tag) (payload : List Byte) (p : Part) : Part :=
  if payload.isEmpty then p.refuse dest .nodeset tag .range
  else if !onRing dest then p.refuse dest .nodeset tag .noNode
  else match p.mode.lease with
    | .held _ _ =>
      if p.passFull then p.refuse dest .nodeset tag .busy else p.ringOut true .nodeset dest tag payload
    | .none | .pending _ => p.refuse dest .nodeset tag .notLeased

/-- NODESET (R149, R170). -/
def execNodeset (dest : Byte) (tag : Tag) (payload : List Byte) (s : State) :
    Host.Outcome State Fault Refusal :=
  s.takeFrame (Part.nodeset dest tag payload)

/-- A kind the deck may not send, or an MGMT not to address 0 (R170). -/
def execDeckFrameWrongKind (dest : Byte) (kind : Kind) (tag : Tag) (s : State) :
    Host.Outcome State Fault Refusal :=
  s.takeFrame (Part.refuse dest kind tag .wrongKind)

/-- A frame with a bad check or malformed, on either port (R165). -/
def execFrameBadCheck (_port : Port) (s : State) : Host.Outcome State Fault Refusal :=
  s.takeFrame (Part.raise .linkerr)

/-- A frame whose kind code names no kind, on either port (R166). -/
def execUnknownKindDropped (_port : Port) (_code : Byte) (s : State) : Host.Outcome State Fault Refusal :=
  s.takeFrame (Part.raise .linkerr)

end Sys2Proof.Machine
end

