-- ==== Sys2Proof/Machine/ControlRequests.lean ====
section
/-! DEFINITION. Requests to supervision, the mode controller and the condition monitor: HEARTBEAT, CLEAR,
CONTROL, the lease, RESET, and requests that are none of the table's (R100 to R103, R134, R139 to R150, R176,
R183). -/

namespace Sys2Proof.Machine

/-- An MGMT whose payload is a CONTROL with its one argument (log 18). -/
def isControl : List Byte → Bool
  | [code, _] => code == codeControl
  | _ => false

/-- An MGMT that none of the other rows carries: BAD-REQUEST (R176), or a CONTROL refused RANGE (6.2, log 18). -/
def execMgmtBadRequest (tag : Tag) (payload : List Byte) (s : State) : Host.Outcome State Fault Refusal :=
  if isControl payload then s.takeRequest (Part.deny tag codeControl .range)
  else s.takeFrame (Part.deny tag (payload.headD 0) .badRequest)

/-- HEARTBEAT (R139, R140, R144, R145). Under kind ANY the acceptance has been taken with the request. -/
def Part.heartbeat (tag : Tag) (token : Byte) (p : Part) : Part :=
  if p.sup.active then
    match p.bank.supKind with
    | .token => p.judgeToken tag token
    | .any => p.ack tag codeHeartbeat
  else p.idleHeartbeat tag

def execHeartbeat (tag : Tag) (token : Byte) (s : State) : Host.Outcome State Fault Refusal :=
  s.takeRequest (Part.heartbeat tag token)

/-! ### CLEAR (R134) -/

/-- Causes of sectors that are no longer present go (R134 step 1). -/
def Part.clearSectorCauses (p : Part) : Part :=
  { p with mon := { p.mon with
      pairs := p.mon.pairs.map fun r => { r with stopsSector := r.stopsSector && r.state.isPresent } } }

/-- Causes of the ring that are no longer present go (R134 step 3). -/
def Part.clearRingCauses (p : Part) : Part :=
  { p with mon := { p.mon with
      pairs := p.mon.pairs.map fun r => { r with stopsRing := r.stopsRing && r.state.isPresent } } }

/-- Records no longer present go (R134 step 4). -/
def Part.clearLog (p : Part) : Part := p.setLog (p.mon.log.filter (·.present))

def Part.clear (tag : Tag) (p : Part) : Part :=
  let p := p.clearSectorCauses.judgeCompound.clearRingCauses.clearLog.updateAlert
  let p := p.data tag codeClear [octet p.mon.log.length, octet p.stoppedSectors]
  if p.ringCausesEmpty then p.returnFromStopped else p

/-- CLEAR (R134). -/
def execClear (tag : Tag) (s : State) : Host.Outcome State Fault Refusal := s.takeRequest (Part.clear tag)

/-! ### CONTROL (R100 to R103) -/

def Lease.isNone : Lease → Bool
  | .none => true
  | .pending _ | .held _ _ => false

/-- START (R100). -/
def Part.controlStart (tag : Tag) (p : Part) : Part :=
  if p.mode.mode ≠ .setup ∨ p.ringCausesEmpty = false then p.deny tag codeControl .mode
  else if !jackIds.any p.isActive then p.deny tag codeControl .jackState
  else if !p.mode.lease.isNone then p.deny tag codeControl .leased
  else p.startSlip tag

def execControlStart (tag : Tag) (s : State) : Host.Outcome State Fault Refusal :=
  s.takeRequest (Part.controlStart tag)

/-- HOLD (R101). -/
def Part.controlHold (tag : Tag) (p : Part) : Part :=
  if p.mode.mode ≠ .slip then p.deny tag codeControl .mode
  else p.enterHold .request (Part.ack tag codeControl)

def execControlHold (tag : Tag) (s : State) : Host.Outcome State Fault Refusal :=
  s.takeRequest (Part.controlHold tag)

/-- RESUME (R102). -/
def Part.controlResume (tag : Tag) (p : Part) : Part :=
  if !p.mode.mode.isHold then p.deny tag codeControl .mode
  else if p.sup.violations ≠ 0 ∨ p.mode.heartbeatSinceHold = false then p.deny tag codeControl .deck
  else if !p.mode.lease.isNone then p.deny tag codeControl .leased
  else p.resumeSlip tag

def execControlResume (tag : Tag) (s : State) : Host.Outcome State Fault Refusal :=
  s.takeRequest (Part.controlResume tag)

/-- STOP (R103): the answer, then REQUEST asserts and goes back to NOT-PRESENT (R124). -/
def Part.controlStop (tag : Tag) (p : Part) : Part :=
  ((p.ack tag codeControl).assertPair .request none).cease .request

def execControlStop (tag : Tag) (s : State) : Host.Outcome State Fault Refusal :=
  s.takeRequest (Part.controlStop tag)

/-! ### The lease (R147, R150) -/

def Part.setLease (l : Lease) (p : Part) : Part := p.setMode { p.mode with lease := l }

def Part.leaseAsk (tag : Tag) (p : Part) : Part :=
  if p.mode.mode = .slip then p.deny tag codeLeaseAsk .mode
  else if !p.mode.lease.isNone then p.deny tag codeLeaseAsk .busy
  else if p.grantTest then (p.setLease (.held tag p.clock)).reply tag codeLeaseAsk outLeaseGranted []
  else (p.setLease (.pending tag)).ack tag codeLeaseAsk

/-- LEASE-ASK (R147). -/
def execLeaseAsk (tag : Tag) (s : State) : Host.Outcome State Fault Refusal := s.takeRequest (Part.leaseAsk tag)

def Part.leaseEnd (tag : Tag) (p : Part) : Part :=
  if p.mode.lease.isNone then p.deny tag codeLeaseEnd .notLeased
  else ((p.setLease .none).ack tag codeLeaseEnd).owedRound

/-- LEASE-END (R150). -/
def execLeaseEnd (tag : Tag) (s : State) : Host.Outcome State Fault Refusal := s.takeRequest (Part.leaseEnd tag)

/-! ### RESET (R183) -/

/-- RESET: accepted in SETUP and STOPPED; the reset waits for the ACK to leave, or comes at once when the ACK is
discarded. -/
def Part.askReset (tag : Tag) (p : Part) : Part :=
  if p.mode.mode = .slip ∨ p.mode.mode.isHold then p.deny tag codeReset .mode
  else if p.sendQueue.length < Config.maxSend then
    { p.ack tag codeReset with resetWait := some (p.sendQueue.length + 1) }
  else p.requestReset

def execReset (tag : Tag) (s : State) : Host.Outcome State Fault Refusal := s.takeRequest (Part.askReset tag)

end Sys2Proof.Machine
end

