-- ==== Sys2Proof/Machine/ConfigRequests.lean ====
section
/-! DEFINITION. Requests to the configuration store: TABLE-WRITE, TABLE-READ, SHADOW-LOAD, COMMIT (R156 to
R163). -/

namespace Sys2Proof.Machine

def Part.setShadow (b : Bank) (p : Part) : Part := { p with cfg := { p.cfg with shadow := b } }

/-- TABLE-WRITE: checks 1 and 2 are both RANGE (R156). -/
def Part.tableWrite (tag : Tag) (table index field value : Nat) (p : Part) : Part :=
  match p.cfg.shadow.write table index field value with
  | none => p.deny tag codeTableWrite .range
  | some b => if p.commitPending then p.deny tag codeTableWrite .busy else (p.setShadow b).ack tag codeTableWrite

def execTableWrite (tag : Tag) (table index field : Byte) (value : BitVec 24) (s : State) :
    Host.Outcome State Fault Refusal :=
  s.takeRequest (Part.tableWrite tag table.toNat index.toNat field.toNat value.toNat)

/-- The data a TABLE-READ returns: a field in 3 octets, a sum in 2, or none when refused (R157). -/
def Store.read (c : Store) (bank table index field : Nat) : Option (List Byte) :=
  match bank, table with
  | 0, 6 => if index = 0 ∧ field = 0 then some (octets2 c.storedSum.toNat) else none
  | 1, 6 => if index = 0 ∧ field = 0 then some (octets2 c.shadow.tableSum.toNat) else none
  | 0, _ => (c.active.read table index field).map octets3
  | 1, _ => (c.shadow.read table index field).map octets3
  | _, _ => none

def Part.tableRead (tag : Tag) (bank table index field : Nat) (p : Part) : Part :=
  match p.cfg.read bank table index field with
  | some d => p.data tag codeTableRead d
  | none => p.deny tag codeTableRead .range

/-- TABLE-READ (R157). -/
def execTableRead (tag : Tag) (bank table index field : Byte) (s : State) :
    Host.Outcome State Fault Refusal :=
  s.takeRequest (Part.tableRead tag bank.toNat table.toNat index.toNat field.toNat)

def Part.shadowLoad (tag : Tag) (p : Part) : Part :=
  if p.commitPending then p.deny tag codeShadowLoad .busy
  else (p.setShadow p.cfg.active).ack tag codeShadowLoad

/-- SHADOW-LOAD (R158). -/
def execShadowLoad (tag : Tag) (s : State) : Host.Outcome State Fault Refusal :=
  s.takeRequest (Part.shadowLoad tag)

/-- COMMIT (R159). -/
def execCommit (tag : Tag) (sum : BitVec 16) (s : State) : Host.Outcome State Fault Refusal :=
  s.takeRequest (Part.decideCommit tag sum)

end Sys2Proof.Machine
end

