-- ==== Sys2Proof/Machine/JackRequests.lean ====
section
/-! DEFINITION. Jack requests, RESTORE of a feed node, and LAYER-ENTER (R14 to R20, R34, R95). The REPLY is handed
over after the record has changed and before the report (R14). -/

namespace Sys2Proof.Machine

/-- A jack's record changed, the request answered ACK, the change reported (R14). -/
def Part.changeJack (tag : Tag) (code : Byte) (j : JackId) (x : Jack) (p : Part) : Part :=
  p.jackReport ((p.setJack j x).ack tag code)

/-- The jack has an open LIFT command. -/
def Part.lifting (p : Part) (j : JackId) : Bool := (p.openOf (.jack j)).isSome

/-! ### SPLICE-BEGIN (R15) -/

def Part.spliceBegin (tag : Tag) (j : JackId) (p : Part) : Part :=
  if !(p.jack j).state.climbs then p.deny tag codeSpliceBegin .jackState
  else if p.lifting j || (p.entryOf j).isSome then p.deny tag codeSpliceBegin .busy
  else if jackIds.any (fun i => i != j && p.sectorOf i == p.sectorOf j && (p.jack i).state == .splice) then
    p.deny tag codeSpliceBegin .sectorSplice
  else if p.spliceCount = p.bank.spliceLimit then p.deny tag codeSpliceBegin .limit
  else p.changeJack tag codeSpliceBegin j { p.jack j with state := .splice }

def execSpliceBegin (tag : Tag) (jack : Byte) (s : State) : Host.Outcome State Fault Refusal :=
  s.takeRequest fun p =>
    match indexOf 96 jack with
    | some j => p.spliceBegin tag j
    | none => p.deny tag codeSpliceBegin .range

/-! ### SPLICE-END (R16) -/

def Part.spliceEnd (tag : Tag) (j : JackId) (rod : Nat) (p : Part) : Part :=
  if !(1 ≤ rod && rod ≤ 2000) then p.deny tag codeSpliceEnd .range
  else if (p.jack j).state ≠ .splice then p.deny tag codeSpliceEnd .jackState
  else p.changeJack tag codeSpliceEnd j { (p.jack j).setRod p.bank rod with state := .catchup }

def execSpliceEnd (tag : Tag) (jack : Byte) (rod : BitVec 16) (s : State) :
    Host.Outcome State Fault Refusal :=
  s.takeRequest fun p =>
    match indexOf 96 jack with
    | some j => p.spliceEnd tag j rod.toNat
    | none => p.deny tag codeSpliceEnd .range

/-! ### ROD-SET (R17) -/

def Part.rodSet (tag : Tag) (j : JackId) (rod : Nat) (p : Part) : Part :=
  if 2000 < rod then p.deny tag codeRodSet .range
  else if p.mode.mode ≠ .setup ∧ p.mode.mode.isHold = false then p.deny tag codeRodSet .mode
  else if (p.jack j).state = .absent then p.deny tag codeRodSet .jackState
  else if p.lifting j then p.deny tag codeRodSet .busy
  else p.changeJack tag codeRodSet j ((p.jack j).setRod p.bank rod)

def execRodSet (tag : Tag) (jack : Byte) (rod : BitVec 16) (s : State) : Host.Outcome State Fault Refusal :=
  s.takeRequest fun p =>
    match indexOf 96 jack with
    | some j => p.rodSet tag j rod.toNat
    | none => p.deny tag codeRodSet .range

/-! ### POSITION-SET (R18) -/

/-- Every value of the two octets is in 0..65 535, so check 1 refuses only the index. -/
def Part.positionSet (tag : Tag) (j : JackId) (position : Nat) (p : Part) : Part :=
  if p.mode.mode ≠ .setup then p.deny tag codePositionSet .mode
  else if (p.jack j).state = .absent then p.deny tag codePositionSet .jackState
  else if p.lifting j then p.deny tag codePositionSet .busy
  else p.changeJack tag codePositionSet j { p.jack j with position := position }

def execPositionSet (tag : Tag) (jack : Byte) (position : BitVec 16) (s : State) :
    Host.Outcome State Fault Refusal :=
  s.takeRequest fun p =>
    match indexOf 96 jack with
    | some j => p.positionSet tag j position.toNat
    | none => p.deny tag codePositionSet .range

/-! ### ISOLATE (R19, R95) -/

/-- The STILL to the node of a jack's open LIFT (R19). -/
def Part.stillOf (j : JackId) (p : Part) : Part :=
  match p.openOf (.jack j) with
  | some c => p.stillNode c
  | none => p

def Part.isolateJack (tag : Tag) (j : JackId) (p : Part) : Part :=
  let x := p.jack j
  match x.state with
  | .active | .catchup | .faulted _ =>
    let q := ((p.setJack j { x with state := .isolated }).ack tag codeIsolate).markOf .isolated (.jack j)
    (p.jackReport (q.stillOf j)).closeStopped (.jack j)
  | .absent | .splice | .isolated => p.deny tag codeIsolate .jackState

def Part.isolate (tag : Tag) (node : Byte) (p : Part) : Part :=
  if !isNode node then p.deny tag codeIsolate .range
  else match p.findJack node with
    | some j => p.isolateJack tag j
    | none => p.deny tag codeIsolate (if (p.findFeed node).isSome then .wrongKind else .noNode)

def execIsolate (tag : Tag) (node : Byte) (s : State) : Host.Outcome State Fault Refusal :=
  s.takeRequest (Part.isolate tag node)

/-! ### RESTORE (R20, R95) -/

/-- Position, rod, depth and rod-low reported are kept (R20). -/
def Jack.restore (x : Jack) : Jack := { x with state := .catchup, strikes := 0 }

def Part.restoreJack (tag : Tag) (j : JackId) (p : Part) : Part :=
  let x := p.jack j
  match x.state with
  | .faulted _ | .isolated =>
    if p.lifting j then p.deny tag codeRestore .busy
    else p.jackReport
      (((p.setJack j x.restore).ack tag codeRestore).setAbandoned (p.addrOf (.jack j)) none)
  | .absent | .active | .catchup | .splice => p.deny tag codeRestore .jackState

def Part.restoreFeed (tag : Tag) (f : FeedId) (p : Part) : Part :=
  if (p.feed f).state ≠ .faulted then p.deny tag codeRestore .nodeState
  else if (p.openOf (.feed f)).isSome then p.deny tag codeRestore .busy
  else (((p.setFeed f { p.feed f with state := .ready }).cease (.feed f)).setAbandoned
    (p.addrOf (.feed f)) none).ack tag codeRestore

def Part.restore (tag : Tag) (node : Byte) (p : Part) : Part :=
  if !isNode node then p.deny tag codeRestore .range
  else match p.findJack node, p.findFeed node with
    | some j, _ => p.restoreJack tag j
    | none, some f => p.restoreFeed tag f
    | none, none => p.deny tag codeRestore .noNode

def execRestore (tag : Tag) (node : Byte) (s : State) : Host.Outcome State Fault Refusal :=
  s.takeRequest (Part.restore tag node)

/-! ### LAYER-ENTER (R34) -/

/-- The checks in range: the layer appended, ACK, OVERPOUR, LT's report (R30, R33, log 15). -/
def Part.enterLayer (tag : Tag) (k : SectorId) (depth : Nat) (placed : Clock) (mix : MixId) (p : Part) : Part :=
  let q := (p.setSector k ((p.sector k).append depth mix placed .entered)).ack tag codeLayerEnter
  ((q.raiseIf (q.overTop k) .overpour).admPass).judgeReported k

def Part.layerEnter (tag : Tag) (sector : Byte) (depth : Nat) (age : Clock) (mix : Byte) (p : Part) : Part :=
  match indexOf 24 sector, indexOf 8 mix with
  | some k, some m =>
    if !(1 ≤ depth && depth ≤ 2000) then p.deny tag codeLayerEnter .range
    else if p.clock < age then p.deny tag codeLayerEnter .range
    else if p.mode.mode ≠ .setup ∧ p.mode.mode.isHold = false then p.deny tag codeLayerEnter .mode
    else if (p.sector k).isFull then p.deny tag codeLayerEnter .layersFull
    else p.enterLayer tag k depth (p.clock - age) m
  | _, _ => p.deny tag codeLayerEnter .range

def execLayerEnter (tag : Tag) (sector : Byte) (depth : BitVec 16) (age : BitVec 24) (mix : Byte)
    (s : State) : Host.Outcome State Fault Refusal :=
  s.takeRequest (Part.layerEnter tag sector depth.toNat (age.setWidth 32) mix)

end Sys2Proof.Machine
end

