-- ==== Sys2Proof/Machine/ReadRequests.lean ====
section
/-! DEFINITION. Requests that read the part: STATUS, FAULTS, JACK-READ, SECTOR-READ, LAYER-READ, IDENT (R38, R39,
R133, R167, R178 to R180). -/

namespace Sys2Proof.Machine

/-! ### STATUS (R178) -/

def Part.statusPage0 (p : Part) : List Byte :=
  [octet p.mode.mode.code, p.mode.mode.holdCauseOctet, octet p.mode.lease.code, octet p.cfg.commit.code]
    ++ octets2 p.mon.events.toNat ++ [octet p.resetCause.code]

def Part.statusPage1 (p : Part) : List Byte :=
  [octet p.activePositions.length] ++ octets2? p.lowestActive ++ octets2? p.highestActive
    ++ octets2 p.spread ++ [octet p.spliceCount, octet p.stoppedSectors]

def Part.statusPage2 (p : Part) : List Byte :=
  [octet p.adm.queue.length, octet p.openCount] ++ octets2? p.mode.creepTimer
    ++ [octet p.mode.roundList.length]

/-- A time since, held at 65 534; absent while supervision is inactive (R178). -/
def Part.since (p : Part) (t : Clock) : List Byte :=
  if p.sup.active then octets2 (min (age p.clock t) 65534) else ones 2

/-- Bits 0 to 2 (R178); bits 3 to 7, which the layout does not name, are sent 0: the model's choice (log 37). -/
def Part.supervisionFlags (p : Part) : Nat :=
  p.sup.expected.toNat + flagBit p.sup.deckLost 1 + flagBit p.sup.active 2

def Part.statusPage3 (p : Part) : List Byte :=
  octets4 p.clock.toNat ++ [octet p.supervisionFlags, octet p.sup.violations]
    ++ p.since p.sup.lastAccepted ++ p.since p.sup.windowStart

/-- The event set emptied (R136). -/
def Part.emptyEvents (p : Part) : Part := { p with mon := { p.mon with events := 0 } }

/-- The REPLY to page 0 is stamped after the event set is emptied (R136, R178), so with NOTICE clear even where it is
the first frame after a reset (R181, log 38). -/
def Part.status (tag : Tag) (page : Byte) (p : Part) : Part :=
  match page.toNat with
  | 0 => p.emptyEvents.data tag codeStatus p.statusPage0
  | 1 => p.data tag codeStatus p.statusPage1
  | 2 => p.data tag codeStatus p.statusPage2
  | 3 => p.data tag codeStatus p.statusPage3
  | _ => p.deny tag codeStatus .range

def execStatus (tag : Tag) (page : Byte) (s : State) : Host.Outcome State Fault Refusal :=
  s.takeRequest (Part.status tag page)

/-! ### FAULTS (R133) -/

/-- A record's nine octets (R167); bit 6 of the first, which the layout does not name, is sent 0: the model's choice
(log 37). -/
def LogRecord.octets (now : Clock) (r : LogRecord) : List Byte :=
  [octet (conditionCode r.pair + 16 * r.applied.code + flagBit r.present 7), subjectOctet r.pair,
    (r.detail.map fun j => octet j.val).getD 0xFF, octet r.repeats]
    ++ octets3 (min (age now r.first) 16777215) ++ octets2 (min (age now r.last) 65535)

def Part.faultsData (p : Part) (index : Nat) : List Byte :=
  octet p.mon.log.length :: (match p.mon.log[index]? with
    | some r => r.octets p.clock
    | none => ones 9)

def Part.faults (tag : Tag) (index : Byte) (p : Part) : Part :=
  if index.toNat < Config.maxLog then p.data tag codeFaults (p.faultsData index.toNat)
  else p.deny tag codeFaults .range

def execFaults (tag : Tag) (index : Byte) (s : State) : Host.Outcome State Fault Refusal :=
  s.takeRequest (Part.faults tag index)

/-! ### JACK-READ (R179) -/

/-- The jack's nine octets (R179). The bits that the layout does not name are sent 0: bits 3 and 6 of the first octet,
bits 3 and 7 of that of depth and strikes, bits 3 to 7 of the last: the model's choice (log 37). -/
def Part.jackData (p : Part) (j : JackId) : List Byte :=
  let x := p.jack j
  let e := p.jackEntry j
  [octet (x.state.code + 16 * x.state.causeCode + flagBit x.rodLow 7)]
    ++ octets2 x.position ++ octets2 x.rod
    ++ [octet (x.depth + 16 * x.strikes), octet (e.node.val + flagBit e.enabled 7),
      octet (e.sector.val + 32 * e.group.val),
      octet (flagBit (p.lifting j) 0 + flagBit (p.entryOf j).isSome 1
        + flagBit (p.mode.roundList.contains j) 2)]

def execJackRead (tag : Tag) (jack : Byte) (s : State) : Host.Outcome State Fault Refusal :=
  s.takeRequest fun p =>
    match indexOf 96 jack with
    | some j => p.data tag codeJackRead (p.jackData j)
    | none => p.deny tag codeJackRead .range

/-! ### SECTOR-READ (R38) -/

/-- The sector's ten octets (R38, R167); bits 5 and 6 of the last, which the layout does not name, are sent 0: the
model's choice (log 37). -/
def Part.sectorData (p : Part) (k : SectorId) : List Byte :=
  octets3 (p.sector k).floor ++ octets3 (p.sector k).top ++ octets3 (p.sectorBottom k)
    ++ [octet ((p.sector k).layers.length + flagBit (p.sectorStopped k) 7)]

def execSectorRead (tag : Tag) (sector : Byte) (s : State) : Host.Outcome State Fault Refusal :=
  s.takeRequest fun p =>
    match indexOf 24 sector with
    | some k => p.data tag codeSectorRead (p.sectorData k)
    | none => p.deny tag codeSectorRead .range

/-! ### LAYER-READ (R39) -/

/-- A layer's nine octets behind the count octet (R167); bit 3 of the octet of mix and source, which the layout does
not name, is sent 0: the model's choice (log 37). -/
def Layer.octets (now : Clock) (l : Layer) : List Byte :=
  octets2 l.depth ++ [octet (l.mix.val + 16 * l.source.code)]
    ++ octets3 (min (age now l.first) 16777215) ++ octets3 (min (age now l.last) 16777215)

/-- The count octet and the layer, or the count octet with bit 7 and nine octets of ones: ten octets either way (R39,
R167); bits 5 and 6 of the count octet, which the layout does not name, are sent 0: the model's choice (log 37). -/
def Part.layerData (p : Part) (k : SectorId) (n : Nat) : List Byte :=
  let held := (p.sector k).layers.length
  match (p.sector k).layers[n]? with
  | some l => octet held :: l.octets p.clock
  | none => octet (held + 128) :: ones 9

def execLayerRead (tag : Tag) (sector n : Byte) (s : State) : Host.Outcome State Fault Refusal :=
  s.takeRequest fun p =>
    match indexOf 24 sector, indexOf 16 n with
    | some k, some i => p.data tag codeLayerRead (p.layerData k i.val)
    | _, _ => p.deny tag codeLayerRead .range

/-! ### IDENT (R180) -/

def identData : List Byte := octets2 Config.vendorCode ++ octets2 Config.partCode ++ [octet Config.revision]

def execIdent (tag : Tag) (s : State) : Host.Outcome State Fault Refusal :=
  s.takeRequest (Part.data tag codeIdent identData)

end Sys2Proof.Machine
end

