-- ==== Sys2Proof/Machine/RingFrames.lean ====
section
/-! DEFINITION. Frames from ring-in: node replies (R70, R73, R76, R80, R81), STATE and TROUBLE (R11, R23, R94,
R172), the part's own frames returning (R82, R83, R149), and frames dropped (R172). -/

namespace Sys2Proof.Machine

/-! ### LIFTED (R70, R71, R80, R81) -/

/-- What a LIFTED reports. -/
structure LiftedReport where
  source : Byte
  done : Nat
  echo : BitVec 16
  peak : Nat
  deriving DecidableEq, Repr

/-- The rewritten LIFTED of a complete DECK command (R71). -/
def Part.answerLifted (c : Command) (r : LiftedReport) (p : Part) : Part :=
  match c.origin with
  | .deck tag => p.emit .lifted r.source tag
      (octet c.done :: be16 r.echo ++ octets2 (c.peak.getD 0))
  | .device => p

/-- Step 1 of R70: the count and the peak recorded, a due resend cancelled. -/
def Command.takeLifted (r : LiftedReport) (c : Command) : Command :=
  { c with
    done := c.done + min r.done c.size
    peak := some (max (c.peak.getD 0) r.peak)
    phase := .sent }

/-- Step 3 of R70: what becomes of the command once JT has taken the count. -/
def Part.decideLifted (n : Nat) (r : LiftedReport) (c : Command) (p : Part) : Part :=
  if c.done = c.asked then p.closeWith c (·.answerLifted c r) id
  else if n < c.size then p.closeEnded c ((c.ending.map Ending.reason).getD .short)
  else match c.ending with
    | some e => p.closeEnded c e.reason
    | none => p.sendSub c

/-- A LIFTED that answers an open LIFT (R70). -/
def Part.answeredLift (j : JackId) (c : Command) (r : LiftedReport) (p : Part) : Part :=
  let n := min r.done c.size
  let q := (p.setCommand (c.takeLifted r)).applyDone j n r.peak
  match q.openOf (.jack j) with
  | some d => q.decideLifted n r d
  | none => q

/-- A late reply's end: the tag is discarded and LATE raised (R80, log 16). -/
def Part.lateTaken (a : Addr) (p : Part) : Part := (p.setAbandoned a none).raise .late

/-- The subject of the last abandoned tag of an address, if the tag is that (R80). -/
def Part.abandonedAs (p : Part) (a : Addr) (tag : Tag) : Option Subject :=
  match (p.nodeTags a).abandoned with
  | some x => if x.tag = tag then some x.subject else none
  | none => none

/-- A LIFTED that answers no open command: late, or unsolicited (R80, R81, log 17). -/
def Part.strayLifted (tag : Tag) (r : LiftedReport) (p : Part) : Part :=
  match asNode r.source.toNat with
  | none => p.raise .unsolicited
  | some a =>
    match p.abandonedAs a tag with
    | some (.jack j) => (p.applyDone j (min r.done 4) r.peak).lateTaken a
    | some (.feed _) | none => p.raise .unsolicited

def Part.takeLifted (tag : Tag) (r : LiftedReport) (p : Part) : Part :=
  match p.openAt r.source with
  | some c =>
    match c.task with
    | .lift j => if c.tag = tag then p.answeredLift j c r else p.strayLifted tag r
    | .pour _ _ => p.strayLifted tag r
  | none => p.strayLifted tag r

/-- A node's frame whose source is no node is dropped with LINKERR (R172, log 19). -/
def Part.fromNode (source : Byte) (effect : Part → Part) (p : Part) : Part :=
  if isNode source then effect p else p.raise .linkerr

/-- LIFTED (R70). -/
def execLifted (source : Byte) (tag : Tag) (done : Byte) (echo peak : BitVec 16) (s : State) :
    Host.Outcome State Fault Refusal :=
  s.takeFrame (Part.fromNode source (Part.takeLifted tag ⟨source, done.toNat, echo, peak.toNat⟩))

/-! ### POURED (R73, R90 to R93) -/

/-- What a POURED reports. -/
structure PouredReport where
  source : Byte
  sector : Byte
  litres : BitVec 16
  mix : Byte
  deriving DecidableEq, Repr

/-- The POURED as the node sent it, under the deck tag (R73). -/
def Part.answerPoured (c : Command) (r : PouredReport) (p : Part) : Part :=
  match c.origin with
  | .deck tag => p.emit .poured r.source tag (r.sector :: be16 r.litres ++ [r.mix])
  | .device => p

/-- A POURED that answers an open POUR (R73, R90). -/
def Part.answeredPour (f : FeedId) (k : SectorId) (c : Command) (r : PouredReport) (p : Part) : Part :=
  let c := { c with done := min r.litres.toNat c.asked, phase := .sent }
  let q := (p.setCommand c).feedReturn f
  let q := q.judgePoured f (some k) (some c.asked) r.sector r.litres.toNat r.mix
  q.closeWith c (·.answerPoured c r) id

/-- A POURED that answers no open command: late, or unsolicited (R80, R81, R93, log 17). -/
def Part.strayPoured (tag : Tag) (r : PouredReport) (p : Part) : Part :=
  match asNode r.source.toNat with
  | none => p.raise .unsolicited
  | some a =>
    match p.abandonedAs a tag with
    | some (.feed f) =>
      (p.judgePoured f (p.feed f).lastSector none r.sector r.litres.toNat r.mix).lateTaken a
    | some (.jack _) | none => p.raise .unsolicited

def Part.takePoured (tag : Tag) (r : PouredReport) (p : Part) : Part :=
  match p.openAt r.source with
  | some c =>
    match c.task with
    | .pour f k => if c.tag = tag then p.answeredPour f k c r else p.strayPoured tag r
    | .lift _ => p.strayPoured tag r
  | none => p.strayPoured tag r

/-- POURED (R73). -/
def execPoured (source : Byte) (tag : Tag) (sector : Byte) (litres : BitVec 16) (mix : Byte) (s : State) :
    Host.Outcome State Fault Refusal :=
  s.takeFrame (Part.fromNode source (Part.takePoured tag ⟨source, sector, litres, mix⟩))

/-! ### WAIT (R76, R77) -/

/-- A WAIT that answers the present sub-transaction in SENT (R76, R77). -/
def Part.answeredWait (c : Command) (p : Part) : Part :=
  match c.ending with
  | some e => p.closeEnded c e.reason
  | none =>
    if c.retries < p.bank.retryLimit then
      p.setCommand { c with retries := c.retries + 1, phase := .resend, sent := p.clock }
    else (p.raise .nodeBusy).closeEnded c .nodeBusy

def Part.takeWait (source : Byte) (tag : Tag) (p : Part) : Part :=
  match p.openAt source with
  | some c => if c.tag = tag ∧ c.phase = .sent then p.answeredWait c else p.raise .unsolicited
  | none => p.raise .unsolicited

/-- WAIT (R76). -/
def execWait (source : Byte) (tag : Tag) (s : State) : Host.Outcome State Fault Refusal :=
  s.takeFrame (Part.fromNode source (Part.takeWait source tag))

/-! ### STATE and TROUBLE (R11, R23, R94, R172) -/

/-- JT takes the depth field of a STATE (R11). -/
def Part.learnDepth (source depth : Byte) (p : Part) : Part :=
  match p.findJack source with
  | some j =>
    if (p.jack j).state ≠ .absent ∧ 1 ≤ depth.toNat ∧ depth.toNat ≤ 4 then
      p.setJack j { p.jack j with depth := depth.toNat }
    else p
  | none => p

/-- STATE (R11, R172). -/
def execNodeState (source : Byte) (tag : Tag) (echo : BitVec 16) (depth : Byte) (pressure : BitVec 16)
    (code : Byte) (s : State) : Host.Outcome State Fault Refusal :=
  s.takeFrame (Part.fromNode source fun p =>
    (p.learnDepth source depth).emit .state source tag
      (be16 echo ++ [depth] ++ be16 pressure ++ [code]))

/-- JT or FEED takes a TROUBLE (R23, R94). -/
def Part.takeTrouble (source : Byte) (p : Part) : Part :=
  match p.findJack source, p.findFeed source with
  | some j, _ => p.faultJack .trouble j
  | none, some f => p.feedFault f
  | none, none => p

/-- TROUBLE: what it causes, a lease granted by the closes it brings too, is handed to DPORT before the forwarded frame
(R172, log 39). -/
def execTrouble (source : Byte) (tag : Tag) (code : Byte) (s : State) : Host.Outcome State Fault Refusal :=
  s.takeFrame (Part.fromNode source fun p =>
    (p.leaseSince (p.takeTrouble source)).emit .trouble source tag [code])

/-! ### Frames returning untaken (R82, R83, R149) -/

/-- An unclaimed LIFT or POUR (R82). -/
def Part.unclaimed (kind : Kind) (dest : Byte) (tag : Tag) (p : Part) : Part :=
  match p.openAt dest with
  | some c => if c.kind = kind ∧ c.tag = tag then p.closeTimeout c else p
  | none => p

def execUnclaimedLiftPour (kind : Kind) (dest : Byte) (tag : Tag) (s : State) :
    Host.Outcome State Fault Refusal :=
  s.takeFrame (Part.unclaimed kind dest tag)

/-- An unclaimed ASK or STILL: only an ASK to one node is answered (R83). -/
def execUnclaimedAskStill (kind : Kind) (dest : Byte) (tag : Tag) (s : State) :
    Host.Outcome State Fault Refusal :=
  s.takeFrame fun p => if kind = .ask ∧ isNode dest = true then p.refuse dest .ask tag .noNode else p

/-- An unclaimed NODESET: one to one node is answered (R149). -/
def execUnclaimedNodeset (dest : Byte) (tag : Tag) (s : State) : Host.Outcome State Fault Refusal :=
  s.takeFrame fun p => if isNode dest then p.refuse dest .nodeset tag .noNode else p

/-- A ring-in frame dropped (R172). -/
def execRingFrameDropped (_source _dest : Byte) (_kind : Kind) (_length : Nat) (s : State) :
    Host.Outcome State Fault Refusal :=
  s.takeFrame (Part.raise .linkerr)

end Sys2Proof.Machine
end

