-- ==== Sys2Proof/Machine/Lines.lean ====
section
/-! DEFINITION. Frames leaving the two ports, the lines STOP IN and RESET, power, and the reset after a RESET's ACK
(R123, R174, R175, R181 to R183). -/

namespace Sys2Proof.Machine

/-- RPORT finishes the frame at the front of its queue; nothing while the RESET line is held (R174, R182). -/
def Part.sendRing (p : Part) : Part := if p.resetLine then p else { p with ringQueue := p.ringQueue.tail }

/-- RING_OUT_SEND. -/
def execRingOutSend (s : State) : Host.Outcome State Fault Refusal := s.act Part.sendRing

/-- DPORT finishes the oldest frame of its queue; a RESET's ACK comes one frame nearer to leaving (R175, R183). -/
def Part.sendDeck (p : Part) : Part :=
  if p.resetLine then p
  else match p.sendQueue with
    | [] => p
    | _ :: rest => { p with sendQueue := rest, resetWait := p.resetWait.map (· - 1) }

/-- DECK_SEND. -/
def execDeckSend (s : State) : Host.Outcome State Fault Refusal := s.act Part.sendDeck

/-- The STOP IN line takes a level; MON samples it outside reset (R123, R182, log 20). -/
def Part.stopInLevel (level : Bool) (p : Part) : Part :=
  let q := { p with stopIn := level }
  if p.resetLine || p.stopIn == level then q else q.judge .stopin level

/-- STOP_IN_ASSERT. -/
def execStopInAssert (s : State) : Host.Outcome State Fault Refusal := s.act (Part.stopInLevel true)

/-- STOP_IN_RELEASE. -/
def execStopInRelease (s : State) : Host.Outcome State Fault Refusal := s.act (Part.stopInLevel false)

/-- Power is applied: the reset event, and the release event unless the RESET line is held (R182). -/
def Part.powerUp (p : Part) : Part :=
  let q := p.resetEvent .power
  if q.resetLine then q else q.releaseEvent

/-- POWER_ON. -/
def execPowerOn (s : State) : Host.Outcome State Fault Refusal := s.act Part.powerUp

/-- The RESET line is asserted: the reset event with cause PIN (R182); no change if it was asserted (log 20). -/
def Part.holdReset (p : Part) : Part := if p.resetLine then p else { p.resetEvent .pin with resetLine := true }

/-- RESET_LINE_ASSERT. -/
def execResetLineAssert (s : State) : Host.Outcome State Fault Refusal := s.act Part.holdReset

/-- The RESET line is released: the release event (R182). -/
def Part.releaseReset (p : Part) : Part :=
  if p.resetLine then { p with resetLine := false }.releaseEvent else p

/-- RESET_LINE_RELEASE. -/
def execResetLineRelease (s : State) : Host.Outcome State Fault Refusal := s.act Part.releaseReset

/-- RESET_AFTER_ACK: the reset of R183, due once the ACK has left; with no such reset due, nothing (log 23). -/
def execResetAfterAck (s : State) : Host.Outcome State Fault Refusal := s.due id

end Sys2Proof.Machine
end

