-- ==== Sys2Proof/Machine/TimeEvents.lean ====
section
/-! DEFINITION. The second and the rows for what falls due at it (R184): each row takes its own share of the latest
advance, if that is still owed and due (log 2). -/

namespace Sys2Proof.Machine

/-- SLIP_CLOCK_ADVANCE: what is left of the second before, then the advance (R184). -/
def execSlipClockAdvance (s : State) : Host.Outcome State Fault Refusal := s.endSecond Part.advance

/-- A row that takes one whole share. -/
def Part.rowShare (x : Share) (p : Part) : Part := p.takeShare x

/-- DEFERRED_ENTRY_EXPIRY: ADM takes the queue once (R56). -/
def execDeferredEntryExpiry (s : State) : Host.Outcome State Fault Refusal := s.due (Part.rowShare .deferred)

/-- XT's share for one node, while the share is owed: a timeout or a resend, whichever the row names. -/
def Part.nodeShare (node : Byte) (due : Part → Command → Bool) (p : Part) : Part :=
  if p.owed.contains .transactions then
    match p.openAt node with
    | some c => if due p c then p.dueCommand c else p
    | none => p
  else p

/-- SUB_TRANSACTION_TIMEOUT (R74, R75). -/
def execSubTransactionTimeout (node : Byte) (s : State) : Host.Outcome State Fault Refusal :=
  s.due (Part.nodeShare node Part.timedOut)

/-- RESEND_DUE (R76). -/
def execResendDue (node : Byte) (s : State) : Host.Outcome State Fault Refusal :=
  s.due (Part.nodeShare node Part.resendDue)

/-- CREEP_TIMER_EXPIRY (R108, R109). -/
def execCreepTimerExpiry (s : State) : Host.Outcome State Fault Refusal := s.due (Part.rowShare .creep)

/-- LEASE_LIMIT (R151). -/
def execLeaseLimit (s : State) : Host.Outcome State Fault Refusal := s.due (Part.rowShare .lease)

/-- WINDOW_EXPIRY (R141). -/
def execWindowExpiry (s : State) : Host.Outcome State Fault Refusal := s.due (Part.rowShare .window)

/-- COMMIT_WAIT_CANCEL (R163). -/
def execCommitWaitCancel (s : State) : Host.Outcome State Fault Refusal := s.due (Part.rowShare .commitWait)

/-- One pair's deglitch time, while the share is owed (R125). -/
def Part.pairShare (q : Pair) (p : Part) : Part :=
  if p.owed.contains .deglitch then p.event [deglitchJudging q, compoundJudging] else p

/-- DEGLITCH_EXPIRY (R125). -/
def execDeglitchExpiry (pair : Pair) (s : State) : Host.Outcome State Fault Refusal :=
  s.due (Part.pairShare pair)

/-- RESUME_BLANKING_END (R126). -/
def execResumeBlankingEnd (s : State) : Host.Outcome State Fault Refusal := s.due (Part.rowShare .blanking)

end Sys2Proof.Machine
end

