-- ==== Sys2Proof/Machine/Dispatch.lean ====
section
/-! DEFINITION. One arm for each command: its meaning. -/

namespace Sys2Proof.Machine

def exec (i : Instr) (s : State) : Host.Outcome State Fault Refusal :=
  match i with
  | .lift dest tag payload => Sys2Proof.Machine.execLift dest tag payload s
  | .pour dest tag payload => Sys2Proof.Machine.execPour dest tag payload s
  | .ask dest tag payload => Sys2Proof.Machine.execAsk dest tag payload s
  | .still dest tag payload => Sys2Proof.Machine.execStill dest tag payload s
  | .nodeset dest tag payload => Sys2Proof.Machine.execNodeset dest tag payload s
  | .deckFrameWrongKind dest kind tag => Sys2Proof.Machine.execDeckFrameWrongKind dest kind tag s
  | .frameBadCheck port => Sys2Proof.Machine.execFrameBadCheck port s
  | .unknownKindDropped port code => Sys2Proof.Machine.execUnknownKindDropped port code s
  | .mgmtBadRequest tag payload => Sys2Proof.Machine.execMgmtBadRequest tag payload s
  | .heartbeat tag token => Sys2Proof.Machine.execHeartbeat tag token s
  | .status tag page => Sys2Proof.Machine.execStatus tag page s
  | .faults tag index => Sys2Proof.Machine.execFaults tag index s
  | .clear tag => Sys2Proof.Machine.execClear tag s
  | .tableWrite tag table index field value => Sys2Proof.Machine.execTableWrite tag table index field value s
  | .tableRead tag bank table index field => Sys2Proof.Machine.execTableRead tag bank table index field s
  | .shadowLoad tag => Sys2Proof.Machine.execShadowLoad tag s
  | .commit tag sum => Sys2Proof.Machine.execCommit tag sum s
  | .controlStart tag => Sys2Proof.Machine.execControlStart tag s
  | .controlHold tag => Sys2Proof.Machine.execControlHold tag s
  | .controlResume tag => Sys2Proof.Machine.execControlResume tag s
  | .controlStop tag => Sys2Proof.Machine.execControlStop tag s
  | .spliceBegin tag jack => Sys2Proof.Machine.execSpliceBegin tag jack s
  | .spliceEnd tag jack rod => Sys2Proof.Machine.execSpliceEnd tag jack rod s
  | .rodSet tag jack rod => Sys2Proof.Machine.execRodSet tag jack rod s
  | .positionSet tag jack position => Sys2Proof.Machine.execPositionSet tag jack position s
  | .isolate tag node => Sys2Proof.Machine.execIsolate tag node s
  | .restore tag node => Sys2Proof.Machine.execRestore tag node s
  | .jackRead tag jack => Sys2Proof.Machine.execJackRead tag jack s
  | .sectorRead tag sector => Sys2Proof.Machine.execSectorRead tag sector s
  | .layerRead tag sector n => Sys2Proof.Machine.execLayerRead tag sector n s
  | .layerEnter tag sector depth age mix => Sys2Proof.Machine.execLayerEnter tag sector depth age mix s
  | .leaseAsk tag => Sys2Proof.Machine.execLeaseAsk tag s
  | .leaseEnd tag => Sys2Proof.Machine.execLeaseEnd tag s
  | .reset tag => Sys2Proof.Machine.execReset tag s
  | .ident tag => Sys2Proof.Machine.execIdent tag s
  | .lifted source tag done echo peak => Sys2Proof.Machine.execLifted source tag done echo peak s
  | .poured source tag sector litres mix => Sys2Proof.Machine.execPoured source tag sector litres mix s
  | .wait source tag => Sys2Proof.Machine.execWait source tag s
  | .nodeState source tag echo depth pressure code => Sys2Proof.Machine.execNodeState source tag echo depth pressure code s
  | .trouble source tag code => Sys2Proof.Machine.execTrouble source tag code s
  | .unclaimedLiftPour kind dest tag => Sys2Proof.Machine.execUnclaimedLiftPour kind dest tag s
  | .unclaimedAskStill kind dest tag => Sys2Proof.Machine.execUnclaimedAskStill kind dest tag s
  | .unclaimedNodeset dest tag => Sys2Proof.Machine.execUnclaimedNodeset dest tag s
  | .ringFrameDropped source dest kind length => Sys2Proof.Machine.execRingFrameDropped source dest kind length s
  | .ringOutSend => Sys2Proof.Machine.execRingOutSend s
  | .deckSend => Sys2Proof.Machine.execDeckSend s
  | .stopInAssert => Sys2Proof.Machine.execStopInAssert s
  | .stopInRelease => Sys2Proof.Machine.execStopInRelease s
  | .powerOn => Sys2Proof.Machine.execPowerOn s
  | .resetLineAssert => Sys2Proof.Machine.execResetLineAssert s
  | .resetLineRelease => Sys2Proof.Machine.execResetLineRelease s
  | .resetAfterAck => Sys2Proof.Machine.execResetAfterAck s
  | .slipClockAdvance => Sys2Proof.Machine.execSlipClockAdvance s
  | .deferredEntryExpiry => Sys2Proof.Machine.execDeferredEntryExpiry s
  | .subTransactionTimeout node => Sys2Proof.Machine.execSubTransactionTimeout node s
  | .resendDue node => Sys2Proof.Machine.execResendDue node s
  | .creepTimerExpiry => Sys2Proof.Machine.execCreepTimerExpiry s
  | .leaseLimit => Sys2Proof.Machine.execLeaseLimit s
  | .windowExpiry => Sys2Proof.Machine.execWindowExpiry s
  | .commitWaitCancel => Sys2Proof.Machine.execCommitWaitCancel s
  | .deglitchExpiry pair => Sys2Proof.Machine.execDeglitchExpiry pair s
  | .resumeBlankingEnd => Sys2Proof.Machine.execResumeBlankingEnd s

end Sys2Proof.Machine
end

