-- ==== Sys2Proof/Machine/Step.lean ====
section
/-! DEFINITION. One step of the part: the command at the front of its queue, or, when none waits, all that is still due
at the latest advance (log 1, log 2). -/

namespace Sys2Proof.Machine

def step (s : State) : Host.Outcome State Fault Refusal :=
  match s.pending with
  | [] => s.endSecond id
  | i :: rest => exec i { s with pending := rest }

/-- The state with the command a word spells put at the front of its queue; no word spells one (Decode.lean). -/
def State.withFetchWord (s : State) (nbits w : Nat) : State :=
  match decodeTableWord nbits w with
  | some i => { s with pending := i :: s.pending }
  | none => s

end Sys2Proof.Machine
end

