-- ==== Sys2Proof/Safety.lean ====
section
/-! DEFINITION. What the statements speak of: when nothing is due, what events leave, written from the rules, and the
laws that every step keeps. -/

namespace Sys2Proof.Machine

/-! ### Nothing due -/

/-- No block owes a share of the latest advance but those that take it late (log 3), no accepted RESET request waits,
and no pending commit meets an empty transaction table. Every command leaves the part so, but for what it makes due
itself. -/
def Part.Settled (p : Part) : Prop :=
  (∀ x ∈ p.owed, x ∈ p.order.late) ∧ p.resetWait = none ∧ (p.commitPending = true → p.xt.table ≠ [])

/-- Settled, and not held in reset: frames are taken. -/
def Part.Ready (p : Part) : Prop := p.Settled ∧ p.resetLine = false

/-- The rows that name what falls due (log 2): each takes its own share before anything else that is due. -/
def dueRow : Instr → Bool
  | .resetAfterAck | .deferredEntryExpiry | .subTransactionTimeout _ | .resendDue _ | .creepTimerExpiry
  | .leaseLimit | .windowExpiry | .commitWaitCancel | .deglitchExpiry _ | .resumeBlankingEnd => true
  | _ => false

/-- The rows that move a frame over a port, or time: those that a held RESET line keeps from any effect (R182). -/
def portOrTimeRow : Instr → Bool
  | .stopInAssert | .stopInRelease | .powerOn | .resetLineAssert | .resetLineRelease => false
  | i => !dueRow i

/-- The rows that bring a frame to a port: all but those by which a frame leaves, or time moves (R182, R183). -/
def frameRow : Instr → Bool
  | .deckSend | .ringOutSend | .slipClockAdvance => false
  | i => portOrTimeRow i

/-! ### Answers -/

/-- A frame was the first that an event handed to the deck: it stands behind what waited before, or, when 256
frames waited, nothing joined the queue (R175). -/
def Part.Answers (p t : Part) (f : Frame) : Prop :=
  if p.sendQueue.length < Config.maxSend then p.sendQueue ++ [f] <+: t.sendQueue else t.sendQueue = p.sendQueue

/-- A frame has been handed to the deck within an event, or the send queue was full (R175). -/
def Part.Tells (t : Part) (f : Frame) : Prop := f ∈ t.sendQueue ∨ Config.maxSend ≤ t.sendQueue.length

/-- The LIFT of a deferred entry has been answered REFUSED with a reason code (R57 to R60, R167). -/
def Part.TellsRefused (t : Part) (e : Entry) (why : Byte) : Prop :=
  ∃ summary, t.Tells ⟨0, 0, .refused, e.tag, summary, [e.node, Kind.lift.code, e.tag.setWidth 8, why]⟩

/-! ### What effects leave -/

/-- What most events leave: the configuration, the slip clock, what is owed at it, the reset registers and the
levels of the input lines. -/
def Part.SameBase (p t : Part) : Prop :=
  t.cfg = p.cfg ∧ t.clock = p.clock ∧ t.owed = p.owed ∧ t.resetCause = p.resetCause ∧ t.resetWait = p.resetWait
    ∧ t.stopIn = p.stopIn ∧ t.resetLine = p.resetLine ∧ t.order = p.order

/-- No condition that can assert stops anything, and no more sectors are stopped than the limit. -/
def Part.Soft (p : Part) : Prop :=
  (∀ q, q = .stopin ∨ q = .compound ∨ q = .request ∨ p.bank.condMode q = .ignore ∨ p.bank.condMode q = .warn)
    ∧ p.stoppedSectors ≤ p.bank.sectorStopLimit

/-- Nothing waits for admission, no creep round is in progress, and no condition of the deck's stops anything: then an
event has no effects beyond its own and MON's records. -/
def Part.Calm (p : Part) : Prop :=
  p.adm.queue = [] ∧ p.mode.roundInProgress = false ∧ p.mode.roundList = [] ∧ p.Soft

/-- The fault log can take an assertion of q: it is not full, or holds a record of q, or one that may go for it (R131,
R132). -/
def Part.LogRoom (p : Part) (q : Pair) : Prop :=
  p.mon.log.length < 32 ∨ ∃ r ∈ p.mon.log, r.pair = q ∨ r.present = false ∨ r.applied = .warn

/-- The fault log holds an assertion of q under mode m, made now: a new record, or q's record with one repeat more
(R131). -/
def Part.LogHolds (p t : Part) (q : Pair) (m : CondMode) (detail : Option JackId) (present : Bool) : Prop :=
  ((∀ o ∈ p.mon.log, o.pair ≠ q) → ⟨q, m, detail, p.clock, p.clock, 1, present⟩ ∈ t.mon.log)
    ∧ ∀ o ∈ p.mon.log, o.pair = q → { o with
      applied := m, detail := detail, last := p.clock, repeats := min (o.repeats + 1) 255, present := present } ∈ t.mon.log

/-- The conditions that the jack table's reports judge: PRESSURE, SILENT, TROUBLE and ROD (R121). -/
def judgedOfJacks : Pair → Bool
  | .pressure _ | .silent _ | .trouble _ | .rod _ => true
  | _ => false

/-- Only the jack table, the layer table and MON differ. Of MON, blanking, ALERT and every cause set stay, every pair but
those that a report judges, and every event but WARNED and LOG-FULL. -/
def Part.OnlyDeckMoved (p t : Part) : Prop :=
  { t with jacks := p.jacks, sectors := p.sectors, mon := p.mon } = p
    ∧ t.mon.blanking = p.mon.blanking ∧ t.mon.alert = p.mon.alert
    ∧ (∀ q, (t.pair q).stopsSector = (p.pair q).stopsSector ∧ (t.pair q).stopsRing = (p.pair q).stopsRing)
    ∧ (∀ q, judgedOfJacks q = false → q ≠ .spread → q ≠ .compound → (∀ k, q ≠ .bond k ∧ q ≠ .starve k) →
      t.pair q = p.pair q)
    ∧ ∀ e, e ≠ .warned → e ≠ .logFull → t.hasEvent e = p.hasEvent e

/-- A pair's condition has ceased: NOT-PRESENT, its record, if it was PRESENT, present no; its cause sets and all else
that MON keeps stay (R125). -/
def Part.Ceased (p t : Part) (q : Pair) : Prop :=
  t.pair q = { p.pair q with state := .notPresent } ∧ (∀ x, x ≠ q → t.pair x = p.pair x)
    ∧ t.mon.log = (if (p.pair q).state.isPresent then
        p.mon.log.map fun r => if r.pair = q then { r with present := false } else r
      else p.mon.log)
    ∧ t.mon.blanking = p.mon.blanking ∧ t.mon.alert = p.mon.alert ∧ t.mon.events = p.mon.events

/-- The jack records after the catch-up test, made on the records y: every CATCHUP jack at or above the highest ACTIVE
position minus the spread admit limit, or with no jack ACTIVE, enters ACTIVE; every other record stays (R13). -/
def CaughtUp (limit : Nat) (y : JackId → Jack) (t : Part) : Prop :=
  ∀ i, t.jack i =
    if (y i).state = .catchup ∧ ∀ k, (y k).state = .active → (y k).position ≤ (y i).position + limit then
      { y i with state := .active }
    else y i

/-- Each sector's layers after its bottom has risen, and untouched otherwise (R31, R32). -/
def Part.LayersRetired (p t : Part) : Prop :=
  ∀ k, t.sector k = if p.sectorBottom k < t.sectorBottom k then (p.sector k).retire (t.sectorBottom k) else p.sector k

/-- A jack meets the test of a fault condition or of ROD in its sector (R117, R121). -/
def Part.Meets (p : Part) (j : JackId) (q : Pair) : Prop :=
  let k := p.sectorOf j
  (q = .pressure k ∧ (p.jack j).state = .faulted .pressure) ∨ (q = .silent k ∧ (p.jack j).state = .faulted .silent)
    ∨ (q = .trouble k ∧ (p.jack j).state = .faulted .trouble)
    ∨ (q = .rod k ∧ ((p.jack j).state = .active ∨ (p.jack j).state = .catchup) ∧ (p.jack j).rod = 0)

/-- A sector has been stopped within an event, of which p is the part before: ALERT is set, no entry of the sector is
left in the deferred queue, and every LIFT of the sector still open has an ending reason and was sent a STILL under its
current tag (R58, R78, R128, R135). -/
def Part.SectorHalted (p t : Part) (k : SectorId) : Prop :=
  t.mon.alert = true ∧ (∀ e ∈ t.adm.queue, p.sectorOf e.jack ≠ k)
    ∧ ∀ c ∈ t.xt.table, ∀ j, c.task = .lift j → p.sectorOf j = k →
      c.ending.isSome = true ∧ ⟨⟨octet (p.jackEntry j).node.val, 0, .still, c.tag, 0, []⟩, false⟩ ∈ t.ringQueue

/-- What the condition monitor makes of the report of a change of jack j: PRESSURE, SILENT, TROUBLE and ROD of a sector.
Where the last jack stops meeting the test, the pair is NOT-PRESENT and its record present no, its cause sets as they
were. Where a jack meets it that met it before, and no other comes to meet it, the pair stays as it was. When jack j
comes to meet it the pair asserts under its mode, with jack j as detail jack: PRESENT, and in the cause set of the mode;
WARN raises WARNED, SECTOR stops the sector, RING the ring. The log takes the assertion unless the mode is IGNORE, its
pair's record once more or else a new one; where 32 records stand, none of this pair, none that has ceased and none
under WARN, LOG-FULL is raised instead. A record whose pair ceases in this same event counts as ceased, for MON lets
pairs cease before it asserts: the model's choice (log 12). What else the event asserts may take the record's place only
where SPREAD, BOND or STARVE has no deglitch time, or more sectors are stopped than the limit (R121, R125, R127 to R129,
R131, R132). -/
def Part.FaultsJudged (p t : Part) (j : JackId) : Prop :=
  let room (q : Pair) : Prop := p.LogRoom q
    ∨ ∃ r ∈ p.mon.log, judgedOfJacks r.pair = true ∧ (p.pair r.pair).state.isPresent = true ∧ ∀ i, ¬ t.Meets i r.pair
  ∀ q k, judgedOfJacks q = true → pairSector q = some k →
    let m := p.bank.condMode q
    ((∃ i, p.Meets i q) → (∀ i, ¬ t.Meets i q) →
      (t.pair q).state.isPresent = false ∧ (t.pair q).stopsSector = (p.pair q).stopsSector
        ∧ (t.pair q).stopsRing = (p.pair q).stopsRing
        ∧ ((p.pair q).state.isPresent = true →
          (t.pair q).state = .notPresent ∧ ∀ r ∈ t.mon.log, r.pair = q → r.present = false))
    ∧ ((∃ i, t.Meets i q) → (∀ i, t.Meets i q → p.Meets i q) → t.pair q = p.pair q)
    ∧ ∀ i, t.Meets i q → ¬ p.Meets i q →
      i = j
      ∧ t.pair q = ⟨.present m, (p.pair q).stopsSector || m == .sector, (p.pair q).stopsRing || m == .ring⟩
      ∧ (m = .warn → t.hasEvent .warned = true)
      ∧ (m = .sector → t.sectorStopped k = true ∧ (p.sectorStopped k = false → p.SectorHalted t k))
      ∧ (m = .ring → t.mode.mode.isStopped = true
        ∧ (p.mode.mode.isStopped = false → (p.mode.mode ≠ .slip → p.adm.queue = []) →
          t.mode.mode = .stopped p.mode.mode.left ∧ t.stopOut = true
          ∧ t.sup.active = false ∧ t.mon.alert = true ∧ t.adm.queue = [] ∧ broadcastStill ∈ t.ringQueue
          ∧ ∀ c ∈ t.xt.table, c.ending.isSome = true))
      ∧ (m ≠ .ignore → ¬ room q → t.hasEvent .logFull = true)
      ∧ (m ≠ .ignore → room q → p.bank.deglitchSpread ≠ 0 → p.bank.deglitchBond ≠ 0 → p.bank.deglitchStarve ≠ 0 →
        p.stoppedSectors ≤ p.bank.sectorStopLimit → p.LogHolds t q m (some j) true)

/-- A sector is in use: an enabled jack entry names it (R120). -/
def Part.InUse (p : Part) (k : SectorId) : Prop := ∃ j, (p.jackEntry j).enabled = true ∧ p.sectorOf j = k

/-- The input of SPREAD, BOND or STARVE in the tables of t, taken in the climb mode and blanking of p. SPREAD: outside
SETUP and blanking, a spread above the alarm limit. BOND: a sector in use with a layer, its top above the sector bottom,
placed first longer ago than the max exit age of its mix. STARVE: in SLIP and HOLD outside blanking, a sector in use
whose fill is below min fill (R37, R119, R120, R126). -/
def Part.InputTrue (p t : Part) (q : Pair) : Prop :=
  let blanked : Prop := p.mode.mode = .slip ∧ p.mon.blanking.isSome = true
  match q with
  | .spread => p.mode.mode ≠ .setup ∧ ¬ blanked ∧ t.bank.spreadAlarm < t.spread
  | .bond k => t.InUse k
    ∧ ∃ l ∈ (t.sector k).layers, t.sectorBottom k < l.base + l.depth ∧ (t.mixEntry l.mix).maxExit < age t.clock l.first
  | .starve k => (p.mode.mode = .slip ∨ p.mode.mode.isHold = true) ∧ ¬ blanked ∧ t.InUse k
    ∧ (t.sector k).top < t.sectorBottom k + t.bank.minFill
  | _ => False

/-- MON has taken the input of SPREAD, of a BOND or of a STARVE in an event that found p and has left t (R125, R127). The
input is that of p's climb mode, and where the event has stopped the ring MON takes it in STOPPED as well (R105). Found
false at last, the pair is NOT-PRESENT, and its record present no if it was PRESENT. Found true, a pair that was PENDING
or PRESENT stays so; another waits from now, or, with no deglitch time, asserts: PRESENT, in the cause set of its mode,
WARN raising WARNED, SECTOR stopping the sector, RING the ring, with a record, unless the log has filled up. -/
def Part.InputTaken (p t : Part) (q : Pair) : Prop :=
  let m := p.bank.condMode q
  let was := (p.pair q).state
  let found : Prop := p.InputTrue t q
  let last : Prop := t.InputTrue t q
  let asserts : Prop := p.bank.deglitch q = 0 ∧ ((found ∧ was = .notPresent) ∨ (last ∧ ¬ found))
  (¬ last → (t.pair q).state = .notPresent
      ∧ ((was.isPresent = true ∨ asserts) → ∀ r ∈ t.mon.log, r.pair = q → r.present = false))
    ∧ (last → found → was ≠ .notPresent → (t.pair q).state = was)
    ∧ (last → (was = .notPresent ∨ ¬ found) →
      (t.pair q).state = if p.bank.deglitch q = 0 then .present m else .pending p.clock)
    ∧ ((t.pair q).stopsSector = true ↔ (p.pair q).stopsSector = true ∨ (asserts ∧ m = .sector))
    ∧ ((t.pair q).stopsRing = true ↔ (p.pair q).stopsRing = true ∨ (asserts ∧ m = .ring))
    ∧ (asserts →
      (m = .warn → t.hasEvent .warned = true)
      ∧ (m = .sector → ∀ k, pairSector q = some k →
        t.sectorStopped k = true ∧ (p.sectorStopped k = false → p.SectorHalted t k))
      ∧ (m = .ring → t.mode.mode.isStopped = true)
      ∧ (m ≠ .ignore → t.mon.log.length = 32 ∨ ∃ r ∈ t.mon.log, r.pair = q ∧ r.applied = m ∧ r.last = p.clock))

/-- MON has taken BOND and STARVE of the sectors that a report concerns (R33 step 3, R120). Those of the others stay, but
that STARVE ceases where the event has stopped the ring (R120). -/
def Part.SectorsTaken (p t : Part) (concerned : SectorId → Prop) : Prop :=
  ∀ k, (concerned k → p.InputTaken t (.bond k) ∧ p.InputTaken t (.starve k))
    ∧ (¬ concerned k → t.pair (.bond k) = p.pair (.bond k)
      ∧ t.pair (.starve k) = (if p.mode.mode.isStopped = false ∧ t.mode.mode.isStopped = true then
          { p.pair (.starve k) with state := .notPresent }
        else p.pair (.starve k)))

/-- LT has reported a change of one sector, or of none: BOND and STARVE of that sector are taken, those of the others and
SPREAD stay, but for what a ring stop judges (R33, R119, R120). -/
def Part.LayersTold (p t : Part) (concerned : SectorId → Prop) : Prop :=
  p.SectorsTaken t concerned
    ∧ (t.mode.mode = p.mode.mode → t.pair .spread = p.pair .spread)

/-- One jack's record has become x, and the jack table has reported it. When its position or state has changed, the
catch-up test has been made on the table with x in it (R13), and no other record changes. Layers retire where a bottom
has risen. The deferred entries of a jack that climbs no longer are gone, each answered REFUSED JACK-STATE (R59). The
condition monitor has judged the fault conditions and ROD, SPREAD where the record has changed (R119), and BOND and
STARVE of every sector whose layers, floor or bottom, or a jack of which, has changed (R33, R120). -/
def Part.JackChanged (p t : Part) (j : JackId) (x : Jack) : Prop :=
  let y (i : JackId) : Jack := if i = j then x else p.jack i
  (if x.position = (p.jack j).position ∧ x.state = (p.jack j).state then ∀ i, t.jack i = y i
    else CaughtUp p.bank.spreadAdmit y t)
    ∧ p.LayersRetired t
    ∧ ((p.jack j).state.climbs = true → x.state.climbs = false →
      ∀ e ∈ p.adm.queue, e.jack = j → e ∉ t.adm.queue ∧ t.TellsRefused e 5)
    ∧ p.FaultsJudged t j
    ∧ (x ≠ p.jack j → p.InputTaken t .spread)
    ∧ p.SectorsTaken t (fun k => t.sectorBottom k ≠ p.sectorBottom k ∨ t.sector k ≠ p.sector k
      ∨ ∃ i, p.sectorOf i = k
        ∧ ((t.jack i).position ≠ (p.jack i).position ∨ (t.jack i).state ≠ (p.jack i).state))
    ∧ p.SameBase t

/-- A report of a placement by a feed node has been taken (R92). Litres that a sector in range and configured can take
stand there, under the mix named or, for a code out of range, under the mix with the longest min exit age, the lowest
code on a tie; no other sector changes. LAYERS-FULL is raised at a queue of 16 layers (R29, log 25), OVERPOUR when the
depth passes 65 535 mm, alone or with a full queue's newest layer, or the top the form top (R27, R29, R30), or when
above says so, MISROUTE for a sector that is not configured (R27) or when astray says so. LT reports the sector that
took the litres (R33). -/
def Part.Placed (p t : Part) (f : FeedId) (sector : Byte) (litres : Nat) (mix : Byte) (above astray : Prop) : Prop :=
  let depth (k : SectorId) : Nat := depthOf (p.sectorEntry k) litres
  let here (k : SectorId) : Prop := k.val = sector.toNat ∧ litres ≠ 0 ∧ (p.sectorEntry k).configured = true
  (∃ m : MixId, (mix.toNat < 8 → m.val = mix.toNat)
      ∧ (8 ≤ mix.toNat → ∀ i, (p.mixEntry i).minExit ≤ (p.mixEntry m).minExit
        ∧ (i < m → (p.mixEntry i).minExit < (p.mixEntry m).minExit))
      ∧ ∀ k, t.sector k =
        if k.val = sector.toNat ∧ litres ≠ 0 ∧ (p.sectorEntry k).configured = true then
          (p.sector k).place p.clock p.bank.mergeInterval (min (depth k) 65535) m f
        else p.sector k)
    ∧ (t.hasEvent .layersFull = true ↔
      p.hasEvent .layersFull = true ∨ ∃ k, here k ∧ 16 ≤ (p.sector k).layers.length)
    ∧ (t.hasEvent .overpour = true ↔
      p.hasEvent .overpour = true ∨ above ∨ ∃ k, here k ∧ (65535 < depth k
        ∨ (16 ≤ (p.sector k).layers.length ∧ ∃ l, (p.sector k).layers.getLast? = some l
          ∧ 65535 < l.depth + min (depth k) 65535)
        ∨ p.formTop k < (t.sector k).top))
    ∧ (t.hasEvent .misroute = true ↔
      p.hasEvent .misroute = true ∨ astray
        ∨ ∃ k : SectorId, k.val = sector.toNat ∧ litres ≠ 0 ∧ (p.sectorEntry k).configured = false)
    ∧ p.LayersTold t here
    ∧ t.jacks = p.jacks ∧ p.SameBase t

/-- The entry into STOPPED out of another mode (R105, R138). The deferred queue is flushed, each entry answered
REFUSED STOPPED when the mode left was SLIP, the only one in which entries wait (R57). A command in SENT stays open with
its own ending reason or STOPPED (R78, R79); one in RESEND closes with it: a DECK command is answered ENDED, a LIFT's
place in its pump group is free, a POURING feed node is READY, and a DEVICE command's close lowers round commands (R71,
R72, R91, R114, R115). The round, its list dropped, ends once no round command is left, and where none was open at the
stop: the model's choice (log 11). A lease that is PENDING is granted by that at the end of the event (R148, leaseGranted,
log 39). MON, told of the mode, lets every STARVE cease, and SPREAD where its input is false (R119, R120). All else stays
as R105 leaves it: the tags, the lease, the sector stop cause sets, a pending commit. -/
def Part.RingStopped (p t : Part) : Prop :=
  let ended (c : Command) : Ending := c.ending.getD .stopped
  let closing : List Command := p.xt.table.filter (·.phase == .resend)
  let left : Nat := p.mode.roundCommands - closing.countP (·.origin == .device)
  t.mode.mode = .stopped p.mode.mode.left ∧ t.mode.creepTimer = none ∧ t.mode.roundList = []
    ∧ t.mode.roundOwed = false ∧ t.mode.lease = p.mode.lease ∧ t.stopOut = true
    ∧ t.sup = { p.sup with active := false }
    ∧ t.mon.alert = true ∧ t.mon.blanking = none
    ∧ (∀ k, (t.pair (.starve k)).state = .notPresent)
    ∧ (¬ t.InputTrue t .spread → (t.pair .spread).state = .notPresent)
    ∧ t.adm.queue = [] ∧ (p.mode.mode = .slip → ∀ e ∈ p.adm.queue, t.TellsRefused e 18)
    ∧ (∀ c ∈ t.xt.table, c.ending.isSome = true)
    ∧ ((p.xt.table.map Command.subject).Nodup →
      t.xt.table = ((p.xt.table.filter (·.phase == .sent)).map fun c => { c with ending := some (ended c) })
      ∧ (∀ c ∈ closing, ∀ g, c.origin = .deck g → ∃ summary, t.Tells ⟨0, 0, .ended, g, summary,
        [octet (p.addrOf c.subject).val, g.setWidth 8] ++ octets2 c.done ++ [(ended c).reason.code]⟩)
      ∧ (∀ f, t.feed f = if (p.feed f).state = .pouring ∧ closing.any (·.subject == .feed f) = true then
          ⟨.ready, (p.feed f).lastSector⟩ else p.feed f)
      ∧ (∀ g, t.occupancy g = p.occupancy g - closing.countP fun c =>
          match c.task with
          | .lift j => p.groupOf j == g
          | .pour _ _ => false)
      ∧ t.mode = { p.mode with
        mode := .stopped p.mode.mode.left
        creepTimer := none
        roundList := []
        roundOwed := false
        roundInProgress := p.mode.roundInProgress && left != 0
        roundCommands := left })
    ∧ t.xt.nodes = p.xt.nodes
    ∧ (∀ q k, pairSector q = some k → (t.pair q).stopsSector = (p.pair q).stopsSector)
    ∧ t.ringQueue = p.ringQueue ++ [broadcastStill]
    ∧ t.jacks = p.jacks ∧ t.sectors = p.sectors ∧ p.SameBase t

/-! ### Admission, as its rules give it -/

/-- The first transient check that n more strokes of a jack fail, in the order COMMIT, TABLE, GROUP, SPREAD, FILL,
YOUNG (R44 to R49). -/
def Part.heldBy (p : Part) (j : JackId) (n : Nat) : Option Reason :=
  let k := p.sectorOf j
  let g := (p.jackEntry j).group
  let h := ((p.jack j).position + n) * p.bank.strokePitch
  if p.commitPending then some .commit
  else if 64 ≤ p.xt.table.length then some .table
  else if p.occupancy g = p.bank.groups[g] then some .group
  else if p.lowestActive.any (fun low => low + p.bank.spreadAdmit < (p.jack j).position + n) then some .spread
  else if (p.sector k).top < h + p.bank.minFill then some .fill
  else if p.young k h then some .young
  else none

/-- The part with a LIFT of n strokes of a jack admitted: its group's occupancy one higher, its command open under the
node's next tag, and the first sub-transaction, of at most the node depth, on its way (R50, R51, R67 to R69). -/
def Part.withLift (p : Part) (j : JackId) (n : Nat) (origin : Origin) : Part :=
  let g := (p.jackEntry j).group
  let a := (p.jackEntry j).node
  let own := (p.nodeTags a).counter + 1
  let size := min n (p.jack j).depth
  { p with
    adm := ⟨p.adm.queue, p.adm.occupancy.set g (p.occupancy g + 1)⟩
    xt := ⟨p.xt.table ++ [⟨.lift j, origin, n, 0, own, size, .sent, p.clock, 0, none, none⟩],
      p.xt.nodes.set a ⟨own, none⟩⟩
    ringQueue := p.ringQueue ++ [⟨⟨octet a.val, 0, .lift, own, 0, [octet size]⟩, false⟩] }

/-- One entry of the deferred queue examined (R55). Past the defer limit, where the guard applies (log 9), it is
refused EXPIRED; with less rod than it asks, ROD; with no check failing it is admitted; else it stays with the reason
of the first that fails, and a fresh HELD goes out if that is another reason. An entry that is being removed in this
event is passed over (log 7). -/
def Part.reexamined (guarded : Bool) (p : Part) (e : Entry) : Part :=
  let gone : Part := { p with adm := ⟨p.adm.queue.filter (·.jack ≠ e.jack), p.adm.occupancy⟩ }
  if p.entryStands e = false then p
  else if guarded = true ∧ p.bank.deferLimit < age p.clock e.deferred then gone.refuse e.node .lift e.tag .expired
  else if (p.jack e.jack).rod < e.strokes then gone.refuse e.node .lift e.tag .rod
  else match p.heldBy e.jack e.strokes with
    | none => gone.withLift e.jack e.strokes (.deck e.tag)
    | some r =>
      if r = e.reason then p
      else ({ p with adm := ⟨p.adm.queue.map fun d => if d.jack = e.jack then { d with reason := r } else d,
        p.adm.occupancy⟩ } : Part).held e.node e.tag r

/-- A re-examination pass: the entries in queue order, oldest first, each once (R54, R55). -/
def Part.repassed (guarded : Bool) (p : Part) : Part := p.adm.queue.foldl (Part.reexamined guarded) p

/-- A pass that a close, a report or a commit causes: the guard applies between an advance and ADM's own share of it
(log 9). -/
def Part.retried (p : Part) : Part := p.repassed (p.owed.contains .deferred)

/-! ### Creep, as its rules give it -/

/-- The first check that a device LIFT of one stroke fails, or none (R62). -/
def Part.deviceHeldBy (p : Part) (j : JackId) : Option Reason :=
  if (p.jack j).state ≠ .active ∧ (p.jack j).state ≠ .catchup then some .jackState
  else if p.sectorStopped (p.sectorOf j) then some .sectorStopped
  else if (p.openOf (.jack j)).isSome ∨ (p.entryOf j).isSome then some .busy
  else if (p.jack j).rod < 1 then some .rod
  else p.heldBy j 1

/-- One jack of the round list offered (R111): ISSUED, it leaves the list and round commands rises; a jack that fails
COMMIT, TABLE, GROUP or SPREAD waits; any other leaves the list. -/
def Part.offered (p : Part) (j : JackId) : Part :=
  let left : List JackId := p.mode.roundList.filter (· ≠ j)
  match p.deviceHeldBy j with
  | none =>
    { p.withLift j 1 .device with
      mode := { p.mode with roundList := left, roundCommands := p.mode.roundCommands + 1 } }
  | some .commit | some .table | some .group | some .spread => p
  | some _ => { p with mode := { p.mode with roundList := left } }

/-- What the end of an event on p makes of a lease that is PENDING in the part t that the event has left (R116, R148). It
is granted, and the asker answered LEASE-GRANTED, when no round is in progress and no round command is open, and that has
come to pass within the event, at an end of the round or a close of a DEVICE command. The REPLY so stands behind the
answers of all the commands that the event closes; that it stands behind every other frame of the event too is the
model's choice (log 39). -/
def Part.leaseGranted (p t : Part) : Part :=
  match t.mode.lease with
  | .pending asking =>
    if (p.mode.roundInProgress = true ∨ p.mode.roundCommands ≠ 0)
        ∧ t.mode.roundInProgress = false ∧ t.mode.roundCommands = 0 then
      ({ t with mode := { t.mode with lease := .held asking t.clock } } : Part).emit .reply 0 asking [20, 5]
    else t
  | _ => t

/-- The round ends when its list is empty and no round command is open (R114). -/
def Part.roundTested (p : Part) : Part :=
  if p.mode.roundInProgress = true ∧ p.mode.roundList = [] ∧ p.mode.roundCommands = 0 then
    { p with mode := { p.mode with roundInProgress := false } }
  else p

/-- A pass over the round list, in list order, and the end test: a list with nothing open and no commit pending is
dropped, and the round may end (R111, R114). -/
def Part.roundPassed (p : Part) : Part :=
  let q := p.mode.roundList.foldl Part.offered p
  (if q.xt.table = [] ∧ q.commitPending = false then { q with mode := { q.mode with roundList := [] } }
    else q).roundTested

/-- A further pass, while jacks wait (R112). -/
def Part.roundRetried (p : Part) : Part := if p.mode.roundList = [] then p else p.roundPassed

/-- A creep round started: every climbing jack of an OPEN sector is in the list, in order of index, and the first pass
is made (R110). -/
def Part.roundStarted (p : Part) : Part :=
  ({ p with mode := { p.mode with
      roundInProgress := true
      roundList := (List.finRange 96).filter fun j =>
        ((p.jack j).state == .active || (p.jack j).state == .catchup) && !p.sectorStopped (p.sectorOf j) } } : Part).roundPassed

/-! ### Closes, as their rules give them -/

/-- What a close leaves to MODE (R72 step 5): a DEVICE close lowers round commands; the waiting jacks are offered
again; then, at a DEVICE close, the round may end (R112, R114, R115). The lease is tested at the end of the event
(leaseGranted, R148). -/
def Part.closeTold (p : Part) (origin : Origin) : Part :=
  match origin with
  | .deck _ => p.roundRetried
  | .device =>
    ({ p with mode := { p.mode with roundCommands := p.mode.roundCommands - 1 } } : Part).roundRetried.roundTested

/-- The record of a command gone (R72 step 1). -/
def Part.without (p : Part) (c : Command) : Part :=
  { p with xt := ⟨p.xt.table.filter (·.subject ≠ c.subject), p.xt.nodes⟩ }

/-- ENDED to the deck for a DECK command, nothing for a DEVICE command (R71). -/
def Part.endedTold (p : Part) (c : Command) (why : Reason) : Part :=
  match c.origin with
  | .deck g => p.emit .ended 0 g ([octet (p.addrOf c.subject).val, g.setWidth 8] ++ octets2 c.done ++ [why.code])
  | .device => p

/-- What a close leaves once its answer is out and its subject has moved (R72 steps 4 and 5): a LIFT's place in the pump
group free (R51), the deferred queue re-examined (R54), MODE told. -/
def Part.closeDone (p : Part) (c : Command) : Part :=
  (match c.task with
    | .lift j => { p with adm := ⟨p.adm.queue, p.adm.occupancy.set (p.groupOf j) (p.occupancy (p.groupOf j) - 1)⟩ }
    | .pour _ _ => p : Part).retried.closeTold c.origin

/-- A command closed as ended with a reason (R71, R72), a POURING feed node READY and its FEED pair ceased (R91). -/
def Part.closedEnded (p : Part) (c : Command) (why : Reason) : Part :=
  let told : Part := (p.without c).endedTold c why
  let returned : Part :=
    match c.task with
    | .lift _ => told
    | .pour f _ =>
      if (p.feed f).state = .pouring then
        ({ told with feeds := p.feeds.set f ⟨.ready, (p.feed f).lastSector⟩ } : Part).cease (.feed f)
      else told
  returned.closeDone c

/-- The next sub-transaction of a LIFT sent, under the node's next tag, of at most the node depth (R67, R69). -/
def Part.nextSent (p : Part) (j : JackId) (c : Command) : Part :=
  let a := (p.jackEntry j).node
  let own := (p.nodeTags a).counter + 1
  let size := min (c.asked - c.done) (p.jack j).depth
  { p with
    xt := ⟨p.xt.table.map fun e => if e.subject = .jack j then
        { c with tag := own, size := size, phase := .sent, sent := p.clock, retries := 0 } else e,
      p.xt.nodes.set a { p.nodeTags a with counter := own }⟩
    ringQueue := p.ringQueue ++ [⟨⟨octet a.val, 0, .lift, own, 0, [octet size]⟩, false⟩] }

/-- A command of the subject that is in RESEND and has an ending reason closes with it (R79). -/
def Part.resendClosed (p : Part) (x : Subject) : Part :=
  match p.openOf x with
  | some c =>
    match c.phase, c.ending with
    | .resend, some e => p.closedEnded c e.reason
    | _, _ => p
  | none => p

/-! ### The configuration, as its rules give it -/

/-- The least and greatest value of each profile field, in the order of their numbers (R153). -/
def profileLimits : List (Nat × Nat) :=
  [(10, 40), (900, 1500), (100, 600), (1, 8), (2, 12), (2, 30), (0, 7), (10, 600), (60, 900), (0, 1), (0, 30), (2, 120)]
    ++ [(1, 3), (10, 900), (0, 300), (0, 120), (1, 8), (1, 4), (100, 700), (1, 4), (0, 400), (10, 600), (5, 120)]
    ++ [(0, 60), (0, 60), (0, 60), (0, 3), (0, 3), (0, 3), (0, 3), (0, 3), (0, 3), (0, 3), (0, 3), (0, 3)]

/-- The tables, indices, fields and values that TABLE-WRITE takes (R153, R154, R156). -/
def Writable (table index field v : Nat) : Prop :=
  match table with
  | 0 => index = 0 ∧ (∃ r, profileLimits[field]? = some r ∧ r.1 ≤ v ∧ v ≤ r.2) ∧ ¬(field = 12 ∧ v = 2)
  | 1 => index ≤ 95 ∧ ((field = 0 ∧ v ≤ 1) ∨ (field = 1 ∧ 1 ≤ v ∧ v ≤ 126) ∨ (field = 2 ∧ v ≤ 23) ∨ (field = 3 ∧ v ≤ 7))
  | 2 => index ≤ 23 ∧ ((field = 0 ∧ 500 ≤ v ∧ v ≤ 20000) ∨ (field = 1 ∧ 150 ≤ v ∧ v ≤ 600))
  | 3 => index ≤ 7 ∧ ((field = 0 ∧ 600 ≤ v ∧ v ≤ 28800) ∨ (field = 1 ∧ 1800 ≤ v ∧ v ≤ 86400))
  | 4 => index ≤ 7 ∧ field = 0 ∧ v ≤ 16
  | 5 => index ≤ 7 ∧ ((field = 0 ∧ v ≤ 1) ∨ (field = 1 ∧ 1 ≤ v ∧ v ≤ 126) ∨ (2 ≤ field ∧ field ≤ 25 ∧ v ≤ 1))
  | _ => False

/-- A sector's length and thickness are in range (R159 checks 4 and 9). -/
def Bank.Configured (b : Bank) (k : SectorId) : Prop :=
  500 ≤ b.sectors[k].length ∧ b.sectors[k].length ≤ 20000 ∧ 150 ≤ b.sectors[k].thickness ∧ b.sectors[k].thickness ≤ 600

/-- The address that an enabled entry holds, jacks first, then feed nodes (R159 check 3). -/
def Bank.addressAt (b : Bank) (x : Fin 104) : Option Addr :=
  if h : x.val < 96 then (if b.jacks[x.val].enabled then some b.jacks[x.val].node else none)
  else (if b.feeds[x.val - 96].enabled then some b.feeds[x.val - 96].node else none)

/-- The entry holds an address that an enabled entry before it holds (R159 check 3). -/
def Bank.Repeats (b : Bank) (x : Fin 104) : Prop :=
  ∃ a, b.addressAt x = some a ∧ ∃ y, y < x ∧ b.addressAt y = some a

/-- A jack in SPLICE whose shadow entry is disabled or names another sector (R159 check 8). -/
def Part.SpliceMoved (p : Part) (j : JackId) : Prop :=
  (p.jack j).state = .splice
    ∧ ¬(p.cfg.shadow.jacks[j].enabled = true ∧ p.cfg.shadow.jacks[j].sector = p.cfg.active.jacks[j].sector)

/-- An enabled feed node without an allowed sector, or with one that is not configured (R159 check 9). -/
def Bank.FeedAstray (b : Bank) (f : FeedId) : Prop :=
  b.feeds[f].enabled = true
    ∧ ((∀ k : SectorId, b.feeds[f].allowed[k] = false) ∨ ∃ k : SectorId, b.feeds[f].allowed[k] = true ∧ ¬ b.Configured k)

/-- The nine consistency checks (R159): check n of the shadow fails, and names this table and index. -/
def Part.CheckFails (p : Part) (n : Nat) (table index : Nat) : Prop :=
  let b := p.cfg.shadow
  let mode (field : Fin 35) : CondMode := .ofCode b.profile[field]
  match n with
  | 1 => (table, index) = (0, 0) ∧ b.profile[4] ≤ b.profile[3]
  | 2 => ∃ m : MixId, (table, index) = (3, m.val) ∧ b.mixes[m].maxExit ≤ b.mixes[m].minExit
      ∧ ∀ i : MixId, i < m → b.mixes[i].minExit < b.mixes[i].maxExit
  | 3 => ∃ x : Fin 104, (table, index) = (if x.val < 96 then (1, x.val) else (5, x.val - 96)) ∧ b.Repeats x
      ∧ ∀ y, y < x → ¬ b.Repeats y
  | 4 => ∃ j : JackId, (table, index) = (1, j.val)
      ∧ (b.jacks[j].enabled = true ∧ ¬ b.Configured b.jacks[j].sector)
      ∧ ∀ i : JackId, i < j → b.jacks[i].enabled = true → b.Configured b.jacks[i].sector
  | 5 => (table, index) = (0, 0) ∧ b.profile[11] ≤ b.profile[10]
  | 6 => (table, index) = (0, 0) ∧ b.profile[16] < p.spliceCount
  | 7 => (table, index) = (0, 0) ∧ (mode 26 = .sector ∨ mode 29 = .ignore ∨ mode 30 = .ignore ∨ mode 31 = .ignore
      ∨ mode 32 = .ring ∨ mode 33 = .sector ∨ mode 34 = .ignore ∨ mode 34 = .sector)
  | 8 => ∃ j : JackId, (table, index) = (1, j.val) ∧ p.SpliceMoved j ∧ ∀ i, i < j → ¬ p.SpliceMoved i
  | 9 => ∃ f : FeedId, (table, index) = (5, f.val) ∧ b.FeedAstray f ∧ ∀ i, i < f → ¬ b.FeedAstray i
  | _ => False

/-- A pair that stays PRESENT at a commit: asserted anew where the commit gave its condition another mode than its
applied mode, unless IGNORE; else it keeps its applied mode (R130). -/
def reapplied (now was : CondMode) : CondMode := if now = .ignore then was else now

/-- A commit has been applied to a part with no open command (R161): the shadow's values are in force, and the REPLY
COMMITTED was the first frame. -/
def Part.CommitApplied (p t : Part) (tag : Tag) : Prop :=
  let old := p.cfg.active
  let new := p.cfg.shadow
  let q : Part := { p with cfg := ⟨new, new, .idle, new.tableSum⟩ }
  let leaves (j : JackId) : Bool := old.jacks[j].enabled && !new.jacks[j].enabled
  let low : Nat := ((((List.finRange 96).filter fun i => (p.jack i).state == .active && !leaves i).map fun i =>
    (p.jack i).position).min?).getD 0
  let entered (j : JackId) : Jack :=
    if leaves j then { p.jack j with state := .absent }
    else if old.jacks[j].enabled = false ∧ new.jacks[j].enabled = true then ⟨.active, low, 0, 1, 0, true⟩
    else if new.jacks[j].enabled = true ∧ old.jacks[j].node ≠ new.jacks[j].node then { p.jack j with depth := 1 }
    else p.jack j
  let dropped (f : FeedId) : Prop :=
    old.feeds[f].enabled = true ∧ (new.feeds[f].enabled = false ∨ old.feeds[f].node ≠ new.feeds[f].node)
  let removal (e : Entry) : Option Byte :=
    if (entered e.jack).state ≠ .active ∧ (entered e.jack).state ≠ .catchup then some 5
    else if new.jacks[e.jack].node.val ≠ e.node.toNat then some 2
    else if p.sectorStopped new.jacks[e.jack].sector then some 6
    else none
  t.cfg = q.cfg ∧ p.Answers t ⟨0, 0, .reply, tag, p.summary, [8, 3]⟩
    ∧ q.SameBase t
    ∧ CaughtUp new.spreadAdmit entered t
    ∧ (∀ f, (dropped f → t.feed f = ⟨.ready, none⟩ ∧ (t.pair (.feed f)).state = .notPresent)
      ∧ (¬ dropped f → t.feed f = p.feed f))
    ∧ p.LayersRetired t
    ∧ (∀ e ∈ p.adm.queue, ∀ why, removal e = some why → e ∉ t.adm.queue ∧ t.TellsRefused e why)
    ∧ (∀ e ∈ t.adm.queue, e.reason ≠ .commit ∧ ∃ d ∈ p.adm.queue, removal d = none ∧ e = { d with reason := e.reason })
    ∧ (∀ c ∈ t.xt.table, (∃ j, c.task = .lift j ∧ c.origin = .device ∧ c.asked = 1)
      ∨ ∃ e ∈ p.adm.queue, removal e = none ∧ c.task = .lift e.jack ∧ c.origin = .deck e.tag ∧ c.asked = e.strokes)
    ∧ (∀ x, ((p.pair x).stopsSector = true → (t.pair x).stopsSector = true)
      ∧ ((p.pair x).stopsRing = true → (t.pair x).stopsRing = true))
    ∧ ((t.pair .compound).state ≠ .notPresent ↔ new.sectorStopLimit < t.stoppedSectors)
    ∧ (∀ x, ((∃ k, x = .pressure k ∨ x = .silent k ∨ x = .trouble k ∨ x = .rod k) →
        ((∀ j, ¬ t.Meets j x) → (t.pair x).state.isPresent = false)
        ∧ ((∃ j, t.Meets j x ∧ ¬ p.Meets j x) → (t.pair x).state = .present (new.condMode x))
        ∧ ∀ m, (∃ j, t.Meets j x) → (∀ j, t.Meets j x → p.Meets j x) → (p.pair x).state = .present m →
          (t.pair x).state = .present (reapplied (new.condMode x) m)))
    ∧ (∀ m, (p.pair .deck).state = .present m → (t.pair .deck).state = .present (reapplied (new.condMode .deck) m))
    ∧ (∀ f m, ¬ dropped f → (p.pair (.feed f)).state = .present m →
      (t.pair (.feed f)).state = .present (reapplied (new.condMode (.feed f)) m))
    ∧ (∀ k, ((t.pair (.bond k)).state = .notPresent ∨ t.bondInput k = true)
      ∧ (t.bondInput k = true → ∀ m, (p.pair (.bond k)).state = .present m →
        (t.pair (.bond k)).state = .present (reapplied (new.condMode (.bond k)) m)))
    ∧ ((t.mode.mode = p.mode.mode ∧ t.mode.creepTimer = p.mode.creepTimer ∧ t.sup = p.sup ∧ t.stopOut = p.stopOut
        ∧ (∀ x, (x = .spread ∧ t.spreadInput = false) ∨ (∃ k, x = .starve k ∧ t.starveInput k = false) →
          (t.pair x).state = .notPresent)
        ∧ (∀ x m, (x = .spread ∧ t.spreadInput = true) ∨ (∃ k, x = .starve k ∧ t.starveInput k = true) →
          (p.pair x).state = .present m → (t.pair x).state = .present (reapplied (new.condMode x) m)))
      ∨ (p.mode.mode.isStopped = false ∧ t.mode.mode = .stopped p.mode.mode.left ∧ t.stopOut = true
        ∧ t.sup.active = false ∧ t.adm.queue = []))
    ∧ (q.Soft → t.mode.mode = p.mode.mode)

/-! ### The laws -/

/-- While the RESET line is held, the part stands as the reset event left it, but for the level of STOP IN (R182). -/
def Part.HeldLaw (p : Part) : Prop :=
  p.resetLine = true → ∃ cause, p = { State.reset.part with
    resetCause := cause
    ringQueue := []
    stopIn := p.stopIn
    resetLine := true
    stopOut := true
    order := p.order }

/-- STOP OUT is asserted exactly when the mode is STOPPED or the part is held in reset (R106). -/
def Part.StopOutLaw (p : Part) : Prop := p.stopOut = (p.mode.mode.isStopped || p.resetLine)

/-- ALERT is set exactly when the mode is STOPPED or a sector is STOPPED (R135). -/
def Part.AlertLaw (p : Part) : Prop := p.mon.alert = p.alertDue

/-- Bits 14 and 15 of the event set are 0 (R178). -/
def Part.EventLaw (p : Part) : Prop := p.mon.events.getLsbD 14 = false ∧ p.mon.events.getLsbD 15 = false

/-- Layers from a height upwards, each base the top of the one below, each of 1..65 535 mm (R24). -/
def stacked : Nat → List Layer → Prop
  | _, [] => True
  | base, l :: rest => l.base = base ∧ 1 ≤ l.depth ∧ l.depth ≤ Config.maxDepth ∧ stacked l.top rest

/-- The law of the layer table for one sector (R24). -/
def Sector.Lawful (x : Sector) : Prop := x.layers.length ≤ Config.maxLayers ∧ stacked x.floor x.layers

/-- The law of the layer table (R24). -/
def Part.LayerLaw (p : Part) : Prop := ∀ k, (p.sector k).Lawful

/-- A jack record's ranges (R1). -/
def Jack.InRange (x : Jack) : Prop :=
  x.position ≤ Config.maxPosition ∧ x.rod ≤ 2000 ∧ 1 ≤ x.depth ∧ x.depth ≤ 4 ∧ x.strikes ≤ 4

def Part.JackLaw (p : Part) : Prop := ∀ j, (p.jack j).InRange

/-- The stored sum is the table sum of the active bank (R152). -/
def Part.SumLaw (p : Part) : Prop := p.cfg.storedSum = p.cfg.active.tableSum

/-- At most 32 records, no two of one condition and subject (R131). -/
def LogLawful (l : List LogRecord) : Prop := l.length ≤ Config.maxLog ∧ (l.map (·.pair)).Nodup

def Part.LogLaw (p : Part) : Prop := LogLawful p.mon.log

/-- At most 256 frames wait for the deck (R175), and at most 16 passed through wait for the ring (R171). -/
def Part.PortLaw (p : Part) : Prop :=
  p.sendQueue.length ≤ Config.maxSend ∧ p.passedWaiting ≤ Config.maxPassed

/-- The deferred queue: at most 32 entries, no two for one jack, empty outside SLIP (R53). -/
def Part.DeferredLaw (p : Part) : Prop :=
  p.adm.queue.length ≤ Config.maxDeferred ∧ (p.adm.queue.map (·.jack)).Nodup
    ∧ (p.mode.mode ≠ .slip → p.adm.queue = [])

/-- The jack a command lifts. -/
def Command.liftJack (c : Command) : Option JackId :=
  match c.task with
  | .lift j => some j
  | .pour _ _ => none

/-- The jacks with an open LIFT. -/
def Part.lifted (p : Part) : List JackId := p.xt.table.filterMap Command.liftJack

/-- At most 64 open commands, and no jack with two LIFTs, open or deferred (R43, R65). -/
def Part.OpenLaw (p : Part) : Prop :=
  p.openCount ≤ Config.maxOpen ∧ (p.adm.queue.map (·.jack) ++ p.lifted).Nodup

/-- The open LIFTs whose jack belongs to a pump group (R51). -/
def Part.groupLifts (p : Part) (g : GroupId) : Nat := p.lifted.countP (p.groupOf · == g)

/-- A pump group's occupancy is the number of its open LIFTs, and never above its capacity (R51). -/
def Part.GroupLaw (p : Part) : Prop :=
  ∀ g, p.occupancy g = p.groupLifts g ∧ p.occupancy g ≤ p.bank.groups[g]

/-- The open commands for a feed node. -/
def Part.pours (p : Part) (f : FeedId) : List Command := p.xt.table.filter (·.subject == .feed f)

/-- A feed node has at most one POUR open; POURING, it has one, and with one open it is POURING or FAULTED (R65, R85). -/
def Part.FeedLaw (p : Part) : Prop :=
  ∀ f, (p.pours f).length ≤ 1 ∧ ((p.feed f).state = .pouring → p.pours f ≠ [])
    ∧ (p.pours f ≠ [] → (p.feed f).state ≠ .ready)

/-- Round commands is the number of open LIFTs of origin DEVICE; a POUR is the deck's (R65, R97). -/
def Part.RoundLaw (p : Part) : Prop :=
  p.mode.roundCommands = p.xt.table.countP (·.origin == .device)
    ∧ ∀ c ∈ p.xt.table, c.origin = .device → ∃ j, c.task = .lift j

/-- In SLIP there is no lease (R100, R102, R147), and a lease is PENDING only while a round is in progress or a round
command is open (R116, R147, R148). -/
def Part.LeaseLaw (p : Part) : Prop :=
  (p.mode.mode = .slip → p.mode.lease = .none)
    ∧ ∀ asking, p.mode.lease = .pending asking → p.mode.roundInProgress = true ∨ p.mode.roundCommands ≠ 0

/-- At most one jack of a sector is in SPLICE, and in all no more than the ring splice limit; a jack in SPLICE or ABSENT
has neither an open nor a deferred LIFT (R15). -/
def Part.SpliceLaw (p : Part) : Prop :=
  (∀ i j, (p.jack i).state = .splice → (p.jack j).state = .splice → p.sectorOf i = p.sectorOf j → i = j)
    ∧ p.spliceCount ≤ p.bank.spliceLimit
    ∧ ∀ j, ((p.jack j).state = .splice ∨ (p.jack j).state = .absent) → p.openOf (.jack j) = none ∧ p.entryOf j = none

/-- A pending commit waits for an open command (R159, R160). -/
def Part.CommitLaw (p : Part) : Prop := p.commitPending = true → p.xt.table ≠ []

/-! ### The end of an event -/

/-- What the end of an event on p makes of the part t that the event's effect has left. A pending lease is granted, where
that has come to pass (R148, log 39). Then nothing, unless the last open command has closed with a commit pending. That
commit is cancelled, where check 6 or else check 8 fails now, or applied (R72 step 6, R160 to R162, log 6), and a lease
that this lets come to pass is granted. -/
def Part.Quiesced (p t u : Part) : Prop :=
  let v := p.leaseGranted t
  ((v.commitPending = false ∨ v.xt.table ≠ []) → u = v)
  ∧ ∀ g accepted, v.cfg.commit = .pending g accepted → v.xt.table = [] → p.DeferredLaw → p.OpenLaw → p.LayerLaw →
    (∀ n table index, (n = 6 ∨ (n = 8 ∧ ¬ v.CheckFails 6 0 0)) → v.CheckFails n table index →
      u = v.leaseGranted (({ v with
        cfg := { v.cfg with commit := .idle }
        mon := { v.mon with events := v.mon.events ||| 8192 } } : Part).emit .reply 0 g
          [8, 4, octet table, octet index]).retried.roundRetried)
    ∧ ((∀ table index, ¬ v.CheckFails 6 table index ∧ ¬ v.CheckFails 8 table index) →
      ∃ w : Part, v.CommitApplied w g ∧ u = v.leaseGranted w)

/-! ### What the rows that may close a command leave, before the end of their event -/

/-- What a LIFTED under the current tag of the open LIFT c of jack j leaves (R7, R10, R21, R69 to R72). The jack table
takes the count, and reports it: r. The command d it leaves has the count, the highest peak, and an ending reason: its
own; FAULTED after a PRESSURE fault; SECTOR-STOPPED or STOPPED where the report has stopped its sector or the ring. Then
it closes, complete, or SHORT, or with that reason, or its next sub-transaction goes out. -/
def Part.LiftedLeaves (p : Part) (j : JackId) (c : Command) (source done : Byte) (echo peak : BitVec 16)
    (t : Part) : Prop :=
  let n := min done.toNat c.size
  let all := c.done + n
  let x := p.jack j
  let climbs : Bool := x.state == .active || x.state == .catchup
  let high := decide (p.bank.pressureLimit < peak.toNat)
  let faults : Bool := climbs && high && decide (p.bank.pressureStrikes ≤ min (x.strikes + 1) 4)
  let y : Jack := if x.state = JackState.absent then x else ((x.climb p.bank n).strike p.bank peak.toNat)
  let most := max (c.peak.getD 0) peak.toNat
  ∃ (r : Part) (d : Command), p.JackChanged r j y
    ∧ r.openOf (.jack j) = some d
    ∧ d = { c with done := all, peak := some most, phase := .sent, ending := d.ending }
    ∧ (∀ e, c.ending = some e → d.ending = some e)
    ∧ (c.ending = none → faults = true → d.ending = some .faulted)
    ∧ (c.ending = none → faults = false →
      (d.ending = none ∨ d.ending = some .sectorStopped ∨ d.ending = some .stopped) ∧ (p.Soft → d.ending = none))
    ∧ (p.Soft → p.adm.queue = [] → j ∉ p.mode.roundList →
      ¬(p.mode.roundInProgress = true ∧ p.mode.roundList = [] ∧ p.mode.roundCommands = 0) →
      { r with jacks := p.jacks, sectors := p.sectors, mon := p.mon, xt := p.xt } = p
        ∧ r.xt = ⟨p.xt.table.map fun e => if e.subject = .jack j then d else e, p.xt.nodes⟩)
    ∧ t =
      if all = c.asked then
        (match c.origin with
          | .deck g => (r.without d).emit .lifted source g (octet all :: be16 echo ++ octets2 most)
          | .device => r.without d : Part).closeDone d
      else if n < c.size then r.closedEnded d ((d.ending.map Ending.reason).getD .short)
      else match d.ending with
        | some e => r.closedEnded d e.reason
        | none => r.nextSent j d

/-- The report of a placement stops nothing where BOND and STARVE have deglitch times and no more sectors are stopped than
the limit. Then the mode record, supervision, the feed nodes and STOP OUT stay; the deferred queue, the open commands,
the tags and both queues are as one re-examination pass leaves them, if a sector has taken the litres, and else as they
were (R33, R54); the tags of the node gone aside. -/
def Part.PassedOnPlacement (p t : Part) (sector : Byte) (litres : Nat) (gone : Option Addr) : Prop :=
  p.bank.deglitchBond ≠ 0 → p.bank.deglitchStarve ≠ 0 → p.stoppedSectors ≤ p.bank.sectorStopLimit → p.OpenLaw →
    let recorded : Prop := litres ≠ 0 ∧ ∃ k : SectorId, k.val = sector.toNat ∧ (p.sectorEntry k).configured = true
    let same (v : Part) : Prop := t.adm = v.adm ∧ t.xt.table = v.xt.table ∧ t.ringQueue = v.ringQueue
      ∧ t.sendQueue = v.sendQueue ∧ ∀ n, some n ≠ gone → t.nodeTags n = v.nodeTags n
    (t.mode = p.mode ∧ t.sup = p.sup ∧ t.feeds = p.feeds ∧ t.stopOut = p.stopOut)
    ∧ (¬ recorded → same p)
    ∧ (recorded → ∃ events : BitVec 16,
      same (Part.retried { p with sectors := t.sectors, mon := { p.mon with events := events } }))

/-- What a POURED under the current tag of the open POUR c of feed node f leaves (R73, R90, R92): the node, if it was
POURING, READY with FEED ceased, the litres placed and reported, r, the deck answered, and what a close leaves. -/
def Part.PouredLeaves (p : Part) (f : FeedId) (k : SectorId) (c : Command) (source sector : Byte) (litres : BitVec 16)
    (mix : Byte) (t : Part) : Prop :=
  let node : Feed := ⟨if (p.feed f).state = .pouring then .ready else (p.feed f).state, (p.feed f).lastSector⟩
  let q : Part := { p with
    feeds := p.feeds.set f node
    xt := ⟨p.xt.table.map fun d => if d.subject = c.subject then { c with done := min litres.toNat c.asked, phase := .sent }
      else d, p.xt.nodes⟩ }
  ∃ r : Part, p.Placed r f sector litres.toNat mix (c.asked < litres.toNat)
      (24 ≤ sector.toNat ∨ 8 ≤ mix.toNat ∨ k.val ≠ sector.toNat)
    ∧ r.feed f = node
    ∧ ((p.feed f).state = .pouring → (r.pair (.feed f)).state = .notPresent)
    ∧ q.PassedOnPlacement r sector litres.toNat none
    ∧ t = (match c.origin with
      | .deck g => (r.without c).emit .poured source g (sector :: be16 litres ++ [mix])
      | .device => r.without c : Part).closeDone c

/-- What the close of a command at a WAIT leaves: with its ending reason, or NODE-BUSY, raised as well (R76, R77, R79). -/
def Part.waitClosed (p : Part) (c : Command) : Part :=
  match c.ending with
  | some e => p.closedEnded c e.reason
  | none => ({ p with mon := { p.mon with events := p.mon.events ||| 32 } } : Part).closedEnded c .nodeBusy

/-- A feed node that was not FAULTED has been faulted in the part b (R91, R94): FAULTED, with FEED present. Where FEED was
NOT-PRESENT it asserts under its mode: WARN raises WARNED, RING stops the ring, the log takes the assertion or raises
LOG-FULL. Else nothing but the node and MON's records differs. -/
def Part.FeedFaulted (b r : Part) (f : FeedId) : Prop :=
  let q : Pair := .feed f
  let m := b.bank.condMode q
  let d : Part := { b with feeds := b.feeds.set f ⟨.faulted, (b.feed f).lastSector⟩ }
  let asserts : Prop := (b.pair q).state = .notPresent
  r.feed f = ⟨.faulted, (b.feed f).lastSector⟩ ∧ r.jacks = b.jacks ∧ r.sectors = b.sectors ∧ b.SameBase r
    ∧ (r.pair q).state = (if (b.pair q).state = .notPresent then .present m else (b.pair q).state)
    ∧ (¬(asserts ∧ m = .ring) → { r with mon := b.mon } = d ∧ ∀ x, x ≠ q → r.pair x = b.pair x)
    ∧ (asserts → m = .warn → r.hasEvent .warned = true)
    ∧ (asserts → m = .ring → (r.pair q).stopsRing = true ∧ r.mode.mode.isStopped = true
      ∧ (b.mode.mode.isStopped = false → b.DeferredLaw → d.RingStopped r))
    ∧ (asserts → m ≠ .ignore → b.LogRoom q → b.LogHolds r q m none true)
    ∧ (asserts → m ≠ .ignore → ¬ b.LogRoom q → r.hasEvent .logFull = true)

/-- What the close of a command at its time limit, or when its frame returns untaken, leaves (R22, R72, R75, R82, R91).
Its record is gone, its tag the node's last abandoned tag, a deck command answered ENDED TIMEOUT: b. Then the subject is
faulted, a jack that climbs SILENT and reported, and the close leaves what a close leaves. -/
def Part.SilentLeaves (p : Part) (node : Byte) (c : Command) (t : Part) : Prop :=
  let a := p.addrOf c.subject
  let b : Part := ({ p with xt := ⟨p.xt.table.filter (·.subject ≠ c.subject),
    p.xt.nodes.set a { p.nodeTags a with abandoned := some ⟨c.tag, c.subject⟩ }⟩ } : Part).endedTold c .timeout
  ∃ r : Part, (∀ g, c.origin = .deck g →
      p.Answers r ⟨0, 0, .ended, g, p.summary, [node, g.setWidth 8] ++ octets2 c.done ++ [20]⟩)
    ∧ (∀ d ∈ r.xt.table, d.subject ≠ c.subject)
    ∧ (match c.task with
      | .lift j =>
        b.JackChanged r j
          (if (p.jack j).state = .active ∨ (p.jack j).state = .catchup then { p.jack j with state := .faulted .silent }
          else p.jack j)
        ∧ (p.Soft → p.adm.queue = [] → j ∉ p.mode.roundList →
          ¬(p.mode.roundInProgress = true ∧ p.mode.roundList = [] ∧ p.mode.roundCommands = 0) → b.OnlyDeckMoved r)
      | .pour f _ => if (p.feed f).state = .faulted then r = b else b.FeedFaulted r f)
    ∧ t = r.closeDone c
    ∧ (∀ d ∈ t.xt.table, d.subject ≠ c.subject)
    ∧ ((∀ j, .jack j ≠ c.subject → (p.jack j).state = .active ∨ (p.jack j).state = .catchup →
        (p.jackEntry j).node ≠ a) →
      (t.nodeTags a).abandoned = some ⟨c.tag, c.subject⟩)

/-- What an ISOLATE of jack j in ACTIVE, CATCHUP or FAULTED leaves (R14, R19, R79). The ending reason and the STILL are
given, then the jack's report is made, r, and then a LIFT in RESEND closes: the model's order (log 10). -/
def Part.IsolateLeaves (p : Part) (tag : Tag) (node : Byte) (j : JackId) (t : Part) : Prop :=
  let given : Part := { p with
    xt := ⟨p.xt.table.map fun c =>
      if c.subject = .jack j then { c with ending := some (c.ending.getD .isolated) } else c, p.xt.nodes⟩
    ringQueue := match p.openOf (.jack j) with
      | some c => p.ringQueue ++ [⟨⟨node, 0, .still, c.tag, 0, []⟩, false⟩]
      | none => p.ringQueue }
  ∃ r : Part, p.JackChanged r j { p.jack j with state := .isolated }
    ∧ (p.Calm → (given.ack tag 13).OnlyDeckMoved r)
    ∧ t = r.resendClosed (.jack j)
    ∧ p.Answers t ⟨0, 0, .reply, tag, p.summary, [13, 0]⟩
    ∧ ∀ c, p.openOf (.jack j) = some c →
      let e := c.ending.getD .isolated
      (∃ l, t.ringQueue = p.ringQueue ++ ⟨⟨node, 0, .still, c.tag, 0, []⟩, false⟩ :: l)
      ∧ (c.phase = .sent → t.openOf (.jack j) = some { c with ending := some e })
      ∧ (c.phase = .resend → t.openOf (.jack j) = none
        ∧ ∀ g, c.origin = .deck g → ∃ summary, t.Tells
          ⟨0, 0, .ended, g, summary, [node, g.setWidth 8] ++ octets2 c.done ++ [e.reason.code]⟩)

/-- What a TROUBLE of jack j, which climbs, leaves (R23, R79, R172). The ending reason is given, then the fault's report
is made, r, and then a LIFT in RESEND closes: the model's order (log 10). A lease that this lets come to pass is granted
before the TROUBLE is forwarded (log 39). -/
def Part.TroubleLeaves (p : Part) (source : Byte) (tag : Tag) (code : Byte) (j : JackId) (t : Part) : Prop :=
  let given : Part := { p with xt := ⟨p.xt.table.map fun c =>
    if c.subject = .jack j then { c with ending := some (c.ending.getD .faulted) } else c, p.xt.nodes⟩ }
  ∃ r : Part, p.JackChanged r j { p.jack j with state := .faulted .trouble }
    ∧ (p.Calm → given.OnlyDeckMoved r)
    ∧ t = (p.leaseGranted (r.resendClosed (.jack j))).emit .trouble source tag [code]
    ∧ ∀ c, p.openOf (.jack j) = some c →
      let e := c.ending.getD .faulted
      (c.phase = .sent → t.openOf (.jack j) = some { c with ending := some e })
      ∧ (c.phase = .resend → t.openOf (.jack j) = none
        ∧ ∀ g, c.origin = .deck g → ∃ summary, t.Tells
          ⟨0, 0, .ended, g, summary, [source, g.setWidth 8] ++ octets2 c.done ++ [e.reason.code]⟩)

/-- What a STILL of the deck's for a node whose command c is in RESEND leaves: the command closed with its ending reason,
else STILLED, and behind that (log 10) the STILL on its way (R78, R79, R171). -/
def Part.stillClosed (p : Part) (dest : Byte) (tag : Tag) (c : Command) : Part :=
  let given : Part := { p with
    xt := ⟨p.xt.table.map fun d =>
      if d.subject = c.subject then { d with ending := some (d.ending.getD .stilled) } else d, p.xt.nodes⟩ }
  let q := given.closedEnded c (c.ending.getD .stilled).reason
  { q with ringQueue := q.ringQueue ++ [⟨⟨dest, 0, .still, tag, 0, []⟩, true⟩] }

/-- The rows that may close a command c of the part at once, each with what it takes for that: a node's reply, the time
limit, the frame's return untaken, and a STILL, an ISOLATE or a TROUBLE that reaches the command in RESEND (R70, R73 to
R79, R82). A LIFTED under the current tag may also be followed by the next sub-transaction (see Ends). -/
def Part.Closes (p : Part) (c : Command) : Instr → Prop
  | .lifted source tag _ _ _ => 1 ≤ source.toNat ∧ p.openAt source = some c ∧ c.kind = .lift ∧ c.tag = tag
  | .poured source tag _ _ _ => 1 ≤ source.toNat ∧ p.openAt source = some c ∧ c.kind = .pour ∧ c.tag = tag
  | .wait source tag => 1 ≤ source.toNat ∧ p.openAt source = some c ∧ c.tag = tag ∧ c.phase = .sent
    ∧ (c.ending.isSome = true ∨ p.bank.retryLimit ≤ c.retries)
  | .subTransactionTimeout node => p.openAt node = some c ∧ c.phase = .sent ∧ Share.transactions ∈ p.owed
    ∧ age p.clock c.sent = (match c.task with
      | .lift _ => p.bank.strokeTime * c.size
      | .pour _ _ => p.bank.feedTime)
  | .unclaimedLiftPour kind node tag => p.openAt node = some c ∧ c.kind = kind ∧ c.tag = tag
  | .still dest _ payload => c.phase = .resend ∧ payload = [] ∧ p.passedWaiting < 16 ∧ 1 ≤ dest.toNat
    ∧ (dest.toNat = 127 ∨ p.openAt dest = some c)
  | .isolate _ node => 1 ≤ node.toNat ∧ c.phase = .resend ∧ ∃ j, c.task = .lift j ∧ p.findJack node = some j
    ∧ (p.jack j).state ≠ .absent ∧ (p.jack j).state ≠ .splice ∧ (p.jack j).state ≠ .isolated
  | .trouble source _ _ => 1 ≤ source.toNat ∧ c.phase = .resend ∧ ∃ j, c.task = .lift j ∧ p.findJack source = some j
    ∧ ((p.jack j).state = .active ∨ (p.jack j).state = .catchup)
  | _ => False

/-- The part t is what such a row leaves, as the row's own statement says. -/
def Part.Leaves (p : Part) (c : Command) (t : Part) : Instr → Prop
  | .lifted source _ done echo peak => ∃ j, c.task = .lift j ∧ p.LiftedLeaves j c source done echo peak t
  | .poured source _ sector litres mix =>
    ∃ f k, c.task = .pour f k ∧ p.PouredLeaves f k c source sector litres mix t
  | .wait _ _ => t = p.waitClosed c
  | .subTransactionTimeout node | .unclaimedLiftPour _ node _ => p.SilentLeaves node c t
  | .still dest tag _ => t = p.stillClosed dest tag c
  | .isolate tag node => ∃ j, c.task = .lift j ∧ p.acceptAny.IsolateLeaves tag node j t
  | .trouble source tag code => ∃ j, c.task = .lift j ∧ p.TroubleLeaves source tag code j t
  | _ => False

/-- Such a row closes the command c, leaving t. A LIFTED does, when all strokes are done or its count is short, when c has
an ending reason, and when its own report faults the jack or stops the jack's sector or the ring (R21, R70, R78). -/
def Part.Ends (p : Part) (c : Command) (t : Part) : Instr → Prop
  | .lifted _ _ done _ peak => c.done + min done.toNat c.size = c.asked ∨ done.toNat < c.size ∨ c.ending.isSome = true
    ∨ (p.mode.mode.isStopped = false ∧ t.mode.mode.isStopped = true)
    ∨ ∃ j, c.task = .lift j ∧
      ((((p.jack j).state = .active ∨ (p.jack j).state = .catchup) ∧ p.bank.pressureLimit < peak.toNat
          ∧ p.bank.pressureStrikes ≤ min ((p.jack j).strikes + 1) 4)
        ∨ (p.sectorStopped (p.sectorOf j) = false ∧ t.sectorStopped (p.sectorOf j) = true))
  | _ => True

end Sys2Proof.Machine
end

