-- ==== Sys2Proof/Certificates/Slice0/Obligations.lean ====
section
/-! DEFINITION. The statements for the provers, each a proposition about the model. A request is decided on the part
as the acceptance of R140 leaves it, which is written acceptAny (see AnyRequestIsAHeartbeat); a statement with the
premise Ready speaks of a part that takes frames and owes nothing (logs 2 and 6). -/

section

open Sys2Proof Sys2Proof.Machine

/-! ### Steps -/

/-- A step takes the command at the front of the queue and runs it on the queue's rest. -/
def Obligations.StepTakesFrontCommand : Prop :=
  ∀ (c : Instr) (s : State), step { s with pending := c :: s.pending } = exec c s

/-- Every step ends in a next state, and only the part differs: no fault, no refusal (log 19). With an empty queue and
nothing due, a step leaves everything as it is (the model's choice: logs 1 and 2). -/
def Obligations.EveryStepCompletes : Prop :=
  (∀ (c : Instr) (s : State), ∃ p : Part, exec c s = .next { s with part := p })
  ∧ ∀ s : State, s.pending = [] → s.part.Settled → s.part.owed = [] → step s = .next s

/-- A command other than the rows for what falls due first takes what is still due, and then only blocks that take the
second late owe anything; the advance of the slip clock takes all of it, and then nothing is owed (the model's choice:
logs 2 and 3). -/
def Obligations.DueSharesComeFirst : Prop :=
  (∀ (c : Instr) (s : State), dueRow c = false → c ≠ .slipClockAdvance →
    exec c s = exec c { s with part := s.part.settle } ∧ ∀ x ∈ s.part.settle.owed, x ∈ s.part.order.late)
  ∧ ∀ s : State, exec .slipClockAdvance s = exec .slipClockAdvance { s with part := s.part.settleAll }
    ∧ s.part.settleAll.owed = []

/-! ### Reset -/

/-- The machine after reset, block by block (R2, R26, R42, R66, R86, R98, R118, R137, R152, R181); that a jack has
rod-low reported no is R2's, which the model takes where R9 differs (log 30). -/
def Obligations.ResetValues : Prop :=
  let p := State.reset.part
  (∀ j, p.jack j = ⟨.absent, 0, 0, 1, 0, false⟩)
    ∧ p.lowestActive = none ∧ p.highestActive = none ∧ p.spread = 0 ∧ p.spliceCount = 0
    ∧ (∀ k, p.sector k = ⟨0, []⟩ ∧ p.sectorBottom k = 0 ∧ p.formTop k = 1200)
    ∧ p.adm.queue = [] ∧ (∀ g, p.occupancy g = 0)
    ∧ p.xt.table = [] ∧ (∀ a, p.nodeTags a = ⟨0, none⟩)
    ∧ (∀ f, p.feed f = ⟨.ready, none⟩)
    ∧ p.mode = ⟨.setup, false, none, false, [], 0, false, .none⟩
    ∧ (∀ q, p.pair q = ⟨.notPresent, false, false⟩)
    ∧ p.mon.blanking = none ∧ p.mon.log = [] ∧ p.mon.alert = false
    ∧ (∀ e, p.hasEvent e = true ↔ e = .reset)
    ∧ p.sup.active = false ∧ p.sup.expected = 0 ∧ p.sup.violations = 0 ∧ p.sup.deckLost = false
    ∧ p.cfg.active = defaultBank ∧ p.cfg.shadow = defaultBank ∧ p.cfg.commit = .idle ∧ p.cfg.storedSum = 21533
    ∧ p.clock = 86400 ∧ p.resetCause = .power ∧ p.sendQueue = [] ∧ State.reset.pending = []

/-- Power-on with both input lines released brings every block to its reset value, and one STILL to broadcast 127
with tag 0 waits for the ring; with the RESET line held the part waits, STOP OUT asserted (R181, R182). -/
def Obligations.PowerOnResets : Prop :=
  ∀ s : State, s.part.Settled →
    (s.part.resetLine = false → s.part.stopIn = false →
      exec .powerOn s = .next { s with part := { State.reset.part with order := s.part.order } })
    ∧ (s.part.resetLine = true →
      exec .powerOn s = .next { s with part := { State.reset.part with
        ringQueue := [], stopIn := s.part.stopIn, resetLine := true, stopOut := true, order := s.part.order } })

/-- An assertion of the RESET line takes every block to its reset value with cause PIN, empties both queues and
asserts STOP OUT; the release sends the STILL and, with STOP IN released, releases STOP OUT. While the line is held no
frame is taken or sent, and the slip clock stands (R181, R182). -/
def Obligations.ResetLineResets : Prop :=
  (∀ s : State, s.part.Settled → s.part.resetLine = false →
    exec .resetLineAssert s = .next { s with part := { State.reset.part with
      resetCause := .pin, ringQueue := [], stopIn := s.part.stopIn, resetLine := true, stopOut := true,
      order := s.part.order } })
  ∧ (∀ s : State, s.part.Settled → s.part.resetLine = true → s.part.stopIn = false →
    exec .resetLineRelease s = .next { s with part := { s.part with
      resetLine := false, stopOut := false
      ringQueue := s.part.ringQueue ++ [⟨⟨127, 0, .still, 0, 0, []⟩, false⟩] } })
  ∧ ∀ (c : Instr) (s : State), portOrTimeRow c = true → s.part.Settled → s.part.owed = [] → s.part.resetLine = true →
    exec c s = .next s

/-- STOP IN asserted at the release of a reset brings the part up STOPPED out of SETUP, with STOP OUT and ALERT,
STOPIN alone in the ring stop cause set and in a fresh log, two STILLs for the ring, supervision inactive, all else at
its reset value: at power-on, when the RESET line is released, after the ACK of a RESET request has left, and at once
when that ACK is discarded (R181 to R183). -/
def Obligations.StopInAtReleaseStops : Prop :=
  let up (s : State) (cause : ResetCause) (r : Host.Outcome State Fault Refusal) : Prop :=
    ∃ p : Part, r = .next { s with part := p }
      ∧ p.mode = { State.reset.part.mode with mode := .stopped .setup } ∧ p.stopOut = true
      ∧ p.mon.alert = true ∧ p.mon.events = 1 ∧ p.mon.blanking = none
      ∧ (∀ q, p.pair q = if q = .stopin then ⟨.present .ring, false, true⟩ else ⟨.notPresent, false, false⟩)
      ∧ p.mon.log = [⟨.stopin, .ring, none, 86400, 86400, 1, true⟩]
      ∧ p.ringQueue = [⟨⟨127, 0, .still, 0, 0, []⟩, false⟩, ⟨⟨127, 0, .still, 0, 0, []⟩, false⟩]
      ∧ { p with mode := State.reset.part.mode, mon := State.reset.part.mon, ringQueue := State.reset.part.ringQueue
                 stopIn := false, stopOut := false }
        = { State.reset.part with resetCause := cause, order := s.part.order }
  (∀ s : State, s.part.Settled → s.part.resetLine = false → s.part.stopIn = true → up s .power (exec .powerOn s))
  ∧ (∀ s : State, s.part.Settled → s.part.HeldLaw → s.part.resetLine = true → s.part.stopIn = true →
    up s s.part.resetCause (exec .resetLineRelease s))
  ∧ (∀ s : State, s.part.resetLine = false → s.part.resetWait = some 0 → s.part.stopIn = true →
    up s .request (exec .resetAfterAck s))
  ∧ ∀ (s : State) (tag : Tag), s.part.Ready →
    let p := s.part.acceptAny
    p.mode.mode ≠ .slip → p.mode.mode.isHold = false → 256 ≤ p.sendQueue.length → p.stopIn = true →
    up s .request (exec (.reset tag) s)

/-- RESET is refused MODE in SLIP and HOLD. In SETUP and STOPPED its ACK joins the send queue and the part takes no
further frame until the ACK has left; with a full queue it resets at once. Until the ACK has left, a frame that comes
at either port, of whatever row, has no effect (R183). -/
def Obligations.ResetRequestDecided : Prop :=
  (∀ (s : State) (tag : Tag), s.part.Ready →
    let p := s.part.acceptAny
    ((p.mode.mode = .slip ∨ p.mode.mode.isHold = true) →
      exec (.reset tag) s = .next { s with part := p.deny tag 22 .mode })
    ∧ (p.mode.mode ≠ .slip → p.mode.mode.isHold = false →
      (p.sendQueue.length < 256 →
        exec (.reset tag) s = .next { s with part := { p with
          sendQueue := p.sendQueue ++ [⟨0, 0, .reply, tag, p.summary, [22, 0]⟩]
          resetWait := some (p.sendQueue.length + 1) } })
      ∧ (256 ≤ p.sendQueue.length → p.stopIn = false →
        exec (.reset tag) s = .next { s with part := { State.reset.part with
          resetCause := .request, order := p.order } })))
  ∧ ∀ (i : Instr) (s : State) (n : Nat), frameRow i = true → s.part.resetLine = false → s.part.owed = [] →
    s.part.CommitLaw → s.part.resetWait = some (n + 1) → exec i s = .next s

/-- While an accepted RESET waits, the frames ahead of its ACK leave one by one; once the ACK has left, the part is
reset with cause REQUEST. A row for a reset that is not due does nothing (R183, log 23). -/
def Obligations.ResetFollowsItsAck : Prop :=
  ∀ s : State, s.part.resetLine = false → s.part.CommitLaw →
    (∀ (n : Nat) (f : Frame) (rest : List Frame), s.part.owed = [] → s.part.resetWait = some (n + 1) →
      s.part.sendQueue = f :: rest →
      exec .deckSend s = .next { s with part := { s.part with sendQueue := rest, resetWait := some n } })
    ∧ (s.part.resetWait = some 0 → s.part.stopIn = false →
      exec .resetAfterAck s = .next { s with part := { State.reset.part with
        resetCause := .request, order := s.part.order } })
    ∧ (s.part.resetWait ≠ some 0 → exec .resetAfterAck s = .next s)

/-! ### Frames -/

/-- A frame's octets read back as that frame: no field of it is dropped (R164 to R166). -/
def Obligations.FrameOctetsRoundTrip : Prop :=
  ∀ f : Frame, f.payload.length ≤ 12 → takeOctets f.octets = .frame f

/-- A frame handed to the deck is stamped with climb mode, ALERT and NOTICE of that moment and joins the back of the
send queue; while 256 wait it is discarded and LINKERR raised. Nothing else changes (R169, R175). -/
def Obligations.FramesToDeckAreStamped : Prop :=
  ∀ (p : Part) (kind : Kind) (source : Byte) (tag : Tag) (payload : List Byte),
    (p.sendQueue.length < 256 →
      p.emit kind source tag payload
        = { p with sendQueue := p.sendQueue ++ [⟨0, source, kind, tag, p.summary, payload⟩] })
    ∧ (256 ≤ p.sendQueue.length →
      p.emit kind source tag payload = { p with mon := { p.mon with events := p.mon.events ||| 2 } })
    ∧ p.summary.toNat = p.mode.mode.code + (if p.mon.alert then 4 else 0) + (if p.mon.events = 0 then 0 else 8)

/-- Each port sends the oldest frame of its queue, and nothing else changes (R174, R175). -/
def Obligations.PortsSendOldestFirst : Prop :=
  ∀ s : State, s.part.Ready →
    exec .deckSend s = .next { s with part := { s.part with sendQueue := s.part.sendQueue.tail } }
      ∧ exec .ringOutSend s = .next { s with part := { s.part with ringQueue := s.part.ringQueue.tail } }

/-- A frame with a bad check, of no kind, or that ring-in drops raises LINKERR and does nothing else. A kind the deck
may not send is refused WRONG-KIND, with destination, kind code, tag and reason; a payload that is no request is
answered BAD-REQUEST under its code, or 0, and counts for no heartbeat; a CONTROL with an argument above 3 is refused
RANGE (R165, R166, R172, R170, R176, log 18). -/
def Obligations.UnreadableFramesRefused : Prop :=
  (∀ (s : State) (port : Port) (code source dest : Byte) (kind : Kind) (length : Nat), s.part.Ready →
    let t : State := { s with part := { s.part with mon := { s.part.mon with
      events := s.part.mon.events ||| 2 } } }
    exec (.frameBadCheck port) s = .next t ∧ exec (.unknownKindDropped port code) s = .next t
      ∧ exec (.ringFrameDropped source dest kind length) s = .next t)
  ∧ ∀ (s : State) (dest : Byte) (kind : Kind) (tag : Tag) (payload : List Byte), s.part.Ready →
    exec (.deckFrameWrongKind dest kind tag) s
        = .next { s with part := s.part.emit .refused 0 tag [dest, kind.code, tag.setWidth 8, 3] }
      ∧ ((∀ arg, payload ≠ [9, arg]) →
        exec (.mgmtBadRequest tag payload) s
          = .next { s with part := s.part.emit .reply 0 tag [payload.headD 0, 2, 38] })
      ∧ (∀ arg, payload = [9, arg] →
        exec (.mgmtBadRequest tag payload) s
          = .next { s with part := s.part.acceptAny.emit .reply 0 tag [9, 2, 1] })

/-! ### Reads -/

/-- STATUS answers DATA with the page's fields in their order; page 0 empties the event set and is stamped after that,
also where it is the first frame after a reset (log 38); a page outside 0..3 is refused RANGE. Bits 3 to 7 of the
flags octet of page 3, which the layout does not name, are sent 0: the model's choice (log 37). Nothing else changes
(R178, R136). -/
def Obligations.StatusPagesReadThePart : Prop :=
  ∀ (s : State) (tag : Tag) (page : Byte), s.part.Ready →
    let p := s.part.acceptAny
    exec (.status tag page) s = .next { s with part := (
      match page.toNat with
      | 0 => ({ p with mon := { p.mon with events := 0 } } : Part).data tag 2
          ([octet p.mode.mode.code, p.mode.mode.holdCauseOctet, octet p.mode.lease.code, octet p.cfg.commit.code]
            ++ octets2 p.mon.events.toNat ++ [octet p.resetCause.code])
      | 1 => p.data tag 2 ([octet p.activePositions.length] ++ octets2? p.lowestActive ++ octets2? p.highestActive
            ++ octets2 p.spread ++ [octet p.spliceCount, octet p.stoppedSectors])
      | 2 => p.data tag 2 ([octet p.adm.queue.length, octet p.xt.table.length] ++ octets2? p.mode.creepTimer
            ++ [octet p.mode.roundList.length])
      | 3 => p.data tag 2 (octets4 p.clock.toNat
            ++ [octet (p.sup.expected.toNat + (if p.sup.deckLost then 2 else 0) + (if p.sup.active then 4 else 0)),
              octet p.sup.violations]
            ++ (if p.sup.active then octets2 (min (age p.clock p.sup.lastAccepted) 65534) else [0xFF, 0xFF])
            ++ (if p.sup.active then octets2 (min (age p.clock p.sup.windowStart) 65534) else [0xFF, 0xFF]))
      | _ => p.deny tag 2 .range) }

/-- IDENT answers DATA with vendor code 1207, part code 60 and revision 2, and changes nothing else (R180). -/
def Obligations.IdentAnswersIdentity : Prop :=
  ∀ (s : State) (tag : Tag), s.part.Ready →
    exec (.ident tag) s = .next { s with part := s.part.acceptAny.data tag 23 [4, 183, 0, 60, 2] }

/-- Reads answer DATA and change nothing else. JACK-READ: the live record and active entry of the jack. SECTOR-READ:
floor, top, bottom, layer count and stop state. LAYER-READ, ten octets: the count and the n-th layer from the front,
ages held at 16 777 215, or bit 7 with the count and the layer marked absent by ones. FAULTS: the number of records
and the record at the index, or the record marked absent. A jack outside 0..95, a sector outside 0..23, an n outside
0..15 or an index outside 0..31 is refused RANGE. The bits that the layouts do not name are sent 0: the model's choice
(log 37) (R179, R38, R39, R133, R167). -/
def Obligations.ReadsReturnRecords : Prop :=
  (∀ (s : State) (tag : Tag) (jack : Byte), s.part.Ready →
    let p := s.part.acceptAny
    (∀ h : jack.toNat < 96, let j : JackId := ⟨jack.toNat, h⟩
      let x := p.jack j
      let e := p.jackEntry j
      exec (.jackRead tag jack) s = .next { s with part := (p.data tag 16
        ([octet (x.state.code + 16 * x.state.causeCode + (if x.rodLow then 128 else 0))]
          ++ octets2 x.position ++ octets2 x.rod
          ++ [octet (x.depth + 16 * x.strikes), octet (e.node.val + (if e.enabled then 128 else 0)),
            octet (e.sector.val + 32 * e.group.val),
            octet ((if (p.openOf (.jack j)).isSome then 1 else 0) + (if (p.entryOf j).isSome then 2 else 0)
              + (if p.mode.roundList.contains j then 4 else 0))])) })
    ∧ (96 ≤ jack.toNat → exec (.jackRead tag jack) s = .next { s with part := p.deny tag 16 .range }))
  ∧ (∀ (s : State) (tag : Tag) (sector n : Byte), s.part.Ready →
    let p := s.part.acceptAny
    (∀ h : sector.toNat < 24, let k : SectorId := ⟨sector.toNat, h⟩
      let x := p.sector k
      exec (.sectorRead tag sector) s = .next { s with part := (p.data tag 17
          (octets3 x.floor ++ octets3 x.top ++ octets3 (p.sectorBottom k)
            ++ [octet (x.layers.length + (if p.sectorStopped k then 128 else 0))])) }
        ∧ (n.toNat < 16 → ∀ l, x.layers[n.toNat]? = some l →
          exec (.layerRead tag sector n) s = .next { s with part := (p.data tag 18
            (octet x.layers.length :: (octets2 l.depth ++ [octet (l.mix.val + 16 * l.source.code)]
              ++ octets3 (min (age p.clock l.first) 16777215) ++ octets3 (min (age p.clock l.last) 16777215)))) })
        ∧ (n.toNat < 16 → x.layers[n.toNat]? = none →
          exec (.layerRead tag sector n) s = .next { s with part := (p.data tag 18
            (octet (x.layers.length + 128) :: List.replicate 9 0xFF)) }))
    ∧ (24 ≤ sector.toNat → exec (.sectorRead tag sector) s = .next { s with part := p.deny tag 17 .range })
    ∧ ((24 ≤ sector.toNat ∨ 16 ≤ n.toNat) →
        exec (.layerRead tag sector n) s = .next { s with part := p.deny tag 18 .range }))
  ∧ ∀ (s : State) (tag : Tag) (index : Byte), s.part.Ready →
    let p := s.part.acceptAny
    let log := p.mon.log
    (∀ r, index.toNat < 32 → log[index.toNat]? = some r →
      exec (.faults tag index) s = .next { s with part := (p.data tag 3
        (octet log.length ::
          ([octet (conditionCode r.pair + 16 * r.applied.code + (if r.present then 128 else 0)), subjectOctet r.pair,
            (match r.detail with | some j => octet j.val | none => 0xFF), octet r.repeats]
          ++ octets3 (min (age p.clock r.first) 16777215) ++ octets2 (min (age p.clock r.last) 65535)))) })
    ∧ (index.toNat < 32 → log[index.toNat]? = none →
      exec (.faults tag index) s
        = .next { s with part := p.data tag 3 (octet log.length :: List.replicate 9 0xFF) })
    ∧ (32 ≤ index.toNat → exec (.faults tag index) s = .next { s with part := p.deny tag 3 .range })

/-! ### The configuration store -/

/-- TABLE-WRITE writes one field of the shadow bank and answers ACK; a table, index, field or value outside the ranges
of R153 and R154 is refused RANGE, and a write while a commit is pending BUSY. A field written reads back, and the
other fields keep their values. TABLE-READ answers DATA with the value of a field of the bank named, in 3 octets, or a
sum in 2: the stored sum for ACTIVE, the table sum for SHADOW; the table sum adds every field of every entry modulo 65
536, a set of allowed sectors adding the count of its members and their numbers (log 34). Anything else is refused
RANGE. Nothing else changes (R153 to R157). -/
def Obligations.TableFieldsWrittenAndRead : Prop :=
  (∀ (s : State) (tag : Tag) (table index field : Byte) (value : BitVec 24), s.part.Ready →
    let p := s.part.acceptAny
    (p.cfg.shadow.write table.toNat index.toNat field.toNat value.toNat = none →
      exec (.tableWrite tag table index field value) s = .next { s with part := p.deny tag 5 .range })
    ∧ ∀ b, p.cfg.shadow.write table.toNat index.toNat field.toNat value.toNat = some b →
      (p.commitPending = true →
        exec (.tableWrite tag table index field value) s = .next { s with part := p.deny tag 5 .busy })
      ∧ (p.commitPending = false →
        exec (.tableWrite tag table index field value) s
          = .next { s with part := ({ p with cfg := { p.cfg with shadow := b } } : Part).ack tag 5 }))
  ∧ (∀ (b : Bank) (table index field v : Nat),
      (b.write table index field v).isSome = true ↔ Writable table index field v)
  ∧ (∀ (b c : Bank) (table index field v : Nat), b.write table index field v = some c →
      c.read table index field = some v
        ∧ (∀ i f, (i, f) ≠ (index, field) → c.read table i f = b.read table i f)
        ∧ ∀ t i f, t ≠ table → c.read t i f = b.read t i f)
  ∧ (∀ b : Bank, b.tableSum.toNat = (((List.finRange 35).map fun n => b.profile[n]).sum
      + ((List.finRange 96).map fun j => (if b.jacks[j].enabled then 1 else 0) + b.jacks[j].node.val
        + b.jacks[j].sector.val + b.jacks[j].group.val).sum
      + ((List.finRange 24).map fun k => b.sectors[k].length + b.sectors[k].thickness).sum
      + ((List.finRange 8).map fun m => b.mixes[m].minExit + b.mixes[m].maxExit).sum
      + ((List.finRange 8).map fun g => b.groups[g]).sum
      + ((List.finRange 8).map fun f => (if b.feeds[f].enabled then 1 else 0) + b.feeds[f].node.val
        + ((List.finRange 24).map fun k => if b.feeds[f].allowed[k] then 1 + k.val else 0).sum).sum) % 65536)
  ∧ ∀ (s : State) (tag : Tag) (table index field : Byte), s.part.Ready →
    let p := s.part.acceptAny
    let answer (r : Option (List Byte)) : Host.Outcome State Fault Refusal :=
      .next { s with part := match r with | some d => p.data tag 6 d | none => p.deny tag 6 .range }
    (table.toNat ≠ 6 →
      exec (.tableRead tag 0 table index field) s
          = answer ((p.cfg.active.read table.toNat index.toNat field.toNat).map octets3)
        ∧ exec (.tableRead tag 1 table index field) s
          = answer ((p.cfg.shadow.read table.toNat index.toNat field.toNat).map octets3))
    ∧ exec (.tableRead tag 0 6 0 0) s = answer (some (octets2 p.cfg.storedSum.toNat))
    ∧ exec (.tableRead tag 1 6 0 0) s = answer (some (octets2 p.cfg.shadow.tableSum.toNat))
    ∧ (∀ bank, (index.toNat ≠ 0 ∨ field.toNat ≠ 0) → exec (.tableRead tag bank 6 index field) s = answer none)
    ∧ ∀ bank : Byte, 2 ≤ bank.toNat → exec (.tableRead tag bank table index field) s = answer none

/-- SHADOW-LOAD copies every field of the active bank into the shadow bank, whose sum is then the stored sum, and
answers ACK; while a commit is pending it is refused BUSY and the shadow is unchanged (R158). -/
def Obligations.ShadowLoadCopiesActive : Prop :=
  ∀ (s : State) (tag : Tag), s.part.Ready →
    let p := s.part.acceptAny
    (p.commitPending = true → exec (.shadowLoad tag) s = .next { s with part := p.deny tag 7 .busy })
    ∧ (p.commitPending = false →
      exec (.shadowLoad tag) s
        = .next { s with part := ({ p with cfg := { p.cfg with shadow := p.cfg.active } } : Part).ack tag 7 })
    ∧ (p.commitPending = false → s.part.SumLaw → ∀ t : State, exec (.shadowLoad tag) s = .next t →
      t.part.cfg.shadow.tableSum = t.part.cfg.storedSum)

/-- COMMIT is refused BUSY while one is pending, CHECK when the sum differs, INCONSISTENT with the table and index of
the first of R159's nine checks that fails. Otherwise, while commands are open, it becomes pending and is answered
ACK; with none open it is applied at once. Applied, the shadow's values are in force, the REPLY COMMITTED is the first
frame; jacks enter, leave and are caught up (R12, R13), dropped feed nodes are READY (R96), deferred entries whose
jack left, whose address changed or whose sector is STOPPED are answered JACK-STATE, NO-NODE or SECTOR-STOPPED and the
others examined (R60), and MON's pairs follow the new bank, those whose mode changed asserted anew (R130). A pending
commit is decided when the last open command closes, whichever row closes it: a LIFTED that completes it, is short,
finds an ending reason or brings one by its own report (R21, R78), a POURED or a WAIT, the time limit, the return of
its frame, or a STILL, an ISOLATE or a TROUBLE that finds it in RESEND. The row leaves what its own statement says
(O45, O49, O51, O53 to O55; a STILL: O20), and at the end of that event (log 6) the commit is applied, unless check 6
or 8 fails now: COMMIT-CANCELLED, and what waits is looked at again (R159 to R163; where the expiry guard applies in
that pass: log 9). A lease that the event lets come to pass is granted before, one that the commit lets come to pass
after it (R148, log 39). -/
def Obligations.CommitDecided : Prop :=
  (∀ (s : State) (tag : Tag) (sum : BitVec 16), s.part.Ready →
    let p := s.part.acceptAny
    let consistent : Prop := ∀ n table index, ¬ p.CheckFails n table index
    (p.commitPending = true → exec (.commit tag sum) s = .next { s with part := p.deny tag 8 .busy })
    ∧ (p.commitPending = false → sum ≠ p.cfg.shadow.tableSum →
      exec (.commit tag sum) s = .next { s with part := p.deny tag 8 .check })
    ∧ (p.commitPending = false → sum = p.cfg.shadow.tableSum →
      (∀ n table index, p.CheckFails n table index → (∀ m x y, m < n → ¬ p.CheckFails m x y) →
        exec (.commit tag sum) s
          = .next { s with part := p.emit .reply 0 tag [8, 2, 37, octet table, octet index] })
      ∧ (consistent → p.xt.table ≠ [] →
        exec (.commit tag sum) s = .next { s with part :=
            (({ p with cfg := { p.cfg with commit := .pending tag p.clock } } : Part).ack tag 8) })
      ∧ (consistent → p.xt.table = [] →
        ∃ t : Part, exec (.commit tag sum) s = .next { s with part := p.leaseGranted t }
          ∧ t.cfg = ⟨p.cfg.shadow, p.cfg.shadow, .idle, sum⟩
          ∧ p.Answers t ⟨0, 0, .reply, tag, p.summary, [8, 3]⟩
          ∧ t.clock = p.clock ∧ t.resetCause = p.resetCause ∧ t.owed = p.owed
          ∧ (p.DeferredLaw → p.LayerLaw → p.CommitApplied t tag))))
  ∧ ∀ (s : State) (i : Instr) (c : Command),
    let p := s.part
    (dueRow i = true → p.resetWait ≠ some 0) → (dueRow i = false → p.Ready) →
    p.commitPending = true → p.xt.table = [c] → p.Closes c i → p.DeferredLaw → p.OpenLaw → p.LayerLaw →
    ∃ t u : Part, exec i s = .next { s with part := u } ∧ p.Leaves c t i ∧ p.Quiesced t u
      ∧ t.cfg = p.cfg ∧ (t.xt.table = [] ↔ p.Ends c t i)

/-! ### Frames for the ring -/

/-- ASK and STILL are refused RANGE for a payload, NO-NODE for a destination outside 1..127, BUSY with 16 frames
passed through waiting; otherwise they are passed to the ring with the deck's tag. Before a STILL, the command at the
address (every command at 127) takes ending reason STILLED unless it has one, and each such command in RESEND closes
with its ending reason, in the table's order (log 10), each close with what it leaves (R72; the expiry guard of its
re-examination pass: log 9). Where the STILL reaches no command in RESEND, nothing closes, whatever another address
has open. At the end of the event a lease that this lets come to pass is granted (R148, log 39), then a pending commit
that meets quiescence decided (R160, log 6). An unclaimed ASK to one node is answered REFUSED NO-NODE; an unclaimed
STILL, and either to broadcast, is consumed with no effect (R170, R171, R78, R79, R83). -/
def Obligations.AskAndStillPassToRing : Prop :=
  ∀ (s : State) (dest : Byte) (tag : Tag) (payload : List Byte), s.part.Ready →
    let p := s.part
    let onward (q : Part) (kind : Kind) : Part :=
      { q with ringQueue := q.ringQueue ++ [⟨⟨dest, 0, kind, tag, 0, []⟩, true⟩] }
    let judged (kind : Kind) (q : Part) : Part :=
      if payload ≠ [] then p.refuse dest kind tag .range
      else if dest.toNat = 0 ∨ 127 < dest.toNat then p.refuse dest kind tag .noNode
      else if 16 ≤ p.passedWaiting then p.refuse dest kind tag .busy
      else onward q kind
    let stilled (which : Command → Bool) : Part := { p with
      xt := ⟨p.xt.table.map fun c => if which c then { c with ending := some (c.ending.getD .stilled) } else c,
        p.xt.nodes⟩ }
    let closed (q : Part) (c : Command) : Part := q.closedEnded c (c.ending.getD .stilled).reason
    exec (.ask dest tag payload) s = .next { s with part := judged .ask p }
    ∧ (((∀ c ∈ p.xt.table, c.phase = .sent) ∨ payload ≠ [] ∨ 16 ≤ p.passedWaiting
        ∨ dest.toNat = 0 ∨ 127 < dest.toNat
        ∨ (dest.toNat ≠ 127 ∧ ∀ c, p.openAt dest = some c → c.phase = .sent)) →
      exec (.still dest tag payload) s = .next { s with part := (judged .still
        (if dest.toNat = 127 then stilled fun _ => true
        else match p.openAt dest with
          | some c => stilled (·.subject == c.subject)
          | none => p)) })
    ∧ (p.OpenLaw →
      (∀ c, payload = [] → p.passedWaiting < 16 → dest.toNat ≠ 127 → p.openAt dest = some c → c.phase = .resend →
        ∃ u : Part, exec (.still dest tag payload) s = .next { s with part := u }
          ∧ p.Quiesced (p.stillClosed dest tag c) u)
      ∧ (dest.toNat = 127 → (p.xt.table.map Command.subject).Nodup →
        ∃ u : Part, exec (.still dest tag payload) s = .next { s with part := u }
          ∧ p.Quiesced (judged .still
            ((p.xt.table.filter (·.phase == .resend)).foldl closed (stilled fun _ => true))) u))
    ∧ (1 ≤ dest.toNat → dest.toNat ≤ 126 →
      exec (.unclaimedAskStill .ask dest tag) s = .next { s with part := p.refuse dest .ask tag .noNode })
    ∧ (dest.toNat = 127 → exec (.unclaimedAskStill .ask dest tag) s = .next s)
    ∧ exec (.unclaimedAskStill .still dest tag) s = .next s

/-- NODESET is refused RANGE with an empty payload, NO-NODE for a destination outside 1..127, NOT-LEASED unless the
lease is HELD, BUSY with 16 frames passed through waiting; otherwise it is passed to the ring unchanged. One that
returns from a single node is refused NO-NODE, one to broadcast is consumed (R149, R170). That RANGE comes before
NO-NODE is the model's reading (log 27). -/
def Obligations.NodesetNeedsLease : Prop :=
  ∀ (s : State) (dest : Byte) (tag : Tag) (payload : List Byte), s.part.Ready →
    let p := s.part
    (exec (.nodeset dest tag payload) s = .next { s with part := (
      if payload = [] then p.refuse dest .nodeset tag .range
      else if dest.toNat = 0 ∨ 127 < dest.toNat then p.refuse dest .nodeset tag .noNode
      else if p.mode.lease.code ≠ 2 then p.refuse dest .nodeset tag .notLeased
      else if 16 ≤ p.passedWaiting then p.refuse dest .nodeset tag .busy
      else { p with ringQueue := p.ringQueue ++ [⟨⟨dest, 0, .nodeset, tag, 0, payload⟩, true⟩] }) })
    ∧ (1 ≤ dest.toNat → dest.toNat ≤ 126 →
      exec (.unclaimedNodeset dest tag) s = .next { s with part := p.refuse dest .nodeset tag .noNode })
    ∧ (dest.toNat = 127 → exec (.unclaimedNodeset dest tag) s = .next s)

/-! ### LIFT and POUR from the deck -/

/-- A LIFT is refused at once, with nothing else changed, for a payload that is not one octet (RANGE) and for the
first of checks 1 to 7 that fails: RANGE, WRONG-KIND or NO-NODE, MODE, JACK-STATE, SECTOR-STOPPED, BUSY, ROD (R43,
R170). -/
def Obligations.LiftRefusedAtOnce : Prop :=
  ∀ (s : State) (dest : Byte) (tag : Tag), s.part.Ready →
    let p := s.part
    (∀ payload : List Byte, payload.length ≠ 1 →
      exec (.lift dest tag payload) s = .next { s with part := p.refuse dest .lift tag .range })
    ∧ ∀ (strokes : Byte) (r : Reason),
      (if strokes.toNat < 1 ∨ 8 < strokes.toNat then some Reason.range
      else match p.findJack dest with
        | none => some (if (p.findFeed dest).isSome then .wrongKind else .noNode)
        | some j =>
          if p.mode.mode ≠ .slip then some .mode
          else if (p.jack j).state ≠ .active ∧ (p.jack j).state ≠ .catchup then some .jackState
          else if p.sectorStopped (p.sectorOf j) then some .sectorStopped
          else if (p.openOf (.jack j)).isSome ∨ (p.entryOf j).isSome then some .busy
          else if (p.jack j).rod < strokes.toNat then some .rod
          else none) = some r →
      exec (.lift dest tag [strokes]) s = .next { s with part := p.refuse dest .lift tag r }

/-- A LIFT that passes checks 1 to 7 is deferred with the first transient check it fails, in the order COMMIT, TABLE,
GROUP, SPREAD, FILL, YOUNG: an entry joins the back of the queue and HELD is sent; with 32 entries it is refused FULL.
A LIFT that fails none is admitted: its group's occupancy rises by one, XT opens the command under the node's next tag
and sends the first sub-transaction, of at most the node depth. Nothing else changes (R44 to R50, R67 to R69). -/
def Obligations.LiftDeferredOrAdmitted : Prop :=
  ∀ (s : State) (dest : Byte) (tag : Tag) (strokes : Byte) (j : JackId), s.part.Ready →
    let p := s.part
    let n := strokes.toNat
    1 ≤ n → n ≤ 8 → p.findJack dest = some j → p.mode.mode = .slip →
    ((p.jack j).state = .active ∨ (p.jack j).state = .catchup) → p.sectorStopped (p.sectorOf j) = false →
    p.openOf (.jack j) = none → p.entryOf j = none → n ≤ (p.jack j).rod →
    let k := p.sectorOf j
    let g := (p.jackEntry j).group
    let h := ((p.jack j).position + n) * p.bank.strokePitch
    let held : Option Reason :=
      if p.commitPending then some .commit
      else if 64 ≤ p.xt.table.length then some .table
      else if p.occupancy g = p.bank.groups[g] then some .group
      else if (∃ low, p.lowestActive = some low ∧ low + p.bank.spreadAdmit < (p.jack j).position + n) then
        some .spread
      else if (p.sector k).top < h + p.bank.minFill then some .fill
      else if p.young k h then some .young
      else none
    (∀ r, held = some r →
      exec (.lift dest tag [strokes]) s = .next { s with part := (
        if p.adm.queue.length < 32 then
          ({ p with adm := ⟨p.adm.queue ++ [⟨j, dest, n, tag, p.clock, r⟩], p.adm.occupancy⟩ } : Part).held dest tag r
        else p.refuse dest .lift tag .full) })
    ∧ (held = none →
      let a := (p.jackEntry j).node
      let own := (p.nodeTags a).counter + 1
      let size := min n (p.jack j).depth
      exec (.lift dest tag [strokes]) s = .next { s with part := { p with
        adm := ⟨p.adm.queue, p.adm.occupancy.set g (p.occupancy g + 1)⟩
        xt := ⟨p.xt.table ++ [⟨.lift j, .deck tag, n, 0, own, size, .sent, p.clock, 0, none, none⟩],
          p.xt.nodes.set a ⟨own, none⟩⟩
        ringQueue := p.ringQueue ++ [⟨⟨dest, 0, .lift, own, 0, [octet size]⟩, false⟩] } })

/-- A POUR is refused, with nothing else changed, for a payload that is not three octets (RANGE) and for the first of
the nine checks of R87 that fails. A POUR that fails none makes its feed node POURING with the sector as last POUR
sector, opens a command under the node's next tag, sends the POUR frame, and ends the node's FEED pair (R87 to
R89). -/
def Obligations.PourRefusedOrAdmitted : Prop :=
  ∀ (s : State) (dest : Byte) (tag : Tag), s.part.Ready →
    let p := s.part
    (∀ payload : List Byte, payload.length ≠ 3 →
      exec (.pour dest tag payload) s = .next { s with part := p.refuse dest .pour tag .range })
    ∧ ∀ sector hi lo : Byte,
      let litres := (ofBe16 hi lo).toNat
      ((24 ≤ sector.toNat ∨ litres < 1 ∨ 4000 < litres) →
        exec (.pour dest tag [sector, hi, lo]) s = .next { s with part := p.refuse dest .pour tag .range })
      ∧ ∀ hk : sector.toNat < 24, 1 ≤ litres → litres ≤ 4000 →
        let k : SectorId := ⟨sector.toNat, hk⟩
        (p.findFeed dest = none →
          exec (.pour dest tag [sector, hi, lo]) s = .next { s with part := (
            p.refuse dest .pour tag (if (p.findJack dest).isSome then .wrongKind else .noNode)) })
        ∧ ∀ f, p.findFeed dest = some f →
          let placed : Nat := ((p.xt.table.filter fun c => feedIds.any fun g => c.task == .pour g k).map fun c =>
            depthOf (p.sectorEntry k) c.asked).sum
          let refused : Option Reason :=
            if p.mode.mode.isStopped then some .mode
            else if (p.feed f).state = .pouring then some .busy
            else if (p.feed f).state = .faulted then some .nodeState
            else if (p.feedEntry f).allowed[k] = false then some .notAllowed
            else if p.sectorStopped k then some .sectorStopped
            else if p.commitPending then some .commit
            else if 64 ≤ p.xt.table.length then some .table
            else if p.formTop k < (p.sector k).top + placed + depthOf (p.sectorEntry k) litres then some .noRoom
            else none
          (∀ r, refused = some r →
            exec (.pour dest tag [sector, hi, lo]) s = .next { s with part := p.refuse dest .pour tag r })
          ∧ (refused = none → p.openOf (.feed f) = none →
            let a := (p.feedEntry f).node
            let own := (p.nodeTags a).counter + 1
            exec (.pour dest tag [sector, hi, lo]) s = .next { s with part := (({ p with
              feeds := p.feeds.set f ⟨.pouring, some k⟩
              xt := ⟨p.xt.table
                  ++ [⟨.pour f k, .deck tag, litres, 0, own, litres, .sent, p.clock, 0, none, none⟩],
                p.xt.nodes.set a ⟨own, none⟩⟩
              ringQueue := p.ringQueue
                ++ [⟨⟨dest, 0, .pour, own, 0, [sector, hi, lo]⟩, false⟩] } : Part).cease (.feed f)) })

/-! ### Supervision -/

/-- Under kind ANY, while supervision is active, a request is an accepted heartbeat before its owner decides it: both
times become now, violations 0, deck lost ends and the DECK pair ceases, and in HOLD a heartbeat has been seen. Under
TOKEN, and while supervision is inactive, a request counts for nothing (R140, R143, R144). -/
def Obligations.AnyRequestIsAHeartbeat : Prop :=
  ∀ p : Part,
    (p.sup.active = true → p.bank.supKind = .any →
      p.acceptAny.sup = { p.sup with
          lastAccepted := p.clock, windowStart := p.clock, violations := 0, deckLost := false }
        ∧ p.acceptAny.mode = { p.mode with
          heartbeatSinceHold := p.mode.mode.isHold || p.mode.heartbeatSinceHold }
        ∧ (p.sup.deckLost = true → (p.acceptAny.pair .deck).state = .notPresent)
        ∧ (p.sup.deckLost = false → p.acceptAny.mon = p.mon)
        ∧ (∀ q, q ≠ .deck → p.acceptAny.pair q = p.pair q)
        ∧ { p.acceptAny with sup := p.sup, mode := p.mode, mon := p.mon } = p)
    ∧ ((p.sup.active = false ∨ p.bank.supKind = .token) → p.acceptAny = p)

/-- Under TOKEN an early HEARTBEAT is refused EARLY and one with another token than the expected TOKEN, each a
violation; one that passes both flips the token, sets both times to now and violations to 0, and is answered ACK; a
deck lost ends with it, and the DECK pair ceases. Under ANY a HEARTBEAT is answered ACK. A window that has reached the
maximum at an advance is a violation and starts now. Below the strikes, or with the deck lost, a violation only raises
the count (R139 to R143). A window share that is not owed has no effect: the model's choice (log 2). -/
def Obligations.HeartbeatsAndWindowsJudged : Prop :=
  (∀ (s : State) (tag : Tag) (token : Byte), s.part.Ready → s.part.sup.active = true →
    let p := s.part
    let count := min (p.sup.violations + 1) 255
    (p.bank.supKind = .token →
      ((count < p.bank.strikes ∨ p.sup.deckLost = true) → age p.clock p.sup.lastAccepted < p.bank.windowMin →
        exec (.heartbeat tag token) s = .next { s with part :=
          { p.deny tag 1 .early with sup := { p.sup with violations := count } } })
      ∧ ((count < p.bank.strikes ∨ p.sup.deckLost = true) → p.bank.windowMin ≤ age p.clock p.sup.lastAccepted →
        token.toNat ≠ p.sup.expected.toNat →
        exec (.heartbeat tag token) s = .next { s with part :=
          { p.deny tag 1 .token with sup := { p.sup with violations := count } } })
      ∧ (p.bank.windowMin ≤ age p.clock p.sup.lastAccepted → token.toNat = p.sup.expected.toNat →
        p.sup.deckLost = false →
        exec (.heartbeat tag token) s = .next { s with part := (({ p with
          sup := { p.sup with
            expected := ~~~p.sup.expected, lastAccepted := p.clock, windowStart := p.clock, violations := 0 }
          mode := { p.mode with
            heartbeatSinceHold := p.mode.mode.isHold || p.mode.heartbeatSinceHold } } : Part).ack tag 1) })
      ∧ (p.bank.windowMin ≤ age p.clock p.sup.lastAccepted → token.toNat = p.sup.expected.toNat →
        p.sup.deckLost = true →
        ∃ q : Part, exec (.heartbeat tag token) s = .next { s with part := q.ack tag 1 }
          ∧ q.sup = { p.sup with
            expected := ~~~p.sup.expected, lastAccepted := p.clock, windowStart := p.clock, violations := 0
            deckLost := false }
          ∧ q.mode = { p.mode with heartbeatSinceHold := p.mode.mode.isHold || p.mode.heartbeatSinceHold }
          ∧ p.Ceased q .deck ∧ { q with sup := p.sup, mode := p.mode, mon := p.mon } = p))
    ∧ (p.bank.supKind = .any →
      exec (.heartbeat tag token) s = .next { s with part := p.acceptAny.ack tag 1 }))
  ∧ ∀ s : State, s.part.resetWait ≠ some 0 → s.part.CommitLaw →
    let p := { s.part with owed := s.part.owed.filter (· ≠ Share.window) }
    let count := min (p.sup.violations + 1) 255
    (Share.window ∉ s.part.owed → exec .windowExpiry s = .next s)
    ∧ (Share.window ∈ s.part.owed →
      ((p.sup.active = false ∨ age p.clock p.sup.windowStart < p.bank.windowMax) →
        exec .windowExpiry s = .next { s with part := p })
      ∧ (p.sup.active = true → p.bank.windowMax ≤ age p.clock p.sup.windowStart →
        (count < p.bank.strikes ∨ p.sup.deckLost = true) →
        exec .windowExpiry s = .next { s with part := { p with
          sup := { p.sup with windowStart := p.clock, violations := count } } }))

/-- While supervision is inactive a HEARTBEAT is answered ACK whatever its token. It changes nothing else, but that in
STOPPED it ends deck lost, and the DECK pair ceases, its record present no (R144, R145). -/
def Obligations.HeartbeatWhileInactive : Prop :=
  ∀ (s : State) (tag : Tag) (token : Byte), s.part.Ready → s.part.sup.active = false →
    let p := s.part
    ((p.mode.mode.isStopped = false ∨ p.sup.deckLost = false) →
      exec (.heartbeat tag token) s = .next { s with part := p.ack tag 1 })
    ∧ (p.mode.mode.isStopped = true → p.sup.deckLost = true →
      ∃ q : Part, exec (.heartbeat tag token) s = .next { s with part := q.ack tag 1 }
        ∧ q.sup = { p.sup with deckLost := false } ∧ p.Ceased q .deck ∧ { q with sup := p.sup, mon := p.mon } = p)

/-! ### Climb modes -/

/-- CONTROL START is refused MODE outside SETUP or with a cause in the ring stop cause set, JACK-STATE with no ACTIVE
jack, LEASED with a lease; CONTROL HOLD MODE outside SLIP; CONTROL RESUME MODE outside HOLD, DECK with violations or
no heartbeat since the hold, LEASED with a lease. A refusal changes nothing else (R100 to R102). -/
def Obligations.ControlRefused : Prop :=
  ∀ (s : State) (tag : Tag), s.part.Ready →
    let p := s.part.acceptAny
    let denied (r : Reason) : Host.Outcome State Fault Refusal := .next { s with part := p.deny tag 9 r }
    ((p.mode.mode ≠ .setup ∨ ∃ q, (p.pair q).stopsRing = true) → exec (.controlStart tag) s = denied .mode)
    ∧ (p.mode.mode = .setup → (∀ q, (p.pair q).stopsRing = false) →
      ((∀ j, (p.jack j).state ≠ .active) → exec (.controlStart tag) s = denied .jackState)
      ∧ ((∃ j, (p.jack j).state = .active) → p.mode.lease ≠ .none → exec (.controlStart tag) s = denied .leased))
    ∧ (p.mode.mode ≠ .slip → exec (.controlHold tag) s = denied .mode)
    ∧ (p.mode.mode.isHold = false → exec (.controlResume tag) s = denied .mode)
    ∧ (p.mode.mode.isHold = true →
      ((p.sup.violations ≠ 0 ∨ p.mode.heartbeatSinceHold = false) → exec (.controlResume tag) s = denied .deck)
      ∧ (p.sup.violations = 0 → p.mode.heartbeatSinceHold = true → p.mode.lease ≠ .none →
        exec (.controlResume tag) s = denied .leased))

/-- An accepted CONTROL START moves SETUP to SLIP and starts supervision, before MON judges the new mode (log 13); an
accepted CONTROL RESUME moves HOLD to SLIP, stops the creep timer and drops the creep list. Each answers ACK first,
stamped SLIP (log 15), and starts resume blanking; no jack or layer changes. With a blanking time, and no more sectors
stopped than the limit, everything else but MON's SPREAD, STARVE and COMPOUND pairs, its log and the event set stays;
without, SPREAD or STARVE may stop the ring at once. A round that RESUME leaves with no command open has ended (log
11) (R100, R102, R126, R138). At the end of the event a lease that this lets come to pass is granted (R148, log 39),
then a pending commit that meets quiescence decided (R160, log 6). -/
def Obligations.StartAndResumeEnterSlip : Prop :=
  (∀ (s : State) (tag : Tag), s.part.Ready →
    let p := s.part.acceptAny
    p.mode.mode = .setup → (∀ q, (p.pair q).stopsRing = false) → (∃ j, (p.jack j).state = .active) →
    p.mode.lease = .none →
    ∃ t u : Part, exec (.controlStart tag) s = .next { s with part := u } ∧ p.Quiesced t u
      ∧ p.Answers t ⟨0, 0, .reply, tag, ({ p with mode := { p.mode with mode := .slip } } : Part).summary, [9, 0]⟩
      ∧ ((t.mode.mode = .slip ∧ t.sup = ⟨true, 0, p.clock, p.clock, 0, false⟩)
        ∨ (t.mode.mode = .stopped .slip ∧ t.sup = ⟨false, 0, p.clock, p.clock, 0, false⟩ ∧ t.stopOut = true))
      ∧ t.jacks = p.jacks ∧ t.sectors = p.sectors ∧ p.SameBase t
      ∧ (p.bank.resumeBlanking ≠ 0 → p.stoppedSectors ≤ p.bank.sectorStopLimit →
        t.mon.blanking = some p.bank.resumeBlanking ∧ (t.pair .spread).state = .notPresent
          ∧ (∀ k, (t.pair (.starve k)).state = .notPresent)
          ∧ (∀ q, q ≠ .spread → q ≠ .compound → (∀ k, q ≠ .starve k) → t.pair q = p.pair q)
          ∧ { t with mon := p.mon, sendQueue := p.sendQueue }
            = { p with mode := { p.mode with mode := .slip }, sup := ⟨true, 0, p.clock, p.clock, 0, false⟩ }))
  ∧ ∀ (s : State) (tag : Tag), s.part.Ready →
    let p := s.part.acceptAny
    p.mode.mode.isHold = true → p.sup.violations = 0 → p.mode.heartbeatSinceHold = true → p.mode.lease = .none →
    ∃ t u : Part, exec (.controlResume tag) s = .next { s with part := u } ∧ p.Quiesced t u
      ∧ p.Answers t ⟨0, 0, .reply, tag, ({ p with mode := { p.mode with mode := .slip } } : Part).summary, [9, 0]⟩
      ∧ ((t.mode.mode = .slip ∧ t.sup = p.sup)
        ∨ (t.mode.mode = .stopped .slip ∧ t.sup = { p.sup with active := false } ∧ t.stopOut = true))
      ∧ t.mode.creepTimer = none ∧ t.mode.roundOwed = false ∧ t.mode.roundList = []
      ∧ t.jacks = p.jacks ∧ t.sectors = p.sectors ∧ p.SameBase t
      ∧ (p.bank.resumeBlanking ≠ 0 → p.stoppedSectors ≤ p.bank.sectorStopLimit →
        t.mon.blanking = some p.bank.resumeBlanking ∧ (t.pair .spread).state = .notPresent
          ∧ (∀ k, (t.pair (.starve k)).state = .notPresent)
          ∧ (∀ q, q ≠ .spread → q ≠ .compound → (∀ k, q ≠ .starve k) → t.pair q = p.pair q)
          ∧ { t with mon := p.mon, sendQueue := p.sendQueue }
            = { p with mode := { p.mode with
                  mode := .slip
                  creepTimer := none
                  roundOwed := false
                  roundList := []
                  roundInProgress := p.mode.roundInProgress && p.mode.roundCommands != 0 } })

/-- An accepted CONTROL HOLD moves SLIP to HOLD with cause REQUEST: ACK first, stamped HOLD (log 15), every deferred
entry answered REFUSED FLUSHED, resume blanking ended, the creep timer loaded, no heartbeat seen since, supervision
kept. Unless SPREAD or STARVE or COMPOUND, judged in the new mode, stops the ring, the part is in HOLD (R57, R101,
R138). At the end of the event a lease that this lets come to pass is granted (R148, log 39), then a pending commit
that meets quiescence decided (R160, log 6). -/
def Obligations.ControlHoldEntersHold : Prop :=
  ∀ (s : State) (tag : Tag), s.part.Ready →
    let p := s.part.acceptAny
    let h : ModeRecord := { p.mode with
      mode := .hold .request, heartbeatSinceHold := false, creepTimer := some p.bank.creepInterval }
    p.mode.mode = .slip →
    ∃ t u : Part, exec (.controlHold tag) s = .next { s with part := u } ∧ p.Quiesced t u
      ∧ p.Answers t ⟨0, 0, .reply, tag, ({ p with mode := h } : Part).summary, [9, 0]⟩
      ∧ ((t.mode.mode = .hold .request ∧ t.mode.creepTimer = some p.bank.creepInterval
          ∧ t.mode.heartbeatSinceHold = false ∧ t.sup = p.sup ∧ t.stopOut = p.stopOut)
        ∨ (t.mode.mode = .stopped .hold ∧ t.mode.creepTimer = none ∧ t.sup = { p.sup with active := false }
          ∧ t.stopOut = true))
      ∧ t.adm.queue = [] ∧ (∀ e ∈ p.adm.queue, t.TellsRefused e 17)
      ∧ t.mon.blanking = none ∧ t.jacks = p.jacks ∧ t.sectors = p.sectors ∧ p.SameBase t
      ∧ (p.bank.condMode .spread ≠ .ring → p.bank.condMode (.starve 0) ≠ .sector →
        p.bank.condMode (.starve 0) ≠ .ring → p.stoppedSectors ≤ p.bank.sectorStopLimit →
        (∀ q, q ≠ .spread → q ≠ .compound → (∀ k, q ≠ .starve k) → t.pair q = p.pair q)
          ∧ { t with mon := p.mon, sendQueue := p.sendQueue } = { p with mode := h, adm := ⟨[], p.adm.occupancy⟩ })

/-- CONTROL STOP is answered ACK first, stamped before REQUEST asserts (the model's choice: log 15), and stops the
ring: every command in SENT stays open with its own ending reason or STOPPED, those in RESEND close, and the tags, the
lease, the sector stop sets and a pending commit stay as R105 leaves them. A creep round's list is dropped and the
round ends once no DEVICE command is open; that it ends at once where none was open at the stop is the model's choice
(log 11). In STOPPED it leaves all but MON's records. Either way REQUEST is a cause of the ring stop, present no more,
and the fault log has its record, present no, or one repeat more of it, or, with no room, LOG-FULL (R78, R79, R103,
R105, R124, R129, R131, R132). A pending lease is HELD at the end of the event where no round and no round command is
left (R148, log 39; by log 11 also where the stop alone has ended the round); then a pending commit that meets
quiescence is decided (R160, log 6). -/
def Obligations.ControlStopStopsRing : Prop :=
  ∀ (s : State) (tag : Tag), s.part.Ready → s.part.DeferredLaw →
    let p := s.part.acceptAny
    ∃ t u : Part, exec (.controlStop tag) s = .next { s with part := u } ∧ p.Quiesced t u
      ∧ p.Answers t ⟨0, 0, .reply, tag, p.summary, [9, 0]⟩
      ∧ t.pair .request = ⟨.notPresent, (p.pair .request).stopsSector, true⟩
      ∧ (p.LogRoom .request → p.LogHolds t .request .ring none false)
      ∧ (¬ p.LogRoom .request → t.hasEvent .logFull = true)
      ∧ (p.mode.mode.isStopped = false → p.RingStopped t)
      ∧ (p.mode.mode.isStopped = true →
        { t with mon := p.mon, sendQueue := p.sendQueue } = p ∧ t.mon.alert = p.mon.alert
          ∧ ∀ q, q ≠ .request → t.pair q = p.pair q)

/-- STOP IN asserted stops the ring, as R105 says of its commands, lease and sector stops, with STOPIN present and a
cause of the stop; the fault log has its record or one repeat more, or, with no room, LOG-FULL; in STOPPED it leaves
all but MON's records. At the stop a creep round's list is dropped and the round ends once no DEVICE command is open;
that it ends at once where none was open is the model's choice (log 11). Released, STOPIN ceases and stays a cause. A
level that stands already changes nothing, and while the RESET line is held only the level changes (R79, R105, R123,
R125, R129, R131, R132, R182, log 20). A pending lease is HELD at the end of the event where no round and no round
command is left (R148, log 39; by log 11 also where the stop alone has ended the round); then a pending commit that
meets quiescence is decided (R160, log 6). -/
def Obligations.StopInLineJudged : Prop :=
  ∀ s : State, s.part.Settled → s.part.DeferredLaw →
    let p := s.part
    (p.resetLine = false → p.stopIn = false → (p.pair .stopin).state = .notPresent →
      ∃ t u : Part, exec .stopInAssert s = .next { s with part := u } ∧ p.Quiesced t u
        ∧ t.stopIn = true ∧ t.pair .stopin = ⟨.present .ring, (p.pair .stopin).stopsSector, true⟩
        ∧ (p.LogRoom .stopin → p.LogHolds t .stopin .ring none true)
        ∧ (¬ p.LogRoom .stopin → t.hasEvent .logFull = true)
        ∧ (p.mode.mode.isStopped = false → ({ p with stopIn := true } : Part).RingStopped t)
        ∧ (p.mode.mode.isStopped = true →
          { t with mon := p.mon } = { p with stopIn := true } ∧ t.mon.alert = p.mon.alert
            ∧ ∀ q, q ≠ .stopin → t.pair q = p.pair q))
    ∧ (p.resetLine = false → p.stopIn = true →
      ∃ t : Part, exec .stopInRelease s = .next { s with part := t }
        ∧ t.pair .stopin = { p.pair .stopin with state := .notPresent }
        ∧ (∀ q, q ≠ .stopin → t.pair q = p.pair q) ∧ t.mon.alert = p.mon.alert
        ∧ ((p.pair .stopin).state.isPresent = true →
          t.mon.log = p.mon.log.map fun r => if r.pair = .stopin then { r with present := false } else r)
        ∧ { t with mon := p.mon } = { p with stopIn := false })
    ∧ ((p.resetLine = true ∨ p.stopIn = true) →
      exec .stopInAssert s = .next { s with part := { p with stopIn := true } })
    ∧ ((p.resetLine = true ∨ p.stopIn = false) →
      exec .stopInRelease s = .next { s with part := { p with stopIn := false } })

/-- CLEAR takes every pair that is not PRESENT out of the cause sets and every record that is not present out of the
log, COMPOUND being judged in between, and answers DATA first with the records and the stopped sectors left, stamped
with the mode it found. In STOPPED with no ring cause left, the part returns: to SETUP if that was stopped, else to
HOLD with cause FROM-STOP, supervision afresh, unless a condition judged there stops the ring again. Back in SETUP, or
in HOLD with deglitch times, nothing else changes but SPREAD and STARVE, judged in that mode, with their records (R99,
R107, R119, R120, R134). At the end of the event a lease that this lets come to pass is granted (R148, log 39), then a
pending commit that meets quiescence decided (R160, log 6). -/
def Obligations.ClearForgetsWhatCeased : Prop :=
  ∀ (s : State) (tag : Tag), s.part.Ready →
    let p := s.part.acceptAny
    let held (q : Pair) : Bool := (p.pair q).stopsSector && (p.pair q).state.isPresent
    let stopped : Nat := sectorIds.countP fun k => (sectorPairs k).any held
    let above : Bool := decide (p.bank.sectorStopLimit < stopped)
    let gone (q : Pair) : Bool := !(p.pair q).state.isPresent || (q == .compound && !above)
    let log := p.mon.log.filter fun r =>
      r.present && !(r.pair == .compound && (p.pair .compound).state.isPresent && !above)
    let alert : Bool := p.mode.mode.isStopped || decide (0 < stopped)
    let setup : Bool := p.mode.mode == .stopped .setup
    let input (q : Pair) : Prop :=
      setup = false ∧ ((q = .spread ∧ p.bank.spreadAlarm < p.spread)
        ∨ ∃ k, q = .starve k ∧ (∃ j, (p.jackEntry j).enabled = true ∧ p.sectorOf j = k)
          ∧ (p.sector k).top < p.sectorBottom k + p.bank.minFill)
    (above = true → (p.pair .compound).state.isPresent = true) →
    ∃ t u : Part, exec (.clear tag) s = .next { s with part := u } ∧ p.Quiesced t u
      ∧ p.Answers t ⟨0, 0, .reply, tag, ({ p with mon := { p.mon with alert := alert } } : Part).summary,
        [4, 1, octet log.length, octet stopped]⟩
      ∧ t.jacks = p.jacks ∧ t.sectors = p.sectors ∧ p.SameBase t
      ∧ ((p.mode.mode.isStopped = false ∨ ∃ q, (p.pair q).stopsRing = true ∧ gone q = false) →
        t.mon.log = log ∧ t.mon.alert = alert ∧ t.stoppedSectors = stopped
          ∧ (∀ q, (t.pair q).stopsSector = held q ∧ (t.pair q).stopsRing = ((p.pair q).stopsRing && !gone q)
            ∧ (q ≠ .compound → (t.pair q).state = (p.pair q).state))
          ∧ { t with mon := p.mon, sendQueue := p.sendQueue } = p)
      ∧ ((∀ q, (p.pair q).stopsRing = true → gone q = true) →
        (p.mode.mode = .stopped .setup → t.mode = { p.mode with mode := .setup } ∧ t.stopOut = false ∧ t.sup = p.sup)
        ∧ ((p.mode.mode = .stopped .slip ∨ p.mode.mode = .stopped .hold) →
          ((t.mode.mode = .hold .fromStop ∧ t.mode.creepTimer = some p.bank.creepInterval
              ∧ t.mode.heartbeatSinceHold = false ∧ t.stopOut = false
              ∧ t.sup = ⟨true, 0, p.clock, p.clock, 0, p.sup.deckLost⟩)
            ∨ (t.mode.mode = .stopped .hold ∧ t.stopOut = true))
          ∧ (p.bank.condMode .spread ≠ .ring → p.bank.condMode (.starve 0) ≠ .sector →
            p.bank.condMode (.starve 0) ≠ .ring → t.mode.mode = .hold .fromStop))
        ∧ (p.mode.mode.isStopped = true → (setup = true ∨ (p.bank.deglitchSpread ≠ 0 ∧ p.bank.deglitchStarve ≠ 0)) →
          t.mon.alert = decide (0 < stopped) ∧ t.stoppedSectors = stopped ∧ t.mon.blanking = p.mon.blanking
            ∧ t.mon.events = (if p.sendQueue.length < 256 then p.mon.events else p.mon.events ||| 2)
            ∧ (∀ q, (t.pair q).stopsSector = held q ∧ (t.pair q).stopsRing = false)
            ∧ (∀ q, q ≠ .compound → q ≠ .spread → (∀ k, q ≠ .starve k) → (t.pair q).state = (p.pair q).state)
            ∧ (∀ q, (q = .spread ∨ ∃ k, q = .starve k) → (t.pair q).state =
              if input q then (if (p.pair q).state = .notPresent then .pending p.clock else (p.pair q).state)
              else .notPresent)
            ∧ t.mon.log = (log.map fun r =>
              if (r.pair = .spread ∨ ∃ k, r.pair = .starve k) ∧ (p.pair r.pair).state.isPresent = true ∧ ¬ input r.pair
              then { r with present := false } else r)
            ∧ { t with mode := p.mode, mon := p.mon, sup := p.sup, stopOut := p.stopOut, sendQueue := p.sendQueue } = p))

/-! ### The service lease and creep -/

/-- LEASE-ASK is refused MODE in SLIP and BUSY while the lease is PENDING or HELD. Otherwise, with no round in
progress and no round command open, the lease is HELD from now under the request's tag, answered LEASE-GRANTED; else
it is PENDING under that tag, answered ACK. Nothing else changes, open deck commands notwithstanding (R147). -/
def Obligations.LeaseAskDecided : Prop :=
  ∀ (s : State) (tag : Tag), s.part.Ready →
    let p := s.part.acceptAny
    (p.mode.mode = .slip → exec (.leaseAsk tag) s = .next { s with part := p.deny tag 20 .mode })
    ∧ (p.mode.mode ≠ .slip → p.mode.lease ≠ .none →
      exec (.leaseAsk tag) s = .next { s with part := p.deny tag 20 .busy })
    ∧ (p.mode.mode ≠ .slip → p.mode.lease = .none →
      (p.mode.roundInProgress = false → p.mode.roundCommands = 0 →
        exec (.leaseAsk tag) s = .next { s with part := (
          ({ p with mode := { p.mode with lease := .held tag p.clock } } : Part).emit .reply 0 tag [20, 5]) })
      ∧ ((p.mode.roundInProgress = true ∨ p.mode.roundCommands ≠ 0) →
        exec (.leaseAsk tag) s = .next { s with part := (
          ({ p with mode := { p.mode with lease := .pending tag } } : Part).ack tag 20) }))

/-- LEASE-END is refused NOT-LEASED with no lease; else the lease is NONE and the request answered ACK. A held lease
that has reached its limit at an advance is NONE, LEASE-OVERRUN is raised, and LEASE-ENDED goes out under the asking
tag. In HOLD with a round owed, the round then starts at once, each listed jack offered one stroke in turn; otherwise
nothing else changes (R150, R151, R116, R110, R111, R114, R62). A share that is not owed has no effect: the model's
choice (log 2). -/
def Obligations.LeaseEnds : Prop :=
  (∀ (s : State) (tag : Tag), s.part.Ready →
    let p := s.part.acceptAny
    let q := ({ p with mode := { p.mode with lease := .none } } : Part).ack tag 21
    (p.mode.lease = .none → exec (.leaseEnd tag) s = .next { s with part := p.deny tag 21 .notLeased })
    ∧ (p.mode.lease ≠ .none → (p.mode.mode.isHold = false ∨ p.mode.roundOwed = false) →
      exec (.leaseEnd tag) s = .next { s with part := q })
    ∧ (p.mode.lease ≠ .none → p.mode.mode.isHold = true → p.mode.roundOwed = true →
      exec (.leaseEnd tag) s
        = .next { s with part := ({ q with mode := { q.mode with roundOwed := false } } : Part).roundStarted }))
  ∧ ∀ s : State, s.part.resetWait ≠ some 0 → s.part.CommitLaw →
    let p := { s.part with owed := s.part.owed.filter (· ≠ Share.lease) }
    (Share.lease ∉ s.part.owed → exec .leaseLimit s = .next s)
    ∧ (Share.lease ∈ s.part.owed → (∀ asking granted, p.mode.lease = .held asking granted →
        age p.clock granted < p.bank.leaseLimit) → exec .leaseLimit s = .next { s with part := p })
    ∧ ∀ asking granted, Share.lease ∈ s.part.owed → p.mode.lease = .held asking granted →
      p.bank.leaseLimit ≤ age p.clock granted →
      let q := ({ p with
        mode := { p.mode with lease := .none }
        mon := { p.mon with events := p.mon.events ||| 2048 } } : Part).emit .reply 0 asking [20, 6]
      ((p.mode.mode.isHold = false ∨ p.mode.roundOwed = false) → exec .leaseLimit s = .next { s with part := q })
      ∧ (p.mode.mode.isHold = true → p.mode.roundOwed = true →
        exec .leaseLimit s
          = .next { s with part := ({ q with mode := { q.mode with roundOwed := false } } : Part).roundStarted })

/-- The creep timer, expired at an advance, is loaded again. With no lease and no round in progress a round starts:
each climbing jack of an OPEN sector, in order of index, is issued one stroke, or waits if it fails COMMIT, TABLE,
GROUP or SPREAD, or is skipped, and the end test is made. With a round in progress, or a lease HELD, or PENDING (log
24), CREEP-SKIPPED is raised instead, and a HELD lease makes the round owed. A timer that has not reached 0 changes
nothing (R62, R108 to R111, R114). A share that is not owed has no effect: the model's choice (log 2). -/
def Obligations.CreepTimerExpires : Prop :=
  ∀ s : State, s.part.resetWait ≠ some 0 → s.part.CommitLaw →
    let p := { s.part with owed := s.part.owed.filter (· ≠ Share.creep) }
    let m : ModeRecord := { p.mode with creepTimer := some p.bank.creepInterval }
    let skipped : Monitor := { p.mon with events := p.mon.events ||| 64 }
    (Share.creep ∉ s.part.owed → exec .creepTimerExpiry s = .next s)
    ∧ (Share.creep ∈ s.part.owed →
      (p.mode.creepTimer ≠ some 0 → exec .creepTimerExpiry s = .next { s with part := p })
      ∧ (p.mode.creepTimer = some 0 →
        (p.mode.lease.code = 2 →
          exec .creepTimerExpiry s = .next { s with part := { p with
            mode := { m with roundOwed := true }, mon := skipped } })
        ∧ ((p.mode.lease.code = 1 ∨ (p.mode.lease = .none ∧ p.mode.roundInProgress = true)) →
          exec .creepTimerExpiry s = .next { s with part := { p with mode := m, mon := skipped } })
        ∧ (p.mode.lease = .none → p.mode.roundInProgress = false →
          exec .creepTimerExpiry s = .next { s with part := ({ p with mode := m } : Part).roundStarted })))

/-! ### The slip clock -/

/-- A second, with nothing left of the one before: the slip clock rises by one, the creep timer and resume blanking
fall by one while they run, BOND is judged at the new time, and every block owes its share of the advance, but for the
blocks that take it before BOND is judged, and ADM, which takes it at once, examining the deferred queue, unless it is
late or an entry is overdue (logs 2, 3). Then no jack and no layer changes. While no BOND changes, nothing else does
(R184, R37, R56, R108, R125, R126). -/
def Obligations.SecondAdvances : Prop :=
  ∀ s : State, s.part.Ready → s.part.owed = [] →
    let p := s.part
    let now : Clock := p.clock + 1
    let q : Part := p.order.early.foldl Part.takeShare { p with
      clock := now
      mode := { p.mode with creepTimer := p.mode.creepTimer.map (· - 1) }
      mon := { p.mon with blanking := p.mon.blanking.map (· - 1) }
      owed := allShares }
    let old (k : SectorId) : Prop := (∃ j, (q.jackEntry j).enabled = true ∧ q.sectorOf j = k)
      ∧ ∃ l ∈ (q.sector k).layers, q.sectorBottom k < l.base + l.depth ∧ (q.mixEntry l.mix).maxExit < age now l.first
    ((q.commitPending = true → ∃ x c, q.openOf x = some c ∧ c.phase = .sent) →
      ∃ t : Part, exec .slipClockAdvance s = .next { s with part := t }
        ∧ t.clock = now ∧ (t.owed = q.owed ∨ t.owed = q.owed.filter (· ≠ .deferred))
        ∧ (Share.deferred ∉ p.order.late → (∀ e ∈ t.adm.queue, age now e.deferred ≤ q.bank.deferLimit) →
          Share.deferred ∉ t.owed)
        ∧ t.jacks = q.jacks ∧ t.sectors = q.sectors ∧ t.cfg = q.cfg
        ∧ (t.mode.mode = q.mode.mode → t.mode.creepTimer = q.mode.creepTimer
          ∧ t.mon.blanking = q.mon.blanking ∧ t.sup = q.sup)
        ∧ ∀ k, (¬ old k → (t.pair (.bond k)).state = .notPresent)
          ∧ (old k → (q.pair (.bond k)).state = .notPresent → q.bank.deglitchBond ≠ 0 →
            (t.pair (.bond k)).state = .pending now)
          ∧ (old k → (q.pair (.bond k)).state ≠ .notPresent → (t.pair (.bond k)).state = (q.pair (.bond k)).state))
    ∧ ((∀ k, ¬ old k ∧ (q.pair (.bond k)).state = .notPresent) → (q.pair .compound).state = .notPresent →
      q.stoppedSectors ≤ q.bank.sectorStopLimit → q.OpenLaw →
      exec .slipClockAdvance s = .next { s with part := (
        if Share.deferred ∈ q.owed ∧ Share.deferred ∉ p.order.late
            ∧ ∀ e ∈ q.adm.queue, age now e.deferred ≤ q.bank.deferLimit then
          ({ q with owed := q.owed.filter (· ≠ .deferred) } : Part).repassed false
        else q) })

/-- ADM's share of an advance takes the deferred queue once, oldest first: an entry whose age is above the defer limit
is removed and refused EXPIRED, one whose jack has less rod than it asks ROD; each other entry is admitted if it fails
no check, and else stays, with a fresh HELD if its reason is another. An entry that is alone and overdue is refused
EXPIRED and nothing else changes (R55, R56). A share that is not owed has no effect: the model's choice (log 2). -/
def Obligations.DeferredEntriesExpire : Prop :=
  ∀ s : State, s.part.resetWait ≠ some 0 → s.part.CommitLaw →
    let p := { s.part with owed := s.part.owed.filter (· ≠ Share.deferred) }
    (Share.deferred ∉ s.part.owed → exec .deferredEntryExpiry s = .next s)
    ∧ (Share.deferred ∈ s.part.owed →
      (p.OpenLaw → exec .deferredEntryExpiry s = .next { s with part := p.repassed true })
      ∧ (p.adm.queue = [] → exec .deferredEntryExpiry s = .next { s with part := p })
      ∧ ∀ e, p.adm.queue = [e] → p.bank.deferLimit < age p.clock e.deferred → p.entryStands e = true →
        exec .deferredEntryExpiry s = .next { s with part := (
          ({ p with adm := ⟨[], p.adm.occupancy⟩ } : Part).refuse e.node .lift e.tag .expired) })

/-- The violation, of a HEARTBEAT under TOKEN or of the window, that brings the count to the strikes declares the deck
lost: DECK asserts, with its record or one repeat more, or LOG-FULL, and SLIP moves to HOLD with cause DECK-LOST, the
creep timer loaded and every deferred entry answered REFUSED FLUSHED, or STOPPED where a RING-mode DECK stops the ring
before the move (log 3). HOLD stays. A RING condition that asserts with it stops the ring, before or after the move.
The heartbeat's REFUSED goes first (R57, R104, R127, R131, R132, R142). At the end of the event a lease that this lets
come to pass is granted (R148, log 39), then a pending commit that meets quiescence decided (R160, log 6). -/
def Obligations.StrikesDeclareDeckLost : Prop :=
  let lost (b t : Part) : Prop :=
    t.sup.deckLost = true ∧ t.sup.violations = min (b.sup.violations + 1) 255
      ∧ t.sup.expected = b.sup.expected ∧ t.sup.lastAccepted = b.sup.lastAccepted
      ∧ t.sup.windowStart = b.sup.windowStart
      ∧ t.jacks = b.jacks ∧ t.sectors = b.sectors ∧ b.SameBase t
      ∧ ((b.pair .deck).state = .notPresent → (t.pair .deck).state = .present (b.bank.condMode .deck)
        ∧ (b.bank.condMode .deck = .warn → t.hasEvent .warned = true)
        ∧ (b.bank.condMode .deck = .ring → (t.pair .deck).stopsRing = true ∧ t.mode.mode.isStopped = true)
        ∧ (b.bank.condMode .deck ≠ .ignore → ¬ b.LogRoom .deck → t.hasEvent .logFull = true)
        ∧ (b.bank.condMode .deck ≠ .ignore → b.LogRoom .deck → b.bank.deglitchSpread ≠ 0 → b.bank.deglitchStarve ≠ 0 →
          b.stoppedSectors ≤ b.bank.sectorStopLimit → b.LogHolds t .deck (b.bank.condMode .deck) none true))
      ∧ (b.mode.mode = .slip → t.adm.queue = []
        ∧ (∀ e ∈ b.adm.queue, t.TellsRefused e
          (if b.order.stopFirst = true ∧ b.bank.condMode .deck = .ring ∧ (b.pair .deck).state = .notPresent then 18 else 17))
        ∧ ((t.mode.mode = .hold .deckLost ∧ t.mode.creepTimer = some b.bank.creepInterval
            ∧ t.mode.heartbeatSinceHold = false ∧ t.sup.active = true ∧ t.stopOut = b.stopOut)
          ∨ (t.mode.mode = .stopped .hold ∧ t.sup.active = false ∧ t.stopOut = true)
          ∨ (t.mode.mode = .stopped .slip ∧ t.sup.active = false ∧ t.stopOut = true
            ∧ b.bank.condMode .deck = .ring))
        ∧ (b.bank.condMode .deck ≠ .ring → b.bank.condMode .spread ≠ .ring →
          b.bank.condMode (.starve 0) ≠ .sector → b.bank.condMode (.starve 0) ≠ .ring →
          b.stoppedSectors ≤ b.bank.sectorStopLimit → t.mode.mode = .hold .deckLost))
      ∧ (b.mode.mode.isHold = true → b.bank.condMode .deck ≠ .ring →
        t.mode = b.mode ∧ t.adm = b.adm ∧ t.sup.active = true ∧ t.stopOut = b.stopOut)
  (∀ (s : State) (tag : Tag) (token : Byte), s.part.Ready →
    let p := s.part
    p.sup.active = true → p.bank.supKind = .token →
    p.sup.deckLost = false → p.bank.strikes ≤ min (p.sup.violations + 1) 255 →
    let early := decide (age p.clock p.sup.lastAccepted < p.bank.windowMin)
    (early = true ∨ token.toNat ≠ p.sup.expected.toNat) →
    ∃ t u : Part, exec (.heartbeat tag token) s = .next { s with part := u } ∧ p.Quiesced t u ∧ lost p t
      ∧ p.Answers t ⟨0, 0, .reply, tag, p.summary, [1, 2, if early then 33 else 34]⟩)
  ∧ ∀ s : State, s.part.resetWait ≠ some 0 → Share.window ∈ s.part.owed →
    let p := { s.part with owed := s.part.owed.filter (· ≠ Share.window) }
    p.sup.active = true → p.bank.windowMax ≤ age p.clock p.sup.windowStart →
    p.sup.deckLost = false → p.bank.strikes ≤ min (p.sup.violations + 1) 255 →
    ∃ t u : Part, exec .windowExpiry s = .next { s with part := u } ∧ p.Quiesced t u
      ∧ lost { p with sup := { p.sup with windowStart := p.clock } } t

/-- A commit pending for the commit wait at an advance is cancelled: commit state IDLE, both banks and the stored sum
as they stand, COMMIT-CANCELLED raised, and the REPLY COMMIT-CANCELLED first, under the commit tag, its table and
index absent. Then what waits is looked at again, and nothing else changes: the deferred queue takes a re-examination
pass (its expiry guard: log 9), the waiting jacks of a creep round are offered again after it, and at the end a lease
is granted that the end of the round lets come to pass (R163, R54, R112, R114, R148, log 39). A share that is not owed
has no effect: the model's choice (log 2). -/
def Obligations.CommitWaitCancels : Prop :=
  ∀ s : State, s.part.resetWait ≠ some 0 → s.part.CommitLaw →
    let p := { s.part with owed := s.part.owed.filter (· ≠ Share.commitWait) }
    (Share.commitWait ∉ s.part.owed → exec .commitWaitCancel s = .next s)
    ∧ (Share.commitWait ∈ s.part.owed →
      ((∀ tag accepted, p.cfg.commit = .pending tag accepted → age p.clock accepted ≠ p.bank.commitWait) →
        exec .commitWaitCancel s = .next { s with part := p })
      ∧ ∀ tag accepted, p.cfg.commit = .pending tag accepted → age p.clock accepted = p.bank.commitWait →
        let q : Part := { p with
          cfg := { p.cfg with commit := .idle }
          mon := { p.mon with events := p.mon.events ||| 8192 } }
        (∃ t : Part, exec .commitWaitCancel s = .next { s with part := t }
          ∧ q.Answers t ⟨0, 0, .reply, tag, q.summary, [8, 4, 255, 255]⟩
          ∧ t.hasEvent .commitCancelled = true ∧ q.SameBase t ∧ t.jacks = q.jacks ∧ t.sectors = q.sectors
          ∧ t.sup = q.sup ∧ t.stopOut = q.stopOut ∧ t.mode.mode = q.mode.mode)
        ∧ (p.OpenLaw → exec .commitWaitCancel s
          = .next { s with part := p.leaseGranted (q.emit .reply 0 tag [8, 4, 255, 255]).retried.roundRetried })
        ∧ (p.adm.queue = [] → p.mode.roundList = [] →
          exec .commitWaitCancel s = .next { s with part := q.emit .reply 0 tag [8, 4, 255, 255] }))

/-- A pair PENDING for its deglitch time at an advance asserts. It is PRESENT under its mode, and stays so, but for a
STARVE, and a SPREAD no longer above its alarm, whose assertion stops the ring and so makes its input false. The log
takes the assertion unless the mode is IGNORE: a new record, or its pair's record with one repeat more; where 32
records stand, none of this pair, none that has ceased and none under WARN, LOG-FULL is raised instead (R131, R132).
WARN raises WARNED and touches no other pair but COMPOUND; SECTOR stops the pair's sector (its LIFTs given an ending
reason and a STILL each, its entries answered REFUSED SECTOR-STOPPED, ALERT set); RING stops the ring, as R105 says: a
creep round's list is dropped and the round ends once no DEVICE command is open; that it ends at once where none was
open at the stop is the model's choice (log 11). A pair that has not waited so long does not assert (R58, R119, R120,
R125, R127 to R129). A share that is not owed has no effect: the model's choice (log 2). At the end of the event a
lease that this lets come to pass is granted (R148, log 39), then a pending commit that meets quiescence decided
(R160, log 6). -/
def Obligations.DeglitchedPairAsserts : Prop :=
  ∀ (s : State) (q : Pair), s.part.resetWait ≠ some 0 → s.part.CommitLaw → s.part.DeferredLaw →
    let p := s.part
    let m := p.bank.condMode q
    let ceases (t : Part) : Prop := t.mode.mode ≠ p.mode.mode
      ∧ ((∃ k, q = .starve k) ∨ (q = .spread ∧ p.spread ≤ p.bank.spreadAlarm))
    p.stoppedSectors ≤ p.bank.sectorStopLimit →
    ((Share.deglitch ∉ p.owed ∨ ((∀ start, (p.pair q).state = .pending start → age p.clock start < p.bank.deglitch q)
      ∧ (p.pair .compound).state = .notPresent)) → exec (.deglitchExpiry q) s = .next s)
    ∧ ∀ start, Share.deglitch ∈ p.owed → (p.pair q).state = .pending start → p.bank.deglitch q ≤ age p.clock start →
      ∃ t u : Part, exec (.deglitchExpiry q) s = .next { s with part := u } ∧ p.Quiesced t u
        ∧ t.jacks = p.jacks ∧ t.sectors = p.sectors ∧ p.SameBase t
        ∧ (q ≠ .compound → (ceases t → (t.pair q).state = .notPresent) ∧ (¬ ceases t → (t.pair q).state = .present m))
        ∧ ((m = .ignore ∨ m = .warn) → { t with mon := p.mon } = p
          ∧ (q ≠ .compound → t.pair q = { p.pair q with state := .present m })
          ∧ ∀ x, x ≠ q → x ≠ .compound → t.pair x = p.pair x)
        ∧ (m = .warn → t.hasEvent .warned = true)
        ∧ (m = .sector → ∀ k, pairSector q = some k → (t.pair q).stopsSector = true ∧ t.sectorStopped k = true
          ∧ (p.sectorStopped k = false → p.SectorHalted t k
            ∧ ∀ e ∈ p.adm.queue, p.sectorOf e.jack = k → t.TellsRefused e 6))
        ∧ (m = .ring → (t.pair q).stopsRing = true ∧ (p.mode.mode.isStopped = false → p.RingStopped t))
        ∧ (m ≠ .ignore → p.LogRoom q → q ≠ .compound → ¬ ceases t → p.LogHolds t q m none true)
        ∧ (m ≠ .ignore → ¬ p.LogRoom q → t.hasEvent .logFull = true)
        ∧ (m ≠ .ignore → p.mon.log.length + 3 ≤ 32 →
          ∃ r ∈ t.mon.log, r.pair = q ∧ r.applied = m ∧ r.last = p.clock)

/-- Resume blanking, at 0 after an advance, ends, and SPREAD and every STARVE are judged: with deglitch times, those
whose input is true start to wait and the others are NOT-PRESENT, and nothing else changes. Blanking not at 0 goes on
(R126, R119, R120, R125). A share that is not owed has no effect: the model's choice (log 2). -/
def Obligations.ResumeBlankingEnds : Prop :=
  ∀ s : State, s.part.resetWait ≠ some 0 → s.part.CommitLaw →
    let p := { s.part with owed := s.part.owed.filter (· ≠ Share.blanking) }
    let judged (q : Pair) (input : Prop) (t : Part) : Prop :=
      (¬ input → (t.pair q).state = .notPresent)
        ∧ (input → (p.pair q).state = .notPresent → (t.pair q).state = .pending p.clock)
        ∧ (input → (p.pair q).state ≠ .notPresent → (t.pair q).state = (p.pair q).state)
    (Share.blanking ∉ s.part.owed → exec .resumeBlankingEnd s = .next s)
    ∧ (Share.blanking ∈ s.part.owed →
      (p.mon.blanking ≠ some 0 → exec .resumeBlankingEnd s = .next { s with part := p })
      ∧ (p.mon.blanking = some 0 → p.bank.deglitchSpread ≠ 0 → p.bank.deglitchStarve ≠ 0 →
        p.stoppedSectors ≤ p.bank.sectorStopLimit →
        ∃ t : Part, exec .resumeBlankingEnd s = .next { s with part := t }
          ∧ t.mon.blanking = none
          ∧ judged .spread (p.mode.mode ≠ .setup ∧ p.bank.spreadAlarm < p.spread) t
          ∧ (∀ k, judged (.starve k) ((p.mode.mode = .slip ∨ p.mode.mode.isHold = true)
            ∧ (∃ j, (p.jackEntry j).enabled = true ∧ p.sectorOf j = k)
            ∧ (p.sector k).top < p.sectorBottom k + p.bank.minFill) t)
          ∧ (∀ q, q ≠ .spread → q ≠ .compound → (∀ k, q ≠ .starve k) → t.pair q = p.pair q)
          ∧ t.mon.events = p.mon.events ∧ t.mon.alert = p.mon.alert
          ∧ { t with mon := p.mon } = p))

/-! ### Jacks and layers -/

/-- SPLICE-BEGIN is refused RANGE, JACK-STATE, BUSY, SECTOR-SPLICE or LIMIT, in that order; otherwise it is answered
ACK first and the jack is in SPLICE. SPLICE-END is refused RANGE or JACK-STATE; otherwise ACK, and the jack is in
CATCHUP with the rod given, to be caught up at once. The ACK is stamped before the report (log 15). MON judges what
the jack table reports: PRESSURE, SILENT, TROUBLE and ROD of each sector, which cease when the last jack stops meeting
the test and assert under their mode, with this jack as detail jack, when it comes to meet it (record, WARNED, sector
stop or ring stop; a record whose pair ceases here counts as ceased for the log's room: log 12); SPREAD, when the
jack's record has changed; and BOND and STARVE of the sectors whose layers, bottom or jacks have changed (R6, R33,
R119 to R121, R125, R127 to R129, R131, R132). In a calm part nothing else changes but MON's records, WARNED and
LOG-FULL (R14 to R16). At the end of the event a lease that this lets come to pass is granted (R148, log 39), then a
pending commit that meets quiescence decided (R160, log 6). -/
def Obligations.SpliceBeginAndEnd : Prop :=
  ∀ (s : State) (tag : Tag) (jack : Byte), s.part.Ready →
    let p := s.part.acceptAny
    (96 ≤ jack.toNat → exec (.spliceBegin tag jack) s = .next { s with part := p.deny tag 10 .range })
    ∧ (∀ rod : BitVec 16, (96 ≤ jack.toNat ∨ rod.toNat < 1 ∨ 2000 < rod.toNat) →
      exec (.spliceEnd tag jack rod) s = .next { s with part := p.deny tag 11 .range })
    ∧ ∀ h : jack.toNat < 96,
      let j : JackId := ⟨jack.toNat, h⟩
      let x := p.jack j
      let refused : Option Reason :=
        if x.state ≠ .active ∧ x.state ≠ .catchup then some .jackState
        else if (p.openOf (.jack j)).isSome ∨ (p.entryOf j).isSome then some .busy
        else if ∃ i, i ≠ j ∧ p.sectorOf i = p.sectorOf j ∧ (p.jack i).state = .splice then some .sectorSplice
        else if p.spliceCount = p.bank.spliceLimit then some .limit
        else none
      (∀ r, refused = some r → exec (.spliceBegin tag jack) s = .next { s with part := p.deny tag 10 r })
      ∧ (refused = none → p.LayerLaw →
        ∃ t u : Part, exec (.spliceBegin tag jack) s = .next { s with part := u } ∧ p.Quiesced t u
          ∧ p.Answers t ⟨0, 0, .reply, tag, p.summary, [10, 0]⟩
          ∧ p.JackChanged t j { x with state := .splice }
          ∧ (p.Calm → (p.ack tag 10).OnlyDeckMoved t))
      ∧ ∀ rod : BitVec 16, 1 ≤ rod.toNat → rod.toNat ≤ 2000 →
        (x.state ≠ .splice → exec (.spliceEnd tag jack rod) s = .next { s with part := p.deny tag 11 .jackState })
        ∧ (x.state = .splice → p.LayerLaw →
          ∃ t u : Part, exec (.spliceEnd tag jack rod) s = .next { s with part := u } ∧ p.Quiesced t u
            ∧ p.Answers t ⟨0, 0, .reply, tag, p.summary, [11, 0]⟩
            ∧ p.JackChanged t j { x with
              state := .catchup, rod := rod.toNat, rodLow := decide (rod.toNat ≤ p.bank.rodWarn) }
            ∧ (p.Calm → (p.ack tag 11).OnlyDeckMoved t))

/-- ROD-SET is refused RANGE, MODE outside SETUP and HOLD, JACK-STATE for an ABSENT jack, BUSY with an open LIFT;
POSITION-SET the same but for MODE outside SETUP. Otherwise each is answered ACK first and sets its field, ROD-SET
also rod-low reported. The ACK is stamped before the report (log 15). MON judges what the jack table reports:
PRESSURE, SILENT, TROUBLE and ROD of each sector, which cease when the last jack stops meeting the test and assert
under their mode, with this jack as detail jack, when it comes to meet it (record, WARNED, sector stop or ring stop; a
record whose pair ceases here counts as ceased for the log's room: log 12); SPREAD, when the jack's record has
changed; and BOND and STARVE of the sectors whose layers, bottom or jacks have changed (R6, R33, R119 to R121, R125,
R127 to R129, R131, R132). In a calm part nothing else changes but MON's records, WARNED and LOG-FULL (R14, R17, R18,
R9). At the end of the event a lease that this lets come to pass is granted (R148, log 39), then a pending commit that
meets quiescence decided (R160, log 6). -/
def Obligations.RodAndPositionSet : Prop :=
  ∀ (s : State) (tag : Tag) (jack : Byte) (value : BitVec 16), s.part.Ready →
    let p := s.part.acceptAny
    ((96 ≤ jack.toNat ∨ 2000 < value.toNat) →
      exec (.rodSet tag jack value) s = .next { s with part := p.deny tag 12 .range })
    ∧ (96 ≤ jack.toNat → exec (.positionSet tag jack value) s = .next { s with part := p.deny tag 15 .range })
    ∧ ∀ h : jack.toNat < 96,
      let j : JackId := ⟨jack.toNat, h⟩
      let x := p.jack j
      let refused (inMode : Bool) : Option Reason :=
        if inMode = false then some .mode
        else if x.state = .absent then some .jackState
        else if (p.openOf (.jack j)).isSome then some .busy
        else none
      let rodMode : Bool := p.mode.mode == .setup || p.mode.mode.isHold
      (value.toNat ≤ 2000 → ∀ r, refused rodMode = some r →
        exec (.rodSet tag jack value) s = .next { s with part := p.deny tag 12 r })
      ∧ (value.toNat ≤ 2000 → refused rodMode = none → p.LayerLaw →
        ∃ t u : Part, exec (.rodSet tag jack value) s = .next { s with part := u } ∧ p.Quiesced t u
          ∧ p.Answers t ⟨0, 0, .reply, tag, p.summary, [12, 0]⟩
          ∧ p.JackChanged t j { x with rod := value.toNat, rodLow := decide (value.toNat ≤ p.bank.rodWarn) }
          ∧ t.jacks = p.jacks.set j { x with rod := value.toNat, rodLow := decide (value.toNat ≤ p.bank.rodWarn) }
          ∧ (p.Calm → (p.ack tag 12).OnlyDeckMoved t))
      ∧ (∀ r, refused (p.mode.mode == .setup) = some r →
        exec (.positionSet tag jack value) s = .next { s with part := p.deny tag 15 r })
      ∧ (refused (p.mode.mode == .setup) = none → p.LayerLaw →
        ∃ t u : Part, exec (.positionSet tag jack value) s = .next { s with part := u } ∧ p.Quiesced t u
          ∧ p.Answers t ⟨0, 0, .reply, tag, p.summary, [15, 0]⟩
          ∧ p.JackChanged t j { x with position := value.toNat }
          ∧ (p.Calm → (p.ack tag 15).OnlyDeckMoved t))

/-- ISOLATE is refused RANGE outside 1..126, NO-NODE for no node of ours, WRONG-KIND for a feed node, JACK-STATE
outside ACTIVE, CATCHUP and FAULTED. Otherwise it is answered ACK first, stamped before the report (log 15), and the
jack is ISOLATED; its open LIFT takes ending reason ISOLATED unless it has one, and a STILL goes to the node. MON
judges what the jack table reports: PRESSURE, SILENT, TROUBLE and ROD of each sector, which cease when the last jack
stops meeting the test and assert under their mode, with this jack as detail jack, when it comes to meet it (record,
WARNED, sector stop or ring stop; a record whose pair ceases here counts as ceased for the log's room: log 12);
SPREAD, when the jack's record has changed; and BOND and STARVE of the sectors whose layers, bottom or jacks have
changed (R6, R33, R119 to R121, R125, R127 to R129, R131, R132). After the report, an order that is the model's choice
(log 10), a LIFT in RESEND closes with ENDED and what a close leaves (R14, R19, R72, R79, R95; the expiry guard of its
re-examination pass: log 9). In a calm part nothing else changes but MON's records, WARNED and LOG-FULL, but by that
close. At the end of the event a lease that this lets come to pass is granted (R148, log 39), then a pending commit
that meets quiescence decided (R160, log 6). -/
def Obligations.IsolateStillsJack : Prop :=
  ∀ (s : State) (tag : Tag) (node : Byte), s.part.Ready →
    let p := s.part.acceptAny
    ((node.toNat < 1 ∨ 126 < node.toNat) → exec (.isolate tag node) s = .next { s with part := p.deny tag 13 .range })
    ∧ (1 ≤ node.toNat → node.toNat ≤ 126 → p.findJack node = none →
      exec (.isolate tag node) s = .next { s with part := (
        p.deny tag 13 (if (p.findFeed node).isSome then .wrongKind else .noNode)) })
    ∧ ∀ j, 1 ≤ node.toNat → node.toNat ≤ 126 → p.findJack node = some j →
      let x := p.jack j
      ((x.state = .absent ∨ x.state = .splice ∨ x.state = .isolated) →
        exec (.isolate tag node) s = .next { s with part := p.deny tag 13 .jackState })
      ∧ (x.state ≠ .absent → x.state ≠ .splice → x.state ≠ .isolated → p.OpenLaw → p.LayerLaw →
        ∃ t u : Part, exec (.isolate tag node) s = .next { s with part := u }
          ∧ p.IsolateLeaves tag node j t ∧ p.Quiesced t u)

/-- RESTORE is refused RANGE outside 1..126 and NO-NODE for no node of ours; for a jack JACK-STATE outside FAULTED and
ISOLATED, BUSY with an open LIFT; for a feed node NODE-STATE outside FAULTED, BUSY with an open POUR. Otherwise it is
answered ACK, for a jack stamped before the report (log 15), the node's last abandoned tag is discarded, and the jack
is in CATCHUP without strikes, to be caught up at once, or the feed node READY with FEED ceased. MON judges what the
jack table reports: PRESSURE, SILENT, TROUBLE and ROD of each sector, which cease when the last jack stops meeting the
test and assert under their mode, with this jack as detail jack, when it comes to meet it (record, WARNED, sector stop
or ring stop; a record whose pair ceases here counts as ceased for the log's room: log 12); SPREAD, when the jack's
record has changed; and BOND and STARVE of the sectors whose layers, bottom or jacks have changed (R6, R33, R119 to
R121, R125, R127 to R129, R131, R132). Of a jack without rod the fault so ceases before ROD asserts (log 12). In a
calm part nothing else changes but MON's records, WARNED and LOG-FULL; the feed node's restore changes nothing else
(R14, R20, R95). At the end of the event a lease that this lets come to pass is granted (R148, log 39), then a pending
commit that meets quiescence decided (R160, log 6). -/
def Obligations.RestoreReturnsNode : Prop :=
  ∀ (s : State) (tag : Tag) (node : Byte), s.part.Ready →
    let p := s.part.acceptAny
    ((node.toNat < 1 ∨ 126 < node.toNat) → exec (.restore tag node) s = .next { s with part := p.deny tag 14 .range })
    ∧ (1 ≤ node.toNat → node.toNat ≤ 126 → p.findJack node = none → p.findFeed node = none →
      exec (.restore tag node) s = .next { s with part := p.deny tag 14 .noNode })
    ∧ (∀ j, 1 ≤ node.toNat → node.toNat ≤ 126 → p.findJack node = some j →
      let x := p.jack j
      let a := (p.jackEntry j).node
      let forgot : Part :=
        { p with xt := ⟨p.xt.table, p.xt.nodes.set a ⟨(p.nodeTags a).counter, none⟩⟩ }
      (x.state ≠ .isolated → (∀ cause, x.state ≠ .faulted cause) →
        exec (.restore tag node) s = .next { s with part := p.deny tag 14 .jackState })
      ∧ ((x.state = .isolated ∨ ∃ cause, x.state = .faulted cause) →
        (p.openOf (.jack j) ≠ none → exec (.restore tag node) s = .next { s with part := p.deny tag 14 .busy })
        ∧ (p.openOf (.jack j) = none → p.LayerLaw →
          ∃ t u : Part, exec (.restore tag node) s = .next { s with part := u } ∧ p.Quiesced t u
            ∧ p.Answers t ⟨0, 0, .reply, tag, p.summary, [14, 0]⟩
            ∧ p.JackChanged t j { x with state := .catchup, strikes := 0 }
            ∧ (t.nodeTags a).abandoned = none
            ∧ (p.Calm → (forgot.ack tag 14).OnlyDeckMoved t))))
    ∧ ∀ f, 1 ≤ node.toNat → node.toNat ≤ 126 → p.findJack node = none → p.findFeed node = some f →
      let a := (p.feedEntry f).node
      ((p.feed f).state ≠ .faulted → exec (.restore tag node) s = .next { s with part := p.deny tag 14 .nodeState })
      ∧ ((p.feed f).state = .faulted →
        (p.openOf (.feed f) ≠ none → exec (.restore tag node) s = .next { s with part := p.deny tag 14 .busy })
        ∧ (p.openOf (.feed f) = none →
          exec (.restore tag node) s = .next { s with part := ((({ p with
            feeds := p.feeds.set f ⟨.ready, (p.feed f).lastSector⟩
            xt := ⟨p.xt.table, p.xt.nodes.set a ⟨(p.nodeTags a).counter, none⟩⟩ } : Part).cease (.feed f)).ack tag 14) }))

/-- LAYER-ENTER is refused RANGE for a sector, depth, mix or age out of range, MODE outside SETUP and HOLD,
LAYERS-FULL with 16 layers held. Otherwise it is answered ACK first, stamped before OVERPOUR is raised (log 15), and a
layer placed age seconds ago stands at the top of the sector, OVERPOUR raised exactly if that top is above the form
top. LT reports the sector, and MON judges its BOND and STARVE; SPREAD stays, unless a ring stop follows (R33, R119,
R120, R125, R127 to R129, R131, R132). No other layer and no jack changes; in a calm part nothing else does but MON's
records, WARNED and LOG-FULL (R34, R30). At the end of the event a lease that this lets come to pass is granted (R148,
log 39), then a pending commit that meets quiescence decided (R160, log 6). -/
def Obligations.LayerEnterAppends : Prop :=
  ∀ (s : State) (tag : Tag) (sector : Byte) (depth : BitVec 16) (since : BitVec 24) (mix : Byte), s.part.Ready →
    let p := s.part.acceptAny
    let i : Instr := .layerEnter tag sector depth since mix
    ((24 ≤ sector.toNat ∨ depth.toNat < 1 ∨ 2000 < depth.toNat ∨ 8 ≤ mix.toNat ∨ p.clock.toNat < since.toNat) →
      exec i s = .next { s with part := p.deny tag 19 .range })
    ∧ ∀ (hk : sector.toNat < 24) (hm : mix.toNat < 8), 1 ≤ depth.toNat → depth.toNat ≤ 2000 →
      since.toNat ≤ p.clock.toNat →
      let k : SectorId := ⟨sector.toNat, hk⟩
      let placed : Clock := p.clock - since.setWidth 32
      (p.mode.mode ≠ .setup → p.mode.mode.isHold = false →
        exec i s = .next { s with part := p.deny tag 19 .mode })
      ∧ ((p.mode.mode = .setup ∨ p.mode.mode.isHold = true) →
        (16 ≤ (p.sector k).layers.length → exec i s = .next { s with part := p.deny tag 19 .layersFull })
        ∧ ((p.sector k).layers.length < 16 →
          ∃ t u : Part, exec i s = .next { s with part := u } ∧ p.Quiesced t u
            ∧ p.Answers t ⟨0, 0, .reply, tag, p.summary, [19, 0]⟩
            ∧ t.sectors = p.sectors.set k ⟨(p.sector k).floor,
              (p.sector k).layers ++ [⟨(p.sector k).top, depth.toNat, ⟨mix.toNat, hm⟩, placed, placed, .entered⟩]⟩
            ∧ t.jacks = p.jacks ∧ p.SameBase t
            ∧ (t.hasEvent .overpour = true ↔
              p.hasEvent .overpour = true ∨ p.formTop k < (p.sector k).top + depth.toNat)
            ∧ p.LayersTold t (· = k)
            ∧ (p.Calm → (if p.formTop k < (p.sector k).top + depth.toNat then
                { p.ack tag 19 with mon := { (p.ack tag 19).mon with events := (p.ack tag 19).mon.events ||| 512 } }
              else p.ack tag 19 : Part).OnlyDeckMoved t)))

/-! ### Node replies -/

/-- A LIFTED under the current tag of the open LIFT at its source moves the jack by its done count, at most the size
of the sub-transaction: position up, rod down, rod-low reported and the ROD-LOW event, pressure strikes and a PRESSURE
fault (R7, R9, R10, R70). MON judges what the jack table reports: PRESSURE, SILENT, TROUBLE and ROD of each sector,
which cease when the last jack stops meeting the test and assert under their mode, with this jack as detail jack, when
it comes to meet it (record, WARNED, sector stop or ring stop; a record whose pair ceases here counts as ceased for
the log's room: log 12); SPREAD, when the jack's record has changed; and BOND and STARVE of the sectors whose layers,
bottom or jacks have changed (R6, R33, R119 to R121, R125, R127 to R129, R131, R132). At the end of the event a lease
that this lets come to pass is granted (R148, log 39), then a pending commit that meets quiescence decided (R160, log
6). -/
def Obligations.LiftedMovesJack : Prop :=
  ∀ (s : State) (source : Byte) (tag : Tag) (done : Byte) (echo peak : BitVec 16) (j : JackId) (c : Command),
    s.part.Ready → s.part.LayerLaw →
    let p := s.part
    1 ≤ source.toNat → source.toNat ≤ 126 → p.openAt source = some c → c.task = .lift j → c.tag = tag →
    let n := min done.toNat c.size
    let x := p.jack j
    let climbs : Bool := x.state == .active || x.state == .catchup
    let high := decide (p.bank.pressureLimit < peak.toNat)
    let falls := decide (0 < n ∧ 0 < x.rod ∧ x.rod - n ≤ p.bank.rodWarn ∧ x.rodLow = false)
    let y : Jack := { x with
      position := min (x.position + n) 65535
      rod := x.rod - n
      rodLow := x.rodLow || falls
      strikes := if climbs then (if high then min (x.strikes + 1) 4 else 0) else x.strikes
      state := if climbs && high && decide (p.bank.pressureStrikes ≤ min (x.strikes + 1) 4) then .faulted .pressure
        else x.state }
    ∃ t u : Part, exec (.lifted source tag done echo peak) s = .next { s with part := u } ∧ p.Quiesced t u
      ∧ p.JackChanged t j (if x.state = JackState.absent then x else y)
      ∧ (x.state ≠ .absent → falls = true → t.hasEvent .rodLow = true)

/-- What becomes of a LIFT that has taken a LIFTED, once the jack table has reported it (what MON judges of that
report: R119 to R121, R125, R127 to R129; that a record whose pair ceases makes room first: log 12). With every stroke
done it closes, and a deck LIFT is answered LIFTED under its own tag, with all strokes, the node's echo and the
highest peak. Short, or with an ending reason (FAULTED after a PRESSURE fault; SECTOR-STOPPED or STOPPED where the
report has stopped its sector or the ring), it closes, and a deck LIFT is answered ENDED with that reason, or SHORT.
Else the next sub-transaction goes out at once under the next tag. A close frees the pump group place and has the
deferred queue re-examined (its expiry guard: log 9); MODE offers waiting jacks again, and at the close of a device
LIFT the round may end (R21, R69 to R72, R51, R54, R112, R115). With no condition that stops anything and nothing
waiting, the report itself moves the jack table, the layers, MON and the command alone. At the end of the event a
lease that this lets come to pass is granted (R148, log 39), then a pending commit that meets quiescence decided
(R160, log 6). -/
def Obligations.LiftedClosesOrContinues : Prop :=
  ∀ (s : State) (source : Byte) (tag : Tag) (done : Byte) (echo peak : BitVec 16) (j : JackId) (c : Command),
    s.part.Ready → s.part.OpenLaw → s.part.LayerLaw →
    let p := s.part
    1 ≤ source.toNat → source.toNat ≤ 126 → p.openAt source = some c → c.task = .lift j → c.tag = tag →
    ∃ t u : Part, exec (.lifted source tag done echo peak) s = .next { s with part := u }
      ∧ p.LiftedLeaves j c source done echo peak t ∧ p.Quiesced t u

/-- A reply that answers no open command but bears the last abandoned tag of its source, of its own kind, is late: a
LIFTED moves the jack kept with the tag by its done count, at most 4, and the change is reported (MON judging the
fault conditions, ROD, SPREAD, BOND and STARVE: R119 to R121; that a record whose pair ceases in the event makes room
first: log 12); a POURED is placed with the feed node kept as source, its sector reported to MON, which judges BOND
and STARVE there (R33, R120), and the deferred queue is re-examined if a layer has taken it; where that report cannot
stop anything, nothing else changes but the events and MON's records. LATE is raised, the tag forgotten. Any other
stray LIFTED or POURED raises UNSOLICITED and does nothing else (R80, R81, R93, R27 to R30, R54; a reply of the other
kind under that tag: log 17; the expiry guard of that pass: log 9; LAYERS-FULL: log 25; LATE last: log 16). At the end
of the event a lease that this lets come to pass is granted (R148, log 39), then a pending commit that meets
quiescence decided (R160, log 6). -/
def Obligations.LateAndUnsolicitedReplies : Prop :=
  ∀ (s : State) (source : Byte) (tag : Tag) (a : Addr), s.part.Ready → a.val = source.toNat → a ≠ 0 →
    let p := s.part
    let kept := (p.nodeTags a).abandoned
    let unsolicited : Host.Outcome State Fault Refusal :=
      .next { s with part := { p with mon := { p.mon with events := p.mon.events ||| 16 } } }
    (∀ (done : Byte) (echo peak : BitVec 16),
      (∀ c, p.openAt source = some c → c.tag ≠ tag ∨ c.kind ≠ .lift) →
      ((∀ j, kept ≠ some ⟨tag, .jack j⟩) → exec (.lifted source tag done echo peak) s = unsolicited)
      ∧ ∀ j, kept = some ⟨tag, .jack j⟩ → p.LayerLaw →
        ∃ t u : Part, exec (.lifted source tag done echo peak) s = .next { s with part := u } ∧ p.Quiesced t u
          ∧ p.JackChanged t j (if (p.jack j).state = JackState.absent then p.jack j
            else ((p.jack j).climb p.bank (min done.toNat 4)).strike p.bank peak.toNat)
          ∧ t.hasEvent .late = true ∧ (t.nodeTags a).abandoned = none)
    ∧ ∀ (sector : Byte) (litres : BitVec 16) (mix : Byte),
      (∀ c, p.openAt source = some c → c.tag ≠ tag ∨ c.kind ≠ .pour) →
      ((∀ f, kept ≠ some ⟨tag, .feed f⟩) → exec (.poured source tag sector litres mix) s = unsolicited)
      ∧ ∀ f, kept = some ⟨tag, .feed f⟩ → p.openOf (.feed f) = none →
        ∃ t u : Part, exec (.poured source tag sector litres mix) s = .next { s with part := u } ∧ p.Quiesced t u
          ∧ p.Placed t f sector litres.toNat mix False (24 ≤ sector.toNat ∨ 8 ≤ mix.toNat
              ∨ ∃ k, (p.feed f).lastSector = some k ∧ k.val ≠ sector.toNat)
          ∧ (t.feed f).state = (p.feed f).state ∧ t.hasEvent .late = true ∧ (t.nodeTags a).abandoned = none
          ∧ p.PassedOnPlacement t sector litres.toNat (some a)

/-- A POURED under the current tag of the open POUR at its source returns a POURING feed node to READY with FEED
ceased; the litres go to the sector and mix it names, with MISROUTE or OVERPOUR where they disagree, and the
placement's own OVERPOUR and LAYERS-FULL (log 25). LT reports the sector that took them: MON judges BOND and STARVE
there (R33, R120) and the deferred queue is re-examined; where that report cannot stop anything, the mode record,
supervision, the other feed nodes, the other commands, the tags and the queues stay but for that pass. The deck then
gets the POURED under its own tag, and the command closes: the deferred queue is re-examined (its expiry guard: log 9)
and MODE told (R73, R90, R92, R27, R29, R30, R54, R72). At the end of the event a lease that this lets come to pass is
granted (R148, log 39), then a pending commit that meets quiescence decided (R160, log 6). -/
def Obligations.PouredPlacesAndCloses : Prop :=
  ∀ (s : State) (source : Byte) (tag : Tag) (sector : Byte) (litres : BitVec 16) (mix : Byte) (f : FeedId)
    (k : SectorId) (c : Command), s.part.Ready → s.part.OpenLaw →
    let p := s.part
    1 ≤ source.toNat → source.toNat ≤ 126 → p.openAt source = some c → c.task = .pour f k → c.tag = tag →
    ∃ t u : Part, exec (.poured source tag sector litres mix) s = .next { s with part := u }
      ∧ p.PouredLeaves f k c source sector litres mix t ∧ p.Quiesced t u

/-- The depth of a placement is V × 1 000 000 / (length × thickness) rounded up. It grows the newest layer when the
mix is the same, the interval and the depth allow, or 16 layers are held, up to 65 535 mm, the last placed becoming
now; else it is a new layer upon the sector top (R27 to R29). Retirement at a bottom takes from the front every layer
whose top is at or below it, up to the first whose top is above; the floor becomes the top of the last one taken, and
at least the bottom when no layer is left (R31). The exit layer of a height is the one whose base is below it and
whose top is at or above it; there is none at or below the floor, above the top, or with no layers (R35). The young
test holds when there is an exit layer placed last less than the min exit age of its mix ago (R36). -/
def Obligations.PlacementsGrowOrAppend : Prop :=
  (∀ (e : SectorEntry) (litres : Nat), e.configured = true →
    litres * 1000000 ≤ depthOf e litres * (e.length * e.thickness)
      ∧ depthOf e litres * (e.length * e.thickness) < litres * 1000000 + e.length * e.thickness)
  ∧ (∀ (x : Sector) (now : Clock) (interval depth : Nat) (mix : MixId) (f : FeedId),
    (x.layers = [] → x.place now interval depth mix f = ⟨x.floor, [⟨x.floor, depth, mix, now, now, .feed f⟩]⟩)
    ∧ ∀ (rest : List Layer) (l : Layer), x.layers = rest ++ [l] →
      let merges := l.mix = mix ∧ (now - l.last).toNat ≤ interval ∧ l.depth + depth ≤ 65535
      ((merges ∨ 16 ≤ rest.length + 1) → x.place now interval depth mix f
        = ⟨x.floor, rest ++ [{ l with depth := min (l.depth + depth) 65535, last := now }]⟩)
      ∧ (¬ merges → rest.length + 1 < 16 → x.place now interval depth mix f
        = ⟨x.floor, x.layers ++ [⟨l.base + l.depth, depth, mix, now, now, .feed f⟩]⟩))
  ∧ (∀ (x : Sector) (bottom : Nat), ∃ gone kept : List Layer, x.layers = gone ++ kept
      ∧ (∀ l ∈ gone, l.base + l.depth ≤ bottom) ∧ (∀ l, kept.head? = some l → bottom < l.base + l.depth)
      ∧ let wall : Nat := match gone.getLast? with | some l => l.base + l.depth | none => x.floor
        x.retire bottom = ⟨if kept = [] then max wall bottom else wall, kept⟩)
  ∧ (∀ (x : Sector) (h : Nat),
      (∀ l, x.Lawful → (x.exitLayer h = some l ↔ l ∈ x.layers ∧ l.base < h ∧ h ≤ l.base + l.depth))
      ∧ (x.exitLayer h = none ↔ ∀ l ∈ x.layers, ¬ (l.base < h ∧ h ≤ l.base + l.depth))
      ∧ (x.Lawful → (h ≤ x.floor ∨ x.top < h ∨ x.layers = []) → x.exitLayer h = none))
  ∧ ∀ (p : Part) (k : SectorId) (h : Nat), p.young k h = true ↔
      ∃ l, (p.sector k).exitLayer h = some l ∧ age p.clock l.last < (p.mixEntry l.mix).minExit

/-- A WAIT under the current tag, in SENT: with an ending reason the command closes with it; below the retry limit one
retry more is used and the command goes to RESEND; at the limit NODE-BUSY is raised, before the close (log 16), and it
closes NODE-BUSY. The close answers a deck command ENDED, frees its place or its feed node, has the deferred queue
examined (the expiry guard of that pass: log 9) and tells MODE. Any other WAIT raises UNSOLICITED. Two seconds after
the WAIT the same frame goes out again, in SENT from now; before that, and with no share owed (the model's choice, log
2), nothing does (R54, R71, R72, R76, R77, R79, R81, R91, R112). At the end of the event a lease that this lets come
to pass is granted (R148, log 39), then a pending commit that meets quiescence decided (R160, log 6). -/
def Obligations.WaitResendsOrCloses : Prop :=
  (∀ (s : State) (source : Byte) (tag : Tag), s.part.Ready → 1 ≤ source.toNat → source.toNat ≤ 126 →
    let p := s.part
    ((∀ c, p.openAt source = some c → c.tag ≠ tag ∨ c.phase = .resend) →
      exec (.wait source tag) s = .next { s with part := { p with
        mon := { p.mon with events := p.mon.events ||| 16 } } })
    ∧ ∀ c, p.openAt source = some c → c.tag = tag → c.phase = .sent →
      (c.ending = none → c.retries < p.bank.retryLimit →
        exec (.wait source tag) s = .next { s with part := { p with
          xt := ⟨p.xt.table.map fun d => if d.subject = c.subject
              then { c with retries := c.retries + 1, phase := .resend, sent := p.clock } else d, p.xt.nodes⟩ } })
      ∧ (p.OpenLaw → (c.ending ≠ none ∨ p.bank.retryLimit ≤ c.retries) →
        ∃ u : Part, exec (.wait source tag) s = .next { s with part := u } ∧ p.Quiesced (p.waitClosed c) u))
  ∧ ∀ (s : State) (node : Byte), s.part.resetWait ≠ some 0 → s.part.CommitLaw →
    let p := s.part
    ((Share.transactions ∉ p.owed ∨ (∀ c, p.openAt node = some c → c.phase = .sent ∨ age p.clock c.sent ≠ 2)) →
      exec (.resendDue node) s = .next s)
    ∧ ∀ c, Share.transactions ∈ p.owed → p.openAt node = some c → c.phase = .resend → age p.clock c.sent = 2 →
      exec (.resendDue node) s = .next { s with part := { p with
        xt := ⟨p.xt.table.map fun d => if d.subject = c.subject
            then { c with phase := .sent, sent := p.clock } else d, p.xt.nodes⟩
        ringQueue := p.ringQueue ++ [⟨⟨node, 0, c.kind, c.tag, 0,
          match c.task with
          | .lift _ => [octet c.size]
          | .pour _ k => octet k.val :: octets2 c.size⟩, false⟩] } }

/-- A STATE gives a jack that is not ABSENT its depth, when that is 1 to 4, and is forwarded to the deck with source,
tag and payload. A TROUBLE faults a jack that climbs, with cause TROUBLE, its open LIFT taking ending reason FAULTED
unless it has one, or a feed node that is not FAULTED, with FEED present (its record or one repeat more, WARNED, a
ring stop by R105 and log 11); it faults nothing else. MON judges what the jack table reports: PRESSURE, SILENT,
TROUBLE and ROD of each sector, which cease when the last jack stops meeting the test and assert under their mode,
with this jack as detail jack, when it comes to meet it (record, WARNED, sector stop or ring stop; a record whose pair
ceases here counts as ceased for the log's room: log 12); SPREAD, when the jack's record has changed; and BOND and
STARVE of the sectors whose layers, bottom or jacks have changed (R6, R33, R119 to R121, R125, R127 to R129, R131,
R132). After the report, an order that is the model's choice (log 10), a LIFT of the jack in RESEND closes with ENDED
and what a close leaves (R72, R79; log 9); a lease that this lets come to pass is granted (R148, log 39), and then the
TROUBLE is forwarded. A TROUBLE that faults nothing is forwarded and changes nothing else; in a calm part the report
of a jack's fault moves the jack table, the layers and MON's records alone, and a feed node's fault, unless a
RING-mode FEED stops the ring, the node and MON's records alone (R11, R23, R91, R94, R172). A pending commit that then
meets quiescence is decided at the end of the event (R160, log 6). -/
def Obligations.NodeStateAndTrouble : Prop :=
  ∀ (s : State) (source : Byte) (tag : Tag), s.part.Ready → 1 ≤ source.toNat → source.toNat ≤ 126 →
    let p := s.part
    (∀ (echo pressure : BitVec 16) (depth code : Byte),
      exec (.nodeState source tag echo depth pressure code) s = .next { s with part := ((
        match p.findJack source with
        | some j =>
          if (p.jack j).state ≠ JackState.absent ∧ 1 ≤ depth.toNat ∧ depth.toNat ≤ 4 then
            { p with jacks := p.jacks.set j { p.jack j with depth := depth.toNat } }
          else p
        | none => p).emit .state source tag (be16 echo ++ [depth] ++ be16 pressure ++ [code])) })
    ∧ ∀ code : Byte,
      ((∀ j, p.findJack source = some j → (p.jack j).state ≠ .active ∧ (p.jack j).state ≠ .catchup) →
        (p.findJack source = none → ∀ f, p.findFeed source = some f → (p.feed f).state = .faulted) →
        exec (.trouble source tag code) s = .next { s with part := p.emit .trouble source tag [code] })
      ∧ (∀ j, p.findJack source = some j → ((p.jack j).state = .active ∨ (p.jack j).state = .catchup) →
        p.OpenLaw → p.LayerLaw →
        ∃ t u : Part, exec (.trouble source tag code) s = .next { s with part := u }
          ∧ p.TroubleLeaves source tag code j t ∧ p.Quiesced t u)
      ∧ ∀ f, p.findJack source = none → p.findFeed source = some f → (p.feed f).state ≠ .faulted →
        ∃ r u : Part, exec (.trouble source tag code) s = .next { s with part := u }
          ∧ p.FeedFaulted r f ∧ p.Quiesced ((p.leaseGranted r).emit .trouble source tag [code]) u

/-- A command in SENT that reaches its time limit at an advance, and one whose own frame returns untaken, closes: its
tag is the node's last abandoned tag, a deck command is answered ENDED TIMEOUT first, a jack that climbs is FAULTED
SILENT, a feed node FAULTED with FEED present (R91), asserting under its mode where it was not (record, WARNED, or a
ring stop by R105 and log 11). MON judges what the jack table reports: PRESSURE, SILENT, TROUBLE and ROD of each
sector, which cease when the last jack stops meeting the test and assert under their mode, with this jack as detail
jack, when it comes to meet it (record, WARNED, sector stop or ring stop; a record whose pair ceases here counts as
ceased for the log's room: log 12); SPREAD, when the jack's record has changed; and BOND and STARVE of the sectors
whose layers, bottom or jacks have changed (R6, R33, R119 to R121, R125, R127 to R129, R131, R132). With no condition
that stops anything and nothing waiting, the fault moves the jack table, the layers and MON's records alone; a feed
node's, unless a RING-mode FEED stops the ring, the node and MON's records. Then the close leaves what a close leaves:
a place of the pump group free, the deferred queue re-examined (its expiry guard: log 9), MODE told (R51, R54, R72).
Before the limit, and for a frame of no open command, nothing happens (R74, R75, R82, R22), nor with no share owed
(the model's choice, log 2). At the end of the event a lease that this lets come to pass is granted (R148, log 39),
then a pending commit that meets quiescence decided (R160, log 6). -/
def Obligations.SilentNodesTimeOut : Prop :=
  let closes (p : Part) (node : Byte) (c : Command) (u : Part) : Prop :=
    ∃ t : Part, p.SilentLeaves node c t ∧ p.Quiesced t u
  (∀ (s : State) (node : Byte), s.part.resetWait ≠ some 0 →
    let p := s.part
    let limit (c : Command) : Nat :=
      match c.task with
      | .lift _ => p.bank.strokeTime * c.size
      | .pour _ _ => p.bank.feedTime
    (p.CommitLaw → (Share.transactions ∉ p.owed
        ∨ ∀ c, p.openAt node = some c → c.phase = .resend ∨ age p.clock c.sent ≠ limit c) →
      exec (.subTransactionTimeout node) s = .next s)
    ∧ ∀ c, p.OpenLaw → p.LayerLaw → Share.transactions ∈ p.owed → p.openAt node = some c →
      c.phase = .sent → age p.clock c.sent = limit c →
      ∃ u : Part, exec (.subTransactionTimeout node) s = .next { s with part := u } ∧ closes p node c u)
  ∧ ∀ (s : State) (kind : Kind) (node : Byte) (tag : Tag), s.part.Ready →
    let p := s.part
    ((∀ c, p.openAt node = some c → c.kind ≠ kind ∨ c.tag ≠ tag) →
      exec (.unclaimedLiftPour kind node tag) s = .next s)
    ∧ ∀ c, p.OpenLaw → p.LayerLaw → p.openAt node = some c → c.kind = kind → c.tag = tag →
      ∃ u : Part, exec (.unclaimedLiftPour kind node tag) s = .next { s with part := u } ∧ closes p node c u

/-! ### The laws every step keeps -/

/-- Every step keeps the outputs true to the state: STOP OUT asserted exactly in STOPPED and in reset, ALERT set
exactly while the ring or a sector is stopped (R106, R135), and the part at its reset values while the RESET line is
held (R182). -/
def Obligations.StepKeepsStopOutAndAlert : Prop :=
  ∀ s t : State, s.part.HeldLaw → s.part.StopOutLaw → s.part.AlertLaw → step s = .next t →
    t.part.HeldLaw ∧ t.part.StopOutLaw ∧ t.part.AlertLaw

/-- Every step keeps each of these laws: at most 256 frames wait for the deck and 16 passed through for the ring
(R175, R171); bits 14 and 15 of the event set are 0 (R178); the fault log holds at most 32 records, none of one pair
twice (R131); the stored sum is the active bank's table sum (R152); in SLIP the lease state is NONE (R100, R102,
R147), and a lease is PENDING only while a round is in progress or a round command is open, so that the end of creep
grants it (R116, R147, R148; that a round left with no open command ends: log 11). After every step a pending commit
waits for an open command (R160). -/
def Obligations.StepKeepsRecordLaws : Prop :=
  ∀ s t : State, step s = .next t →
    (s.part.PortLaw → t.part.PortLaw) ∧ (s.part.EventLaw → t.part.EventLaw) ∧ (s.part.LogLaw → t.part.LogLaw)
      ∧ (s.part.SumLaw → t.part.SumLaw) ∧ (s.part.LeaseLaw → t.part.LeaseLaw) ∧ t.part.CommitLaw

/-- Every step keeps each of these laws: in every sector at most 16 layers, the oldest upon the floor, each later one
upon the one before it, each 1 to 65 535 mm deep (R24); every jack record in its ranges, position at most 65 535, rod
at most 2000, depth 1 to 4, strikes at most 4 (R1); at most one jack of a sector in SPLICE, in all no more than the
ring splice limit, and no open or deferred LIFT for a jack in SPLICE or ABSENT (R15). -/
def Obligations.StepKeepsTableLaws : Prop :=
  ∀ s t : State, step s = .next t →
    (s.part.LayerLaw → t.part.LayerLaw) ∧ (s.part.JackLaw → t.part.JackLaw) ∧ (s.part.SpliceLaw → t.part.SpliceLaw)

/-- Every step keeps the laws of admission and of the open commands together: at most 32 deferred entries, of 32
different jacks, none outside SLIP (R53, R57); at most 64 open commands (R65); no jack with two LIFTs, open or
deferred (R43); each pump group's occupancy the number of its jacks' open LIFTs, and never above its capacity (R51); a
feed node with at most one POUR open, with one while it is POURING, and POURING or FAULTED while it has one (R65,
R85); round commands the number of open LIFTs of origin DEVICE (R97). -/
def Obligations.StepKeepsAdmissionLaws : Prop :=
  ∀ s t : State, s.part.DeferredLaw → s.part.OpenLaw → s.part.GroupLaw → s.part.FeedLaw → s.part.RoundLaw →
    step s = .next t →
    t.part.DeferredLaw ∧ t.part.OpenLaw ∧ t.part.GroupLaw ∧ t.part.FeedLaw ∧ t.part.RoundLaw

/-- The machine right after reset keeps every law that the statements above carry from step to step. -/
def Obligations.ResetKeepsLaws : Prop :=
  let p := State.reset.part
  p.HeldLaw ∧ p.StopOutLaw ∧ p.AlertLaw ∧ p.PortLaw ∧ p.EventLaw ∧ p.LogLaw ∧ p.SumLaw ∧ p.CommitLaw ∧ p.LayerLaw
    ∧ p.JackLaw ∧ p.DeferredLaw ∧ p.OpenLaw ∧ p.GroupLaw ∧ p.FeedLaw ∧ p.RoundLaw ∧ p.LeaseLaw ∧ p.SpliceLaw

end
end

