-- ==== Sys2Proof/Laws/State.lean ====
section
/-! SUPPORT. What every single update does to every field of the part: the field it changes, and the others, which
it leaves. All by rfl, so that no proof unfolds a record update. -/

namespace Sys2Proof.Machine

section
variable (p : Part)

@[simp] theorem Part.setJack_jacks (j : JackId) (x : Jack) : (p.setJack j x).jacks = p.jacks.set j x := rfl
@[simp] theorem Part.setJack_sectors (j : JackId) (x : Jack) : (p.setJack j x).sectors = p.sectors := rfl
@[simp] theorem Part.setJack_adm (j : JackId) (x : Jack) : (p.setJack j x).adm = p.adm := rfl
@[simp] theorem Part.setJack_xt (j : JackId) (x : Jack) : (p.setJack j x).xt = p.xt := rfl
@[simp] theorem Part.setJack_feeds (j : JackId) (x : Jack) : (p.setJack j x).feeds = p.feeds := rfl
@[simp] theorem Part.setJack_mode (j : JackId) (x : Jack) : (p.setJack j x).mode = p.mode := rfl
@[simp] theorem Part.setJack_mon (j : JackId) (x : Jack) : (p.setJack j x).mon = p.mon := rfl
@[simp] theorem Part.setJack_sup (j : JackId) (x : Jack) : (p.setJack j x).sup = p.sup := rfl
@[simp] theorem Part.setJack_cfg (j : JackId) (x : Jack) : (p.setJack j x).cfg = p.cfg := rfl
@[simp] theorem Part.setJack_clock (j : JackId) (x : Jack) : (p.setJack j x).clock = p.clock := rfl
@[simp] theorem Part.setJack_resetCause (j : JackId) (x : Jack) : (p.setJack j x).resetCause = p.resetCause := rfl
@[simp] theorem Part.setJack_resetWait (j : JackId) (x : Jack) : (p.setJack j x).resetWait = p.resetWait := rfl
@[simp] theorem Part.setJack_sendQueue (j : JackId) (x : Jack) : (p.setJack j x).sendQueue = p.sendQueue := rfl
@[simp] theorem Part.setJack_ringQueue (j : JackId) (x : Jack) : (p.setJack j x).ringQueue = p.ringQueue := rfl
@[simp] theorem Part.setJack_stopIn (j : JackId) (x : Jack) : (p.setJack j x).stopIn = p.stopIn := rfl
@[simp] theorem Part.setJack_resetLine (j : JackId) (x : Jack) : (p.setJack j x).resetLine = p.resetLine := rfl
@[simp] theorem Part.setJack_stopOut (j : JackId) (x : Jack) : (p.setJack j x).stopOut = p.stopOut := rfl
@[simp] theorem Part.setJack_owed (j : JackId) (x : Jack) : (p.setJack j x).owed = p.owed := rfl
@[simp] theorem Part.setJack_order (j : JackId) (x : Jack) : (p.setJack j x).order = p.order := rfl

@[simp] theorem Part.setSector_jacks (k : SectorId) (x : Sector) : (p.setSector k x).jacks = p.jacks := rfl
@[simp] theorem Part.setSector_sectors (k : SectorId) (x : Sector) : (p.setSector k x).sectors = p.sectors.set k x := rfl
@[simp] theorem Part.setSector_adm (k : SectorId) (x : Sector) : (p.setSector k x).adm = p.adm := rfl
@[simp] theorem Part.setSector_xt (k : SectorId) (x : Sector) : (p.setSector k x).xt = p.xt := rfl
@[simp] theorem Part.setSector_feeds (k : SectorId) (x : Sector) : (p.setSector k x).feeds = p.feeds := rfl
@[simp] theorem Part.setSector_mode (k : SectorId) (x : Sector) : (p.setSector k x).mode = p.mode := rfl
@[simp] theorem Part.setSector_mon (k : SectorId) (x : Sector) : (p.setSector k x).mon = p.mon := rfl
@[simp] theorem Part.setSector_sup (k : SectorId) (x : Sector) : (p.setSector k x).sup = p.sup := rfl
@[simp] theorem Part.setSector_cfg (k : SectorId) (x : Sector) : (p.setSector k x).cfg = p.cfg := rfl
@[simp] theorem Part.setSector_clock (k : SectorId) (x : Sector) : (p.setSector k x).clock = p.clock := rfl
@[simp] theorem Part.setSector_resetCause (k : SectorId) (x : Sector) : (p.setSector k x).resetCause = p.resetCause := rfl
@[simp] theorem Part.setSector_resetWait (k : SectorId) (x : Sector) : (p.setSector k x).resetWait = p.resetWait := rfl
@[simp] theorem Part.setSector_sendQueue (k : SectorId) (x : Sector) : (p.setSector k x).sendQueue = p.sendQueue := rfl
@[simp] theorem Part.setSector_ringQueue (k : SectorId) (x : Sector) : (p.setSector k x).ringQueue = p.ringQueue := rfl
@[simp] theorem Part.setSector_stopIn (k : SectorId) (x : Sector) : (p.setSector k x).stopIn = p.stopIn := rfl
@[simp] theorem Part.setSector_resetLine (k : SectorId) (x : Sector) : (p.setSector k x).resetLine = p.resetLine := rfl
@[simp] theorem Part.setSector_stopOut (k : SectorId) (x : Sector) : (p.setSector k x).stopOut = p.stopOut := rfl
@[simp] theorem Part.setSector_owed (k : SectorId) (x : Sector) : (p.setSector k x).owed = p.owed := rfl
@[simp] theorem Part.setSector_order (k : SectorId) (x : Sector) : (p.setSector k x).order = p.order := rfl

@[simp] theorem Part.setFeed_jacks (f : FeedId) (x : Feed) : (p.setFeed f x).jacks = p.jacks := rfl
@[simp] theorem Part.setFeed_sectors (f : FeedId) (x : Feed) : (p.setFeed f x).sectors = p.sectors := rfl
@[simp] theorem Part.setFeed_adm (f : FeedId) (x : Feed) : (p.setFeed f x).adm = p.adm := rfl
@[simp] theorem Part.setFeed_xt (f : FeedId) (x : Feed) : (p.setFeed f x).xt = p.xt := rfl
@[simp] theorem Part.setFeed_feeds (f : FeedId) (x : Feed) : (p.setFeed f x).feeds = p.feeds.set f x := rfl
@[simp] theorem Part.setFeed_mode (f : FeedId) (x : Feed) : (p.setFeed f x).mode = p.mode := rfl
@[simp] theorem Part.setFeed_mon (f : FeedId) (x : Feed) : (p.setFeed f x).mon = p.mon := rfl
@[simp] theorem Part.setFeed_sup (f : FeedId) (x : Feed) : (p.setFeed f x).sup = p.sup := rfl
@[simp] theorem Part.setFeed_cfg (f : FeedId) (x : Feed) : (p.setFeed f x).cfg = p.cfg := rfl
@[simp] theorem Part.setFeed_clock (f : FeedId) (x : Feed) : (p.setFeed f x).clock = p.clock := rfl
@[simp] theorem Part.setFeed_resetCause (f : FeedId) (x : Feed) : (p.setFeed f x).resetCause = p.resetCause := rfl
@[simp] theorem Part.setFeed_resetWait (f : FeedId) (x : Feed) : (p.setFeed f x).resetWait = p.resetWait := rfl
@[simp] theorem Part.setFeed_sendQueue (f : FeedId) (x : Feed) : (p.setFeed f x).sendQueue = p.sendQueue := rfl
@[simp] theorem Part.setFeed_ringQueue (f : FeedId) (x : Feed) : (p.setFeed f x).ringQueue = p.ringQueue := rfl
@[simp] theorem Part.setFeed_stopIn (f : FeedId) (x : Feed) : (p.setFeed f x).stopIn = p.stopIn := rfl
@[simp] theorem Part.setFeed_resetLine (f : FeedId) (x : Feed) : (p.setFeed f x).resetLine = p.resetLine := rfl
@[simp] theorem Part.setFeed_stopOut (f : FeedId) (x : Feed) : (p.setFeed f x).stopOut = p.stopOut := rfl
@[simp] theorem Part.setFeed_owed (f : FeedId) (x : Feed) : (p.setFeed f x).owed = p.owed := rfl
@[simp] theorem Part.setFeed_order (f : FeedId) (x : Feed) : (p.setFeed f x).order = p.order := rfl

@[simp] theorem Part.setPair_jacks (q : Pair) (r : PairRecord) : (p.setPair q r).jacks = p.jacks := rfl
@[simp] theorem Part.setPair_sectors (q : Pair) (r : PairRecord) : (p.setPair q r).sectors = p.sectors := rfl
@[simp] theorem Part.setPair_adm (q : Pair) (r : PairRecord) : (p.setPair q r).adm = p.adm := rfl
@[simp] theorem Part.setPair_xt (q : Pair) (r : PairRecord) : (p.setPair q r).xt = p.xt := rfl
@[simp] theorem Part.setPair_feeds (q : Pair) (r : PairRecord) : (p.setPair q r).feeds = p.feeds := rfl
@[simp] theorem Part.setPair_mode (q : Pair) (r : PairRecord) : (p.setPair q r).mode = p.mode := rfl
@[simp] theorem Part.setPair_mon (q : Pair) (r : PairRecord) : (p.setPair q r).mon = { p.mon with pairs := p.mon.pairs.set (pairIndex q) r } := rfl
@[simp] theorem Part.setPair_sup (q : Pair) (r : PairRecord) : (p.setPair q r).sup = p.sup := rfl
@[simp] theorem Part.setPair_cfg (q : Pair) (r : PairRecord) : (p.setPair q r).cfg = p.cfg := rfl
@[simp] theorem Part.setPair_clock (q : Pair) (r : PairRecord) : (p.setPair q r).clock = p.clock := rfl
@[simp] theorem Part.setPair_resetCause (q : Pair) (r : PairRecord) : (p.setPair q r).resetCause = p.resetCause := rfl
@[simp] theorem Part.setPair_resetWait (q : Pair) (r : PairRecord) : (p.setPair q r).resetWait = p.resetWait := rfl
@[simp] theorem Part.setPair_sendQueue (q : Pair) (r : PairRecord) : (p.setPair q r).sendQueue = p.sendQueue := rfl
@[simp] theorem Part.setPair_ringQueue (q : Pair) (r : PairRecord) : (p.setPair q r).ringQueue = p.ringQueue := rfl
@[simp] theorem Part.setPair_stopIn (q : Pair) (r : PairRecord) : (p.setPair q r).stopIn = p.stopIn := rfl
@[simp] theorem Part.setPair_resetLine (q : Pair) (r : PairRecord) : (p.setPair q r).resetLine = p.resetLine := rfl
@[simp] theorem Part.setPair_stopOut (q : Pair) (r : PairRecord) : (p.setPair q r).stopOut = p.stopOut := rfl
@[simp] theorem Part.setPair_owed (q : Pair) (r : PairRecord) : (p.setPair q r).owed = p.owed := rfl
@[simp] theorem Part.setPair_order (q : Pair) (r : PairRecord) : (p.setPair q r).order = p.order := rfl

@[simp] theorem Part.setPairState_jacks (q : Pair) (x : PairState) : (p.setPairState q x).jacks = p.jacks := rfl
@[simp] theorem Part.setPairState_sectors (q : Pair) (x : PairState) : (p.setPairState q x).sectors = p.sectors := rfl
@[simp] theorem Part.setPairState_adm (q : Pair) (x : PairState) : (p.setPairState q x).adm = p.adm := rfl
@[simp] theorem Part.setPairState_xt (q : Pair) (x : PairState) : (p.setPairState q x).xt = p.xt := rfl
@[simp] theorem Part.setPairState_feeds (q : Pair) (x : PairState) : (p.setPairState q x).feeds = p.feeds := rfl
@[simp] theorem Part.setPairState_mode (q : Pair) (x : PairState) : (p.setPairState q x).mode = p.mode := rfl
@[simp] theorem Part.setPairState_mon (q : Pair) (x : PairState) : (p.setPairState q x).mon = { p.mon with pairs := p.mon.pairs.set (pairIndex q) { p.pair q with state := x } } := rfl
@[simp] theorem Part.setPairState_sup (q : Pair) (x : PairState) : (p.setPairState q x).sup = p.sup := rfl
@[simp] theorem Part.setPairState_cfg (q : Pair) (x : PairState) : (p.setPairState q x).cfg = p.cfg := rfl
@[simp] theorem Part.setPairState_clock (q : Pair) (x : PairState) : (p.setPairState q x).clock = p.clock := rfl
@[simp] theorem Part.setPairState_resetCause (q : Pair) (x : PairState) : (p.setPairState q x).resetCause = p.resetCause := rfl
@[simp] theorem Part.setPairState_resetWait (q : Pair) (x : PairState) : (p.setPairState q x).resetWait = p.resetWait := rfl
@[simp] theorem Part.setPairState_sendQueue (q : Pair) (x : PairState) : (p.setPairState q x).sendQueue = p.sendQueue := rfl
@[simp] theorem Part.setPairState_ringQueue (q : Pair) (x : PairState) : (p.setPairState q x).ringQueue = p.ringQueue := rfl
@[simp] theorem Part.setPairState_stopIn (q : Pair) (x : PairState) : (p.setPairState q x).stopIn = p.stopIn := rfl
@[simp] theorem Part.setPairState_resetLine (q : Pair) (x : PairState) : (p.setPairState q x).resetLine = p.resetLine := rfl
@[simp] theorem Part.setPairState_stopOut (q : Pair) (x : PairState) : (p.setPairState q x).stopOut = p.stopOut := rfl
@[simp] theorem Part.setPairState_owed (q : Pair) (x : PairState) : (p.setPairState q x).owed = p.owed := rfl
@[simp] theorem Part.setPairState_order (q : Pair) (x : PairState) : (p.setPairState q x).order = p.order := rfl

@[simp] theorem Part.raise_jacks (e : EventKind) : (p.raise e).jacks = p.jacks := rfl
@[simp] theorem Part.raise_sectors (e : EventKind) : (p.raise e).sectors = p.sectors := rfl
@[simp] theorem Part.raise_adm (e : EventKind) : (p.raise e).adm = p.adm := rfl
@[simp] theorem Part.raise_xt (e : EventKind) : (p.raise e).xt = p.xt := rfl
@[simp] theorem Part.raise_feeds (e : EventKind) : (p.raise e).feeds = p.feeds := rfl
@[simp] theorem Part.raise_mode (e : EventKind) : (p.raise e).mode = p.mode := rfl
@[simp] theorem Part.raise_mon (e : EventKind) : (p.raise e).mon = { p.mon with events := p.mon.events ||| (1 <<< e.bit) } := rfl
@[simp] theorem Part.raise_sup (e : EventKind) : (p.raise e).sup = p.sup := rfl
@[simp] theorem Part.raise_cfg (e : EventKind) : (p.raise e).cfg = p.cfg := rfl
@[simp] theorem Part.raise_clock (e : EventKind) : (p.raise e).clock = p.clock := rfl
@[simp] theorem Part.raise_resetCause (e : EventKind) : (p.raise e).resetCause = p.resetCause := rfl
@[simp] theorem Part.raise_resetWait (e : EventKind) : (p.raise e).resetWait = p.resetWait := rfl
@[simp] theorem Part.raise_sendQueue (e : EventKind) : (p.raise e).sendQueue = p.sendQueue := rfl
@[simp] theorem Part.raise_ringQueue (e : EventKind) : (p.raise e).ringQueue = p.ringQueue := rfl
@[simp] theorem Part.raise_stopIn (e : EventKind) : (p.raise e).stopIn = p.stopIn := rfl
@[simp] theorem Part.raise_resetLine (e : EventKind) : (p.raise e).resetLine = p.resetLine := rfl
@[simp] theorem Part.raise_stopOut (e : EventKind) : (p.raise e).stopOut = p.stopOut := rfl
@[simp] theorem Part.raise_owed (e : EventKind) : (p.raise e).owed = p.owed := rfl
@[simp] theorem Part.raise_order (e : EventKind) : (p.raise e).order = p.order := rfl

@[simp] theorem Part.setLog_jacks (l : List LogRecord) : (p.setLog l).jacks = p.jacks := rfl
@[simp] theorem Part.setLog_sectors (l : List LogRecord) : (p.setLog l).sectors = p.sectors := rfl
@[simp] theorem Part.setLog_adm (l : List LogRecord) : (p.setLog l).adm = p.adm := rfl
@[simp] theorem Part.setLog_xt (l : List LogRecord) : (p.setLog l).xt = p.xt := rfl
@[simp] theorem Part.setLog_feeds (l : List LogRecord) : (p.setLog l).feeds = p.feeds := rfl
@[simp] theorem Part.setLog_mode (l : List LogRecord) : (p.setLog l).mode = p.mode := rfl
@[simp] theorem Part.setLog_mon (l : List LogRecord) : (p.setLog l).mon = { p.mon with log := l } := rfl
@[simp] theorem Part.setLog_sup (l : List LogRecord) : (p.setLog l).sup = p.sup := rfl
@[simp] theorem Part.setLog_cfg (l : List LogRecord) : (p.setLog l).cfg = p.cfg := rfl
@[simp] theorem Part.setLog_clock (l : List LogRecord) : (p.setLog l).clock = p.clock := rfl
@[simp] theorem Part.setLog_resetCause (l : List LogRecord) : (p.setLog l).resetCause = p.resetCause := rfl
@[simp] theorem Part.setLog_resetWait (l : List LogRecord) : (p.setLog l).resetWait = p.resetWait := rfl
@[simp] theorem Part.setLog_sendQueue (l : List LogRecord) : (p.setLog l).sendQueue = p.sendQueue := rfl
@[simp] theorem Part.setLog_ringQueue (l : List LogRecord) : (p.setLog l).ringQueue = p.ringQueue := rfl
@[simp] theorem Part.setLog_stopIn (l : List LogRecord) : (p.setLog l).stopIn = p.stopIn := rfl
@[simp] theorem Part.setLog_resetLine (l : List LogRecord) : (p.setLog l).resetLine = p.resetLine := rfl
@[simp] theorem Part.setLog_stopOut (l : List LogRecord) : (p.setLog l).stopOut = p.stopOut := rfl
@[simp] theorem Part.setLog_owed (l : List LogRecord) : (p.setLog l).owed = p.owed := rfl
@[simp] theorem Part.setLog_order (l : List LogRecord) : (p.setLog l).order = p.order := rfl

@[simp] theorem Part.setTable_jacks (t : List Command) : (p.setTable t).jacks = p.jacks := rfl
@[simp] theorem Part.setTable_sectors (t : List Command) : (p.setTable t).sectors = p.sectors := rfl
@[simp] theorem Part.setTable_adm (t : List Command) : (p.setTable t).adm = p.adm := rfl
@[simp] theorem Part.setTable_xt (t : List Command) : (p.setTable t).xt = { p.xt with table := t } := rfl
@[simp] theorem Part.setTable_feeds (t : List Command) : (p.setTable t).feeds = p.feeds := rfl
@[simp] theorem Part.setTable_mode (t : List Command) : (p.setTable t).mode = p.mode := rfl
@[simp] theorem Part.setTable_mon (t : List Command) : (p.setTable t).mon = p.mon := rfl
@[simp] theorem Part.setTable_sup (t : List Command) : (p.setTable t).sup = p.sup := rfl
@[simp] theorem Part.setTable_cfg (t : List Command) : (p.setTable t).cfg = p.cfg := rfl
@[simp] theorem Part.setTable_clock (t : List Command) : (p.setTable t).clock = p.clock := rfl
@[simp] theorem Part.setTable_resetCause (t : List Command) : (p.setTable t).resetCause = p.resetCause := rfl
@[simp] theorem Part.setTable_resetWait (t : List Command) : (p.setTable t).resetWait = p.resetWait := rfl
@[simp] theorem Part.setTable_sendQueue (t : List Command) : (p.setTable t).sendQueue = p.sendQueue := rfl
@[simp] theorem Part.setTable_ringQueue (t : List Command) : (p.setTable t).ringQueue = p.ringQueue := rfl
@[simp] theorem Part.setTable_stopIn (t : List Command) : (p.setTable t).stopIn = p.stopIn := rfl
@[simp] theorem Part.setTable_resetLine (t : List Command) : (p.setTable t).resetLine = p.resetLine := rfl
@[simp] theorem Part.setTable_stopOut (t : List Command) : (p.setTable t).stopOut = p.stopOut := rfl
@[simp] theorem Part.setTable_owed (t : List Command) : (p.setTable t).owed = p.owed := rfl
@[simp] theorem Part.setTable_order (t : List Command) : (p.setTable t).order = p.order := rfl

@[simp] theorem Part.setNodeTags_jacks (a : Addr) (t : NodeTags) : (p.setNodeTags a t).jacks = p.jacks := rfl
@[simp] theorem Part.setNodeTags_sectors (a : Addr) (t : NodeTags) : (p.setNodeTags a t).sectors = p.sectors := rfl
@[simp] theorem Part.setNodeTags_adm (a : Addr) (t : NodeTags) : (p.setNodeTags a t).adm = p.adm := rfl
@[simp] theorem Part.setNodeTags_xt (a : Addr) (t : NodeTags) : (p.setNodeTags a t).xt = { p.xt with nodes := p.xt.nodes.set a t } := rfl
@[simp] theorem Part.setNodeTags_feeds (a : Addr) (t : NodeTags) : (p.setNodeTags a t).feeds = p.feeds := rfl
@[simp] theorem Part.setNodeTags_mode (a : Addr) (t : NodeTags) : (p.setNodeTags a t).mode = p.mode := rfl
@[simp] theorem Part.setNodeTags_mon (a : Addr) (t : NodeTags) : (p.setNodeTags a t).mon = p.mon := rfl
@[simp] theorem Part.setNodeTags_sup (a : Addr) (t : NodeTags) : (p.setNodeTags a t).sup = p.sup := rfl
@[simp] theorem Part.setNodeTags_cfg (a : Addr) (t : NodeTags) : (p.setNodeTags a t).cfg = p.cfg := rfl
@[simp] theorem Part.setNodeTags_clock (a : Addr) (t : NodeTags) : (p.setNodeTags a t).clock = p.clock := rfl
@[simp] theorem Part.setNodeTags_resetCause (a : Addr) (t : NodeTags) : (p.setNodeTags a t).resetCause = p.resetCause := rfl
@[simp] theorem Part.setNodeTags_resetWait (a : Addr) (t : NodeTags) : (p.setNodeTags a t).resetWait = p.resetWait := rfl
@[simp] theorem Part.setNodeTags_sendQueue (a : Addr) (t : NodeTags) : (p.setNodeTags a t).sendQueue = p.sendQueue := rfl
@[simp] theorem Part.setNodeTags_ringQueue (a : Addr) (t : NodeTags) : (p.setNodeTags a t).ringQueue = p.ringQueue := rfl
@[simp] theorem Part.setNodeTags_stopIn (a : Addr) (t : NodeTags) : (p.setNodeTags a t).stopIn = p.stopIn := rfl
@[simp] theorem Part.setNodeTags_resetLine (a : Addr) (t : NodeTags) : (p.setNodeTags a t).resetLine = p.resetLine := rfl
@[simp] theorem Part.setNodeTags_stopOut (a : Addr) (t : NodeTags) : (p.setNodeTags a t).stopOut = p.stopOut := rfl
@[simp] theorem Part.setNodeTags_owed (a : Addr) (t : NodeTags) : (p.setNodeTags a t).owed = p.owed := rfl
@[simp] theorem Part.setNodeTags_order (a : Addr) (t : NodeTags) : (p.setNodeTags a t).order = p.order := rfl

@[simp] theorem Part.setOccupancy_jacks (g : GroupId) (n : Nat) : (p.setOccupancy g n).jacks = p.jacks := rfl
@[simp] theorem Part.setOccupancy_sectors (g : GroupId) (n : Nat) : (p.setOccupancy g n).sectors = p.sectors := rfl
@[simp] theorem Part.setOccupancy_adm (g : GroupId) (n : Nat) : (p.setOccupancy g n).adm = { p.adm with occupancy := p.adm.occupancy.set g n } := rfl
@[simp] theorem Part.setOccupancy_xt (g : GroupId) (n : Nat) : (p.setOccupancy g n).xt = p.xt := rfl
@[simp] theorem Part.setOccupancy_feeds (g : GroupId) (n : Nat) : (p.setOccupancy g n).feeds = p.feeds := rfl
@[simp] theorem Part.setOccupancy_mode (g : GroupId) (n : Nat) : (p.setOccupancy g n).mode = p.mode := rfl
@[simp] theorem Part.setOccupancy_mon (g : GroupId) (n : Nat) : (p.setOccupancy g n).mon = p.mon := rfl
@[simp] theorem Part.setOccupancy_sup (g : GroupId) (n : Nat) : (p.setOccupancy g n).sup = p.sup := rfl
@[simp] theorem Part.setOccupancy_cfg (g : GroupId) (n : Nat) : (p.setOccupancy g n).cfg = p.cfg := rfl
@[simp] theorem Part.setOccupancy_clock (g : GroupId) (n : Nat) : (p.setOccupancy g n).clock = p.clock := rfl
@[simp] theorem Part.setOccupancy_resetCause (g : GroupId) (n : Nat) : (p.setOccupancy g n).resetCause = p.resetCause := rfl
@[simp] theorem Part.setOccupancy_resetWait (g : GroupId) (n : Nat) : (p.setOccupancy g n).resetWait = p.resetWait := rfl
@[simp] theorem Part.setOccupancy_sendQueue (g : GroupId) (n : Nat) : (p.setOccupancy g n).sendQueue = p.sendQueue := rfl
@[simp] theorem Part.setOccupancy_ringQueue (g : GroupId) (n : Nat) : (p.setOccupancy g n).ringQueue = p.ringQueue := rfl
@[simp] theorem Part.setOccupancy_stopIn (g : GroupId) (n : Nat) : (p.setOccupancy g n).stopIn = p.stopIn := rfl
@[simp] theorem Part.setOccupancy_resetLine (g : GroupId) (n : Nat) : (p.setOccupancy g n).resetLine = p.resetLine := rfl
@[simp] theorem Part.setOccupancy_stopOut (g : GroupId) (n : Nat) : (p.setOccupancy g n).stopOut = p.stopOut := rfl
@[simp] theorem Part.setOccupancy_owed (g : GroupId) (n : Nat) : (p.setOccupancy g n).owed = p.owed := rfl
@[simp] theorem Part.setOccupancy_order (g : GroupId) (n : Nat) : (p.setOccupancy g n).order = p.order := rfl

@[simp] theorem Part.setQueue_jacks (q : List Entry) : (p.setQueue q).jacks = p.jacks := rfl
@[simp] theorem Part.setQueue_sectors (q : List Entry) : (p.setQueue q).sectors = p.sectors := rfl
@[simp] theorem Part.setQueue_adm (q : List Entry) : (p.setQueue q).adm = { p.adm with queue := q } := rfl
@[simp] theorem Part.setQueue_xt (q : List Entry) : (p.setQueue q).xt = p.xt := rfl
@[simp] theorem Part.setQueue_feeds (q : List Entry) : (p.setQueue q).feeds = p.feeds := rfl
@[simp] theorem Part.setQueue_mode (q : List Entry) : (p.setQueue q).mode = p.mode := rfl
@[simp] theorem Part.setQueue_mon (q : List Entry) : (p.setQueue q).mon = p.mon := rfl
@[simp] theorem Part.setQueue_sup (q : List Entry) : (p.setQueue q).sup = p.sup := rfl
@[simp] theorem Part.setQueue_cfg (q : List Entry) : (p.setQueue q).cfg = p.cfg := rfl
@[simp] theorem Part.setQueue_clock (q : List Entry) : (p.setQueue q).clock = p.clock := rfl
@[simp] theorem Part.setQueue_resetCause (q : List Entry) : (p.setQueue q).resetCause = p.resetCause := rfl
@[simp] theorem Part.setQueue_resetWait (q : List Entry) : (p.setQueue q).resetWait = p.resetWait := rfl
@[simp] theorem Part.setQueue_sendQueue (q : List Entry) : (p.setQueue q).sendQueue = p.sendQueue := rfl
@[simp] theorem Part.setQueue_ringQueue (q : List Entry) : (p.setQueue q).ringQueue = p.ringQueue := rfl
@[simp] theorem Part.setQueue_stopIn (q : List Entry) : (p.setQueue q).stopIn = p.stopIn := rfl
@[simp] theorem Part.setQueue_resetLine (q : List Entry) : (p.setQueue q).resetLine = p.resetLine := rfl
@[simp] theorem Part.setQueue_stopOut (q : List Entry) : (p.setQueue q).stopOut = p.stopOut := rfl
@[simp] theorem Part.setQueue_owed (q : List Entry) : (p.setQueue q).owed = p.owed := rfl
@[simp] theorem Part.setQueue_order (q : List Entry) : (p.setQueue q).order = p.order := rfl

@[simp] theorem Part.setMode_jacks (m : ModeRecord) : (p.setMode m).jacks = p.jacks := rfl
@[simp] theorem Part.setMode_sectors (m : ModeRecord) : (p.setMode m).sectors = p.sectors := rfl
@[simp] theorem Part.setMode_adm (m : ModeRecord) : (p.setMode m).adm = p.adm := rfl
@[simp] theorem Part.setMode_xt (m : ModeRecord) : (p.setMode m).xt = p.xt := rfl
@[simp] theorem Part.setMode_feeds (m : ModeRecord) : (p.setMode m).feeds = p.feeds := rfl
@[simp] theorem Part.setMode_mode (m : ModeRecord) : (p.setMode m).mode = m := rfl
@[simp] theorem Part.setMode_mon (m : ModeRecord) : (p.setMode m).mon = p.mon := rfl
@[simp] theorem Part.setMode_sup (m : ModeRecord) : (p.setMode m).sup = p.sup := rfl
@[simp] theorem Part.setMode_cfg (m : ModeRecord) : (p.setMode m).cfg = p.cfg := rfl
@[simp] theorem Part.setMode_clock (m : ModeRecord) : (p.setMode m).clock = p.clock := rfl
@[simp] theorem Part.setMode_resetCause (m : ModeRecord) : (p.setMode m).resetCause = p.resetCause := rfl
@[simp] theorem Part.setMode_resetWait (m : ModeRecord) : (p.setMode m).resetWait = p.resetWait := rfl
@[simp] theorem Part.setMode_sendQueue (m : ModeRecord) : (p.setMode m).sendQueue = p.sendQueue := rfl
@[simp] theorem Part.setMode_ringQueue (m : ModeRecord) : (p.setMode m).ringQueue = p.ringQueue := rfl
@[simp] theorem Part.setMode_stopIn (m : ModeRecord) : (p.setMode m).stopIn = p.stopIn := rfl
@[simp] theorem Part.setMode_resetLine (m : ModeRecord) : (p.setMode m).resetLine = p.resetLine := rfl
@[simp] theorem Part.setMode_stopOut (m : ModeRecord) : (p.setMode m).stopOut = p.stopOut := rfl
@[simp] theorem Part.setMode_owed (m : ModeRecord) : (p.setMode m).owed = p.owed := rfl
@[simp] theorem Part.setMode_order (m : ModeRecord) : (p.setMode m).order = p.order := rfl

@[simp] theorem Part.setSup_jacks (x : Supervision) : (p.setSup x).jacks = p.jacks := rfl
@[simp] theorem Part.setSup_sectors (x : Supervision) : (p.setSup x).sectors = p.sectors := rfl
@[simp] theorem Part.setSup_adm (x : Supervision) : (p.setSup x).adm = p.adm := rfl
@[simp] theorem Part.setSup_xt (x : Supervision) : (p.setSup x).xt = p.xt := rfl
@[simp] theorem Part.setSup_feeds (x : Supervision) : (p.setSup x).feeds = p.feeds := rfl
@[simp] theorem Part.setSup_mode (x : Supervision) : (p.setSup x).mode = p.mode := rfl
@[simp] theorem Part.setSup_mon (x : Supervision) : (p.setSup x).mon = p.mon := rfl
@[simp] theorem Part.setSup_sup (x : Supervision) : (p.setSup x).sup = x := rfl
@[simp] theorem Part.setSup_cfg (x : Supervision) : (p.setSup x).cfg = p.cfg := rfl
@[simp] theorem Part.setSup_clock (x : Supervision) : (p.setSup x).clock = p.clock := rfl
@[simp] theorem Part.setSup_resetCause (x : Supervision) : (p.setSup x).resetCause = p.resetCause := rfl
@[simp] theorem Part.setSup_resetWait (x : Supervision) : (p.setSup x).resetWait = p.resetWait := rfl
@[simp] theorem Part.setSup_sendQueue (x : Supervision) : (p.setSup x).sendQueue = p.sendQueue := rfl
@[simp] theorem Part.setSup_ringQueue (x : Supervision) : (p.setSup x).ringQueue = p.ringQueue := rfl
@[simp] theorem Part.setSup_stopIn (x : Supervision) : (p.setSup x).stopIn = p.stopIn := rfl
@[simp] theorem Part.setSup_resetLine (x : Supervision) : (p.setSup x).resetLine = p.resetLine := rfl
@[simp] theorem Part.setSup_stopOut (x : Supervision) : (p.setSup x).stopOut = p.stopOut := rfl
@[simp] theorem Part.setSup_owed (x : Supervision) : (p.setSup x).owed = p.owed := rfl
@[simp] theorem Part.setSup_order (x : Supervision) : (p.setSup x).order = p.order := rfl

@[simp] theorem Part.setCommit_jacks (c : CommitState) : (p.setCommit c).jacks = p.jacks := rfl
@[simp] theorem Part.setCommit_sectors (c : CommitState) : (p.setCommit c).sectors = p.sectors := rfl
@[simp] theorem Part.setCommit_adm (c : CommitState) : (p.setCommit c).adm = p.adm := rfl
@[simp] theorem Part.setCommit_xt (c : CommitState) : (p.setCommit c).xt = p.xt := rfl
@[simp] theorem Part.setCommit_feeds (c : CommitState) : (p.setCommit c).feeds = p.feeds := rfl
@[simp] theorem Part.setCommit_mode (c : CommitState) : (p.setCommit c).mode = p.mode := rfl
@[simp] theorem Part.setCommit_mon (c : CommitState) : (p.setCommit c).mon = p.mon := rfl
@[simp] theorem Part.setCommit_sup (c : CommitState) : (p.setCommit c).sup = p.sup := rfl
@[simp] theorem Part.setCommit_cfg (c : CommitState) : (p.setCommit c).cfg = { p.cfg with commit := c } := rfl
@[simp] theorem Part.setCommit_clock (c : CommitState) : (p.setCommit c).clock = p.clock := rfl
@[simp] theorem Part.setCommit_resetCause (c : CommitState) : (p.setCommit c).resetCause = p.resetCause := rfl
@[simp] theorem Part.setCommit_resetWait (c : CommitState) : (p.setCommit c).resetWait = p.resetWait := rfl
@[simp] theorem Part.setCommit_sendQueue (c : CommitState) : (p.setCommit c).sendQueue = p.sendQueue := rfl
@[simp] theorem Part.setCommit_ringQueue (c : CommitState) : (p.setCommit c).ringQueue = p.ringQueue := rfl
@[simp] theorem Part.setCommit_stopIn (c : CommitState) : (p.setCommit c).stopIn = p.stopIn := rfl
@[simp] theorem Part.setCommit_resetLine (c : CommitState) : (p.setCommit c).resetLine = p.resetLine := rfl
@[simp] theorem Part.setCommit_stopOut (c : CommitState) : (p.setCommit c).stopOut = p.stopOut := rfl
@[simp] theorem Part.setCommit_owed (c : CommitState) : (p.setCommit c).owed = p.owed := rfl
@[simp] theorem Part.setCommit_order (c : CommitState) : (p.setCommit c).order = p.order := rfl

@[simp] theorem Part.setShadow_jacks (b : Bank) : (p.setShadow b).jacks = p.jacks := rfl
@[simp] theorem Part.setShadow_sectors (b : Bank) : (p.setShadow b).sectors = p.sectors := rfl
@[simp] theorem Part.setShadow_adm (b : Bank) : (p.setShadow b).adm = p.adm := rfl
@[simp] theorem Part.setShadow_xt (b : Bank) : (p.setShadow b).xt = p.xt := rfl
@[simp] theorem Part.setShadow_feeds (b : Bank) : (p.setShadow b).feeds = p.feeds := rfl
@[simp] theorem Part.setShadow_mode (b : Bank) : (p.setShadow b).mode = p.mode := rfl
@[simp] theorem Part.setShadow_mon (b : Bank) : (p.setShadow b).mon = p.mon := rfl
@[simp] theorem Part.setShadow_sup (b : Bank) : (p.setShadow b).sup = p.sup := rfl
@[simp] theorem Part.setShadow_cfg (b : Bank) : (p.setShadow b).cfg = { p.cfg with shadow := b } := rfl
@[simp] theorem Part.setShadow_clock (b : Bank) : (p.setShadow b).clock = p.clock := rfl
@[simp] theorem Part.setShadow_resetCause (b : Bank) : (p.setShadow b).resetCause = p.resetCause := rfl
@[simp] theorem Part.setShadow_resetWait (b : Bank) : (p.setShadow b).resetWait = p.resetWait := rfl
@[simp] theorem Part.setShadow_sendQueue (b : Bank) : (p.setShadow b).sendQueue = p.sendQueue := rfl
@[simp] theorem Part.setShadow_ringQueue (b : Bank) : (p.setShadow b).ringQueue = p.ringQueue := rfl
@[simp] theorem Part.setShadow_stopIn (b : Bank) : (p.setShadow b).stopIn = p.stopIn := rfl
@[simp] theorem Part.setShadow_resetLine (b : Bank) : (p.setShadow b).resetLine = p.resetLine := rfl
@[simp] theorem Part.setShadow_stopOut (b : Bank) : (p.setShadow b).stopOut = p.stopOut := rfl
@[simp] theorem Part.setShadow_owed (b : Bank) : (p.setShadow b).owed = p.owed := rfl
@[simp] theorem Part.setShadow_order (b : Bank) : (p.setShadow b).order = p.order := rfl

@[simp] theorem Part.ringOut_jacks (own : Bool) (k : Kind) (d : Byte) (t : Tag) (l : List Byte) : (p.ringOut own k d t l).jacks = p.jacks := rfl
@[simp] theorem Part.ringOut_sectors (own : Bool) (k : Kind) (d : Byte) (t : Tag) (l : List Byte) : (p.ringOut own k d t l).sectors = p.sectors := rfl
@[simp] theorem Part.ringOut_adm (own : Bool) (k : Kind) (d : Byte) (t : Tag) (l : List Byte) : (p.ringOut own k d t l).adm = p.adm := rfl
@[simp] theorem Part.ringOut_xt (own : Bool) (k : Kind) (d : Byte) (t : Tag) (l : List Byte) : (p.ringOut own k d t l).xt = p.xt := rfl
@[simp] theorem Part.ringOut_feeds (own : Bool) (k : Kind) (d : Byte) (t : Tag) (l : List Byte) : (p.ringOut own k d t l).feeds = p.feeds := rfl
@[simp] theorem Part.ringOut_mode (own : Bool) (k : Kind) (d : Byte) (t : Tag) (l : List Byte) : (p.ringOut own k d t l).mode = p.mode := rfl
@[simp] theorem Part.ringOut_mon (own : Bool) (k : Kind) (d : Byte) (t : Tag) (l : List Byte) : (p.ringOut own k d t l).mon = p.mon := rfl
@[simp] theorem Part.ringOut_sup (own : Bool) (k : Kind) (d : Byte) (t : Tag) (l : List Byte) : (p.ringOut own k d t l).sup = p.sup := rfl
@[simp] theorem Part.ringOut_cfg (own : Bool) (k : Kind) (d : Byte) (t : Tag) (l : List Byte) : (p.ringOut own k d t l).cfg = p.cfg := rfl
@[simp] theorem Part.ringOut_clock (own : Bool) (k : Kind) (d : Byte) (t : Tag) (l : List Byte) : (p.ringOut own k d t l).clock = p.clock := rfl
@[simp] theorem Part.ringOut_resetCause (own : Bool) (k : Kind) (d : Byte) (t : Tag) (l : List Byte) : (p.ringOut own k d t l).resetCause = p.resetCause := rfl
@[simp] theorem Part.ringOut_resetWait (own : Bool) (k : Kind) (d : Byte) (t : Tag) (l : List Byte) : (p.ringOut own k d t l).resetWait = p.resetWait := rfl
@[simp] theorem Part.ringOut_sendQueue (own : Bool) (k : Kind) (d : Byte) (t : Tag) (l : List Byte) : (p.ringOut own k d t l).sendQueue = p.sendQueue := rfl
@[simp] theorem Part.ringOut_ringQueue (own : Bool) (k : Kind) (d : Byte) (t : Tag) (l : List Byte) : (p.ringOut own k d t l).ringQueue = p.ringQueue ++ [⟨⟨d, 0, k, t, 0, l⟩, own⟩] := rfl
@[simp] theorem Part.ringOut_stopIn (own : Bool) (k : Kind) (d : Byte) (t : Tag) (l : List Byte) : (p.ringOut own k d t l).stopIn = p.stopIn := rfl
@[simp] theorem Part.ringOut_resetLine (own : Bool) (k : Kind) (d : Byte) (t : Tag) (l : List Byte) : (p.ringOut own k d t l).resetLine = p.resetLine := rfl
@[simp] theorem Part.ringOut_stopOut (own : Bool) (k : Kind) (d : Byte) (t : Tag) (l : List Byte) : (p.ringOut own k d t l).stopOut = p.stopOut := rfl
@[simp] theorem Part.ringOut_owed (own : Bool) (k : Kind) (d : Byte) (t : Tag) (l : List Byte) : (p.ringOut own k d t l).owed = p.owed := rfl
@[simp] theorem Part.ringOut_order (own : Bool) (k : Kind) (d : Byte) (t : Tag) (l : List Byte) : (p.ringOut own k d t l).order = p.order := rfl

@[simp] theorem Part.updateAlert_jacks : (p.updateAlert).jacks = p.jacks := rfl
@[simp] theorem Part.updateAlert_sectors : (p.updateAlert).sectors = p.sectors := rfl
@[simp] theorem Part.updateAlert_adm : (p.updateAlert).adm = p.adm := rfl
@[simp] theorem Part.updateAlert_xt : (p.updateAlert).xt = p.xt := rfl
@[simp] theorem Part.updateAlert_feeds : (p.updateAlert).feeds = p.feeds := rfl
@[simp] theorem Part.updateAlert_mode : (p.updateAlert).mode = p.mode := rfl
@[simp] theorem Part.updateAlert_mon : (p.updateAlert).mon = { p.mon with alert := p.alertDue } := rfl
@[simp] theorem Part.updateAlert_sup : (p.updateAlert).sup = p.sup := rfl
@[simp] theorem Part.updateAlert_cfg : (p.updateAlert).cfg = p.cfg := rfl
@[simp] theorem Part.updateAlert_clock : (p.updateAlert).clock = p.clock := rfl
@[simp] theorem Part.updateAlert_resetCause : (p.updateAlert).resetCause = p.resetCause := rfl
@[simp] theorem Part.updateAlert_resetWait : (p.updateAlert).resetWait = p.resetWait := rfl
@[simp] theorem Part.updateAlert_sendQueue : (p.updateAlert).sendQueue = p.sendQueue := rfl
@[simp] theorem Part.updateAlert_ringQueue : (p.updateAlert).ringQueue = p.ringQueue := rfl
@[simp] theorem Part.updateAlert_stopIn : (p.updateAlert).stopIn = p.stopIn := rfl
@[simp] theorem Part.updateAlert_resetLine : (p.updateAlert).resetLine = p.resetLine := rfl
@[simp] theorem Part.updateAlert_stopOut : (p.updateAlert).stopOut = p.stopOut := rfl
@[simp] theorem Part.updateAlert_owed : (p.updateAlert).owed = p.owed := rfl
@[simp] theorem Part.updateAlert_order : (p.updateAlert).order = p.order := rfl

@[simp] theorem Part.dropShare_jacks (x : Share) : (p.dropShare x).jacks = p.jacks := rfl
@[simp] theorem Part.dropShare_sectors (x : Share) : (p.dropShare x).sectors = p.sectors := rfl
@[simp] theorem Part.dropShare_adm (x : Share) : (p.dropShare x).adm = p.adm := rfl
@[simp] theorem Part.dropShare_xt (x : Share) : (p.dropShare x).xt = p.xt := rfl
@[simp] theorem Part.dropShare_feeds (x : Share) : (p.dropShare x).feeds = p.feeds := rfl
@[simp] theorem Part.dropShare_mode (x : Share) : (p.dropShare x).mode = p.mode := rfl
@[simp] theorem Part.dropShare_mon (x : Share) : (p.dropShare x).mon = p.mon := rfl
@[simp] theorem Part.dropShare_sup (x : Share) : (p.dropShare x).sup = p.sup := rfl
@[simp] theorem Part.dropShare_cfg (x : Share) : (p.dropShare x).cfg = p.cfg := rfl
@[simp] theorem Part.dropShare_clock (x : Share) : (p.dropShare x).clock = p.clock := rfl
@[simp] theorem Part.dropShare_resetCause (x : Share) : (p.dropShare x).resetCause = p.resetCause := rfl
@[simp] theorem Part.dropShare_resetWait (x : Share) : (p.dropShare x).resetWait = p.resetWait := rfl
@[simp] theorem Part.dropShare_sendQueue (x : Share) : (p.dropShare x).sendQueue = p.sendQueue := rfl
@[simp] theorem Part.dropShare_ringQueue (x : Share) : (p.dropShare x).ringQueue = p.ringQueue := rfl
@[simp] theorem Part.dropShare_stopIn (x : Share) : (p.dropShare x).stopIn = p.stopIn := rfl
@[simp] theorem Part.dropShare_resetLine (x : Share) : (p.dropShare x).resetLine = p.resetLine := rfl
@[simp] theorem Part.dropShare_stopOut (x : Share) : (p.dropShare x).stopOut = p.stopOut := rfl
@[simp] theorem Part.dropShare_owed (x : Share) : (p.dropShare x).owed = p.owed.filter (· ≠ x) := rfl
@[simp] theorem Part.dropShare_order (x : Share) : (p.dropShare x).order = p.order := rfl

@[simp] theorem Part.emptyEvents_jacks : (p.emptyEvents).jacks = p.jacks := rfl
@[simp] theorem Part.emptyEvents_sectors : (p.emptyEvents).sectors = p.sectors := rfl
@[simp] theorem Part.emptyEvents_adm : (p.emptyEvents).adm = p.adm := rfl
@[simp] theorem Part.emptyEvents_xt : (p.emptyEvents).xt = p.xt := rfl
@[simp] theorem Part.emptyEvents_feeds : (p.emptyEvents).feeds = p.feeds := rfl
@[simp] theorem Part.emptyEvents_mode : (p.emptyEvents).mode = p.mode := rfl
@[simp] theorem Part.emptyEvents_mon : (p.emptyEvents).mon = { p.mon with events := 0 } := rfl
@[simp] theorem Part.emptyEvents_sup : (p.emptyEvents).sup = p.sup := rfl
@[simp] theorem Part.emptyEvents_cfg : (p.emptyEvents).cfg = p.cfg := rfl
@[simp] theorem Part.emptyEvents_clock : (p.emptyEvents).clock = p.clock := rfl
@[simp] theorem Part.emptyEvents_resetCause : (p.emptyEvents).resetCause = p.resetCause := rfl
@[simp] theorem Part.emptyEvents_resetWait : (p.emptyEvents).resetWait = p.resetWait := rfl
@[simp] theorem Part.emptyEvents_sendQueue : (p.emptyEvents).sendQueue = p.sendQueue := rfl
@[simp] theorem Part.emptyEvents_ringQueue : (p.emptyEvents).ringQueue = p.ringQueue := rfl
@[simp] theorem Part.emptyEvents_stopIn : (p.emptyEvents).stopIn = p.stopIn := rfl
@[simp] theorem Part.emptyEvents_resetLine : (p.emptyEvents).resetLine = p.resetLine := rfl
@[simp] theorem Part.emptyEvents_stopOut : (p.emptyEvents).stopOut = p.stopOut := rfl
@[simp] theorem Part.emptyEvents_owed : (p.emptyEvents).owed = p.owed := rfl
@[simp] theorem Part.emptyEvents_order : (p.emptyEvents).order = p.order := rfl

@[simp] theorem Part.startSupervision_jacks (b : Bool) : (p.startSupervision b).jacks = p.jacks := rfl
@[simp] theorem Part.startSupervision_sectors (b : Bool) : (p.startSupervision b).sectors = p.sectors := rfl
@[simp] theorem Part.startSupervision_adm (b : Bool) : (p.startSupervision b).adm = p.adm := rfl
@[simp] theorem Part.startSupervision_xt (b : Bool) : (p.startSupervision b).xt = p.xt := rfl
@[simp] theorem Part.startSupervision_feeds (b : Bool) : (p.startSupervision b).feeds = p.feeds := rfl
@[simp] theorem Part.startSupervision_mode (b : Bool) : (p.startSupervision b).mode = p.mode := rfl
@[simp] theorem Part.startSupervision_mon (b : Bool) : (p.startSupervision b).mon = p.mon := rfl
@[simp] theorem Part.startSupervision_sup (b : Bool) : (p.startSupervision b).sup = ⟨true, 0, p.clock, p.clock, 0, b⟩ := rfl
@[simp] theorem Part.startSupervision_cfg (b : Bool) : (p.startSupervision b).cfg = p.cfg := rfl
@[simp] theorem Part.startSupervision_clock (b : Bool) : (p.startSupervision b).clock = p.clock := rfl
@[simp] theorem Part.startSupervision_resetCause (b : Bool) : (p.startSupervision b).resetCause = p.resetCause := rfl
@[simp] theorem Part.startSupervision_resetWait (b : Bool) : (p.startSupervision b).resetWait = p.resetWait := rfl
@[simp] theorem Part.startSupervision_sendQueue (b : Bool) : (p.startSupervision b).sendQueue = p.sendQueue := rfl
@[simp] theorem Part.startSupervision_ringQueue (b : Bool) : (p.startSupervision b).ringQueue = p.ringQueue := rfl
@[simp] theorem Part.startSupervision_stopIn (b : Bool) : (p.startSupervision b).stopIn = p.stopIn := rfl
@[simp] theorem Part.startSupervision_resetLine (b : Bool) : (p.startSupervision b).resetLine = p.resetLine := rfl
@[simp] theorem Part.startSupervision_stopOut (b : Bool) : (p.startSupervision b).stopOut = p.stopOut := rfl
@[simp] theorem Part.startSupervision_owed (b : Bool) : (p.startSupervision b).owed = p.owed := rfl
@[simp] theorem Part.startSupervision_order (b : Bool) : (p.startSupervision b).order = p.order := rfl

@[simp] theorem Part.endBlanking_jacks : (p.endBlanking).jacks = p.jacks := rfl
@[simp] theorem Part.endBlanking_sectors : (p.endBlanking).sectors = p.sectors := rfl
@[simp] theorem Part.endBlanking_adm : (p.endBlanking).adm = p.adm := rfl
@[simp] theorem Part.endBlanking_xt : (p.endBlanking).xt = p.xt := rfl
@[simp] theorem Part.endBlanking_feeds : (p.endBlanking).feeds = p.feeds := rfl
@[simp] theorem Part.endBlanking_mode : (p.endBlanking).mode = p.mode := rfl
@[simp] theorem Part.endBlanking_mon : (p.endBlanking).mon = { p.mon with blanking := none } := rfl
@[simp] theorem Part.endBlanking_sup : (p.endBlanking).sup = p.sup := rfl
@[simp] theorem Part.endBlanking_cfg : (p.endBlanking).cfg = p.cfg := rfl
@[simp] theorem Part.endBlanking_clock : (p.endBlanking).clock = p.clock := rfl
@[simp] theorem Part.endBlanking_resetCause : (p.endBlanking).resetCause = p.resetCause := rfl
@[simp] theorem Part.endBlanking_resetWait : (p.endBlanking).resetWait = p.resetWait := rfl
@[simp] theorem Part.endBlanking_sendQueue : (p.endBlanking).sendQueue = p.sendQueue := rfl
@[simp] theorem Part.endBlanking_ringQueue : (p.endBlanking).ringQueue = p.ringQueue := rfl
@[simp] theorem Part.endBlanking_stopIn : (p.endBlanking).stopIn = p.stopIn := rfl
@[simp] theorem Part.endBlanking_resetLine : (p.endBlanking).resetLine = p.resetLine := rfl
@[simp] theorem Part.endBlanking_stopOut : (p.endBlanking).stopOut = p.stopOut := rfl
@[simp] theorem Part.endBlanking_owed : (p.endBlanking).owed = p.owed := rfl
@[simp] theorem Part.endBlanking_order : (p.endBlanking).order = p.order := rfl

/-! ### Reading back what was written -/

@[simp] theorem Part.jack_setJack (j : JackId) (x : Jack) : (p.setJack j x).jack j = x := by
  simp [Part.jack, Part.setJack]

theorem Part.jack_setJack_ne {i j : JackId} (x : Jack) (h : i ≠ j) : (p.setJack j x).jack i = p.jack i := by
  have : j.val ≠ i.val := fun e => h (Fin.ext e.symm)
  simp [Part.jack, Part.setJack, this]

@[simp] theorem Part.sector_setSector (k : SectorId) (x : Sector) : (p.setSector k x).sector k = x := by
  simp [Part.sector, Part.setSector]

theorem Part.sector_setSector_ne {i k : SectorId} (x : Sector) (h : i ≠ k) :
    (p.setSector k x).sector i = p.sector i := by
  have : k.val ≠ i.val := fun e => h (Fin.ext e.symm)
  simp [Part.sector, Part.setSector, this]

@[simp] theorem Part.feed_setFeed (f : FeedId) (x : Feed) : (p.setFeed f x).feed f = x := by
  simp [Part.feed, Part.setFeed]

theorem Part.feed_setFeed_ne {i f : FeedId} (x : Feed) (h : i ≠ f) : (p.setFeed f x).feed i = p.feed i := by
  have : f.val ≠ i.val := fun e => h (Fin.ext e.symm)
  simp [Part.feed, Part.setFeed, this]

@[simp] theorem Part.occupancy_setOccupancy (g : GroupId) (n : Nat) : (p.setOccupancy g n).occupancy g = n := by
  simp [Part.occupancy, Part.setOccupancy]

theorem Part.occupancy_setOccupancy_ne {i g : GroupId} (n : Nat) (h : i ≠ g) :
    (p.setOccupancy g n).occupancy i = p.occupancy i := by
  have : g.val ≠ i.val := fun e => h (Fin.ext e.symm)
  simp [Part.occupancy, Part.setOccupancy, this]

@[simp] theorem Part.pair_setPair (q : Pair) (r : PairRecord) : (p.setPair q r).pair q = r := by
  simp [Part.pair, Part.setPair]

/-- Pairs stand at places of their own (R117). -/
theorem pairIndex_inj {q r : Pair} (h : pairIndex q = pairIndex r) : q = r := by
  cases q <;> cases r <;> simp only [pairIndex, Fin.ext_iff, Fin.isValue] at h <;>
    first
    | rfl
    | (exfalso; revert h; simp <;> omega)
    | (congr 1; exact Fin.ext (by omega))

theorem Part.pair_setPair_ne {q r : Pair} (x : PairRecord) (h : r ≠ q) : (p.setPair q x).pair r = p.pair r := by
  have : (pairIndex q).val ≠ (pairIndex r).val := fun e => h (pairIndex_inj (Fin.ext e.symm))
  simp [Part.pair, Part.setPair, this]

@[simp] theorem Part.nodeTags_setNodeTags (a : Addr) (t : NodeTags) : (p.setNodeTags a t).nodeTags a = t := by
  simp [Part.nodeTags, Part.setNodeTags]

end

end Sys2Proof.Machine
end

