-- ==== Sys2Proof/Laws/Layers.lean ====
section
/-! SUPPORT. The layer table's operations keep the law of the layer table (R24): placement, entering, growth and
retirement of one sector's queue. -/

namespace Sys2Proof.Machine

/-- The height a stack of layers reaches. -/
def reach (base : Nat) (l : List Layer) : Nat :=
  match l.getLast? with
  | some x => x.top
  | none => base

theorem Sector.top_eq_reach (x : Sector) : x.top = reach x.floor x.layers := rfl

theorem reach_cons (base : Nat) (x : Layer) (l : List Layer) : reach base (x :: l) = reach x.top l := by
  cases l with
  | nil => rfl
  | cons y l => simp [reach, List.getLast?_cons]

theorem stacked_append {base : Nat} {a b : List Layer} :
    stacked base (a ++ b) ↔ stacked base a ∧ stacked (reach base a) b := by
  induction a generalizing base with
  | nil => simp [stacked, reach]
  | cons x a ih =>
    rw [List.cons_append, reach_cons]
    simp only [stacked, ih]
    tauto

theorem stacked_single {base : Nat} {x : Layer} :
    stacked base [x] ↔ x.base = base ∧ 1 ≤ x.depth ∧ x.depth ≤ Config.maxDepth := by
  simp [stacked]

/-- A layer appended at the sector top (R28, R34). -/
theorem Sector.append_lawful {x : Sector} {depth : Nat} {mix : MixId} {t : Clock} {src : Source}
    (h : x.Lawful) (room : x.isFull = false) (pos : 1 ≤ depth) (fits : depth ≤ Config.maxDepth) :
    (x.append depth mix t src).Lawful := by
  refine ⟨?_, ?_⟩
  · simp only [Sector.isFull, decide_eq_false_iff_not, not_le] at room
    simp only [Sector.append, List.length_append, List.length_cons, List.length_nil]
    omega
  · exact stacked_append.mpr ⟨h.2, stacked_single.mpr ⟨rfl, pos, fits⟩⟩

/-- The newest layer grown (R28, R29). -/
theorem Sector.mapNewest_lawful {x : Sector} {now : Clock} {depth : Nat} (h : x.Lawful) :
    (x.mapNewest (Layer.grow now depth)).Lawful := by
  unfold Sector.mapNewest
  split
  · next l hl =>
    have hx : x.layers = x.layers.dropLast ++ [l] := by
      rw [List.dropLast_append_getLast?]
      exact hl
    have hs : stacked x.floor (x.layers.dropLast ++ [l]) := hx ▸ h.2
    have hlen : x.layers.length = x.layers.dropLast.length + 1 := by
      conv_lhs => rw [hx]
      simp
    obtain ⟨ha, hb⟩ := stacked_append.mp hs
    have hb := stacked_single.mp hb
    refine ⟨?_, stacked_append.mpr ⟨ha, stacked_single.mpr ⟨hb.1, ?_, ?_⟩⟩⟩
    · have := h.1
      simp only [List.length_append, List.length_cons, List.length_nil]
      omega
    · have := hb.2.1
      simp only [Layer.grow, Config.maxDepth]
      omega
    · simp only [Layer.grow]
      omega
  · exact h

/-- A placement recorded (R28, R29). -/
theorem Sector.place_lawful {x : Sector} {now : Clock} {interval depth : Nat} {mix : MixId} {f : FeedId}
    (h : x.Lawful) (pos : 1 ≤ depth) (fits : depth ≤ Config.maxDepth) :
    (x.place now interval depth mix f).Lawful := by
  unfold Sector.place
  split
  · split
    · exact Sector.mapNewest_lawful h
    · next hc =>
      refine Sector.append_lawful h ?_ pos fits
      simp only [Bool.or_eq_true, not_or, Bool.not_eq_true] at hc
      exact hc.1
  · next hn =>
    refine Sector.append_lawful h ?_ pos fits
    have : x.layers = [] := by simpa using hn
    simp [Sector.isFull, this, Config.maxLayers]

/-- Retirement (R31). -/
theorem Sector.retire_lawful {x : Sector} {bottom : Nat} (h : x.Lawful) : (x.retire bottom).Lawful := by
  unfold Sector.retire
  set gone := x.layers.takeWhile fun l => l.top ≤ bottom with hg
  set kept := x.layers.dropWhile fun l => l.top ≤ bottom with hk
  have e : gone ++ kept = x.layers := List.takeWhile_append_dropWhile
  have hs := stacked_append.mp (show stacked x.floor (gone ++ kept) from e ▸ h.2)
  refine ⟨?_, ?_⟩
  · have := h.1
    have hl : (gone ++ kept).length = x.layers.length := by rw [e]
    simp only [List.length_append] at hl
    simp only
    omega
  · simp only
    split
    · next hn =>
      rw [List.isEmpty_iff.mp hn]
      trivial
    · exact hs.2

/-- A volume above 0 has a depth of at least 1 mm (R27). -/
theorem depthOf_pos {e : SectorEntry} {litres : Nat} (h : e.configured = true) (pos : 1 ≤ litres) :
    1 ≤ depthOf e litres := by
  simp only [SectorEntry.configured, inRange, lengthRange, thicknessRange, Bool.and_eq_true] at h
  obtain ⟨⟨h₁, -⟩, h₂, -⟩ := h
  have h₁ := of_decide_eq_true h₁
  have h₂ := of_decide_eq_true h₂
  unfold depthOf
  have ha : 0 < e.length * e.thickness := Nat.mul_pos (by omega) (by omega)
  rw [Nat.one_le_div_iff ha]
  omega

end Sys2Proof.Machine
end

