-- ==== Sys2Proof/Laws/Frames.lean ====
section
/-! SUPPORT. What handing a frame to the deck does (R169, R175): with room the frame joins the send queue stamped
with the summary of the moment; with 256 waiting it is discarded and LINKERR is raised. Nothing else changes. -/

namespace Sys2Proof.Machine

section
variable (p : Part)

/-- With room, the frame joins the queue (R169, R175). -/
theorem Part.emit_room {k : Kind} {s : Byte} {t : Tag} {l : List Byte}
    (h : p.sendQueue.length < Config.maxSend) :
    p.emit k s t l = { p with sendQueue := p.sendQueue ++ [⟨0, s, k, t, p.summary, l⟩] } := by
  simp [Part.emit, h]

/-- With 256 waiting, the frame is discarded and LINKERR raised (R175). -/
theorem Part.emit_full {k : Kind} {s : Byte} {t : Tag} {l : List Byte}
    (h : ¬ p.sendQueue.length < Config.maxSend) : p.emit k s t l = p.raise .linkerr := by
  simp [Part.emit, h]

/-- What a frame to the deck does to MON: nothing, or LINKERR. -/
theorem Part.emit_mon (k : Kind) (s : Byte) (t : Tag) (l : List Byte) :
    (p.emit k s t l).mon = p.mon ∨ (p.emit k s t l).mon = (p.raise .linkerr).mon := by
  unfold Part.emit; split
  · exact .inl rfl
  · exact .inr rfl

@[simp] theorem Part.emit_pair (k : Kind) (s : Byte) (t : Tag) (l : List Byte) (q : Pair) :
    (p.emit k s t l).pair q = p.pair q := by
  unfold Part.emit; split <;> rfl

@[simp] theorem Part.emit_log (k : Kind) (s : Byte) (t : Tag) (l : List Byte) :
    (p.emit k s t l).mon.log = p.mon.log := by
  unfold Part.emit; split <;> rfl

@[simp] theorem Part.emit_blanking (k : Kind) (s : Byte) (t : Tag) (l : List Byte) :
    (p.emit k s t l).mon.blanking = p.mon.blanking := by
  unfold Part.emit; split <;> rfl

@[simp] theorem Part.emit_alert (k : Kind) (s : Byte) (t : Tag) (l : List Byte) :
    (p.emit k s t l).mon.alert = p.mon.alert := by
  unfold Part.emit; split <;> rfl

@[simp] theorem Part.emit_jacks (k : Kind) (s : Byte) (t : Tag) (l : List Byte) : (p.emit k s t l).jacks = p.jacks := by
  unfold Part.emit; split <;> rfl
@[simp] theorem Part.emit_sectors (k : Kind) (s : Byte) (t : Tag) (l : List Byte) : (p.emit k s t l).sectors = p.sectors := by
  unfold Part.emit; split <;> rfl
@[simp] theorem Part.emit_adm (k : Kind) (s : Byte) (t : Tag) (l : List Byte) : (p.emit k s t l).adm = p.adm := by
  unfold Part.emit; split <;> rfl
@[simp] theorem Part.emit_xt (k : Kind) (s : Byte) (t : Tag) (l : List Byte) : (p.emit k s t l).xt = p.xt := by
  unfold Part.emit; split <;> rfl
@[simp] theorem Part.emit_feeds (k : Kind) (s : Byte) (t : Tag) (l : List Byte) : (p.emit k s t l).feeds = p.feeds := by
  unfold Part.emit; split <;> rfl
@[simp] theorem Part.emit_mode (k : Kind) (s : Byte) (t : Tag) (l : List Byte) : (p.emit k s t l).mode = p.mode := by
  unfold Part.emit; split <;> rfl
@[simp] theorem Part.emit_sup (k : Kind) (s : Byte) (t : Tag) (l : List Byte) : (p.emit k s t l).sup = p.sup := by
  unfold Part.emit; split <;> rfl
@[simp] theorem Part.emit_cfg (k : Kind) (s : Byte) (t : Tag) (l : List Byte) : (p.emit k s t l).cfg = p.cfg := by
  unfold Part.emit; split <;> rfl
@[simp] theorem Part.emit_clock (k : Kind) (s : Byte) (t : Tag) (l : List Byte) : (p.emit k s t l).clock = p.clock := by
  unfold Part.emit; split <;> rfl
@[simp] theorem Part.emit_resetCause (k : Kind) (s : Byte) (t : Tag) (l : List Byte) : (p.emit k s t l).resetCause = p.resetCause := by
  unfold Part.emit; split <;> rfl
@[simp] theorem Part.emit_resetWait (k : Kind) (s : Byte) (t : Tag) (l : List Byte) : (p.emit k s t l).resetWait = p.resetWait := by
  unfold Part.emit; split <;> rfl
@[simp] theorem Part.emit_ringQueue (k : Kind) (s : Byte) (t : Tag) (l : List Byte) : (p.emit k s t l).ringQueue = p.ringQueue := by
  unfold Part.emit; split <;> rfl
@[simp] theorem Part.emit_stopIn (k : Kind) (s : Byte) (t : Tag) (l : List Byte) : (p.emit k s t l).stopIn = p.stopIn := by
  unfold Part.emit; split <;> rfl
@[simp] theorem Part.emit_resetLine (k : Kind) (s : Byte) (t : Tag) (l : List Byte) : (p.emit k s t l).resetLine = p.resetLine := by
  unfold Part.emit; split <;> rfl
@[simp] theorem Part.emit_stopOut (k : Kind) (s : Byte) (t : Tag) (l : List Byte) : (p.emit k s t l).stopOut = p.stopOut := by
  unfold Part.emit; split <;> rfl
@[simp] theorem Part.emit_owed (k : Kind) (s : Byte) (t : Tag) (l : List Byte) : (p.emit k s t l).owed = p.owed := by
  unfold Part.emit; split <;> rfl
@[simp] theorem Part.emit_order (k : Kind) (s : Byte) (t : Tag) (l : List Byte) : (p.emit k s t l).order = p.order := by
  unfold Part.emit; split <;> rfl

@[simp] theorem Part.reply_jacks (t : Tag) (c o : Byte) (l : List Byte) : (p.reply t c o l).jacks = p.jacks := p.emit_jacks _ _ _ _
@[simp] theorem Part.reply_sectors (t : Tag) (c o : Byte) (l : List Byte) : (p.reply t c o l).sectors = p.sectors := p.emit_sectors _ _ _ _
@[simp] theorem Part.reply_adm (t : Tag) (c o : Byte) (l : List Byte) : (p.reply t c o l).adm = p.adm := p.emit_adm _ _ _ _
@[simp] theorem Part.reply_xt (t : Tag) (c o : Byte) (l : List Byte) : (p.reply t c o l).xt = p.xt := p.emit_xt _ _ _ _
@[simp] theorem Part.reply_feeds (t : Tag) (c o : Byte) (l : List Byte) : (p.reply t c o l).feeds = p.feeds := p.emit_feeds _ _ _ _
@[simp] theorem Part.reply_mode (t : Tag) (c o : Byte) (l : List Byte) : (p.reply t c o l).mode = p.mode := p.emit_mode _ _ _ _
@[simp] theorem Part.reply_sup (t : Tag) (c o : Byte) (l : List Byte) : (p.reply t c o l).sup = p.sup := p.emit_sup _ _ _ _
@[simp] theorem Part.reply_cfg (t : Tag) (c o : Byte) (l : List Byte) : (p.reply t c o l).cfg = p.cfg := p.emit_cfg _ _ _ _
@[simp] theorem Part.reply_clock (t : Tag) (c o : Byte) (l : List Byte) : (p.reply t c o l).clock = p.clock := p.emit_clock _ _ _ _
@[simp] theorem Part.reply_resetCause (t : Tag) (c o : Byte) (l : List Byte) : (p.reply t c o l).resetCause = p.resetCause := p.emit_resetCause _ _ _ _
@[simp] theorem Part.reply_resetWait (t : Tag) (c o : Byte) (l : List Byte) : (p.reply t c o l).resetWait = p.resetWait := p.emit_resetWait _ _ _ _
@[simp] theorem Part.reply_ringQueue (t : Tag) (c o : Byte) (l : List Byte) : (p.reply t c o l).ringQueue = p.ringQueue := p.emit_ringQueue _ _ _ _
@[simp] theorem Part.reply_stopIn (t : Tag) (c o : Byte) (l : List Byte) : (p.reply t c o l).stopIn = p.stopIn := p.emit_stopIn _ _ _ _
@[simp] theorem Part.reply_resetLine (t : Tag) (c o : Byte) (l : List Byte) : (p.reply t c o l).resetLine = p.resetLine := p.emit_resetLine _ _ _ _
@[simp] theorem Part.reply_stopOut (t : Tag) (c o : Byte) (l : List Byte) : (p.reply t c o l).stopOut = p.stopOut := p.emit_stopOut _ _ _ _
@[simp] theorem Part.reply_owed (t : Tag) (c o : Byte) (l : List Byte) : (p.reply t c o l).owed = p.owed := p.emit_owed _ _ _ _
@[simp] theorem Part.reply_order (t : Tag) (c o : Byte) (l : List Byte) : (p.reply t c o l).order = p.order := p.emit_order _ _ _ _

@[simp] theorem Part.ack_jacks (t : Tag) (c : Byte) : (p.ack t c).jacks = p.jacks := p.emit_jacks _ _ _ _
@[simp] theorem Part.ack_sectors (t : Tag) (c : Byte) : (p.ack t c).sectors = p.sectors := p.emit_sectors _ _ _ _
@[simp] theorem Part.ack_adm (t : Tag) (c : Byte) : (p.ack t c).adm = p.adm := p.emit_adm _ _ _ _
@[simp] theorem Part.ack_xt (t : Tag) (c : Byte) : (p.ack t c).xt = p.xt := p.emit_xt _ _ _ _
@[simp] theorem Part.ack_feeds (t : Tag) (c : Byte) : (p.ack t c).feeds = p.feeds := p.emit_feeds _ _ _ _
@[simp] theorem Part.ack_mode (t : Tag) (c : Byte) : (p.ack t c).mode = p.mode := p.emit_mode _ _ _ _
@[simp] theorem Part.ack_sup (t : Tag) (c : Byte) : (p.ack t c).sup = p.sup := p.emit_sup _ _ _ _
@[simp] theorem Part.ack_cfg (t : Tag) (c : Byte) : (p.ack t c).cfg = p.cfg := p.emit_cfg _ _ _ _
@[simp] theorem Part.ack_clock (t : Tag) (c : Byte) : (p.ack t c).clock = p.clock := p.emit_clock _ _ _ _
@[simp] theorem Part.ack_resetCause (t : Tag) (c : Byte) : (p.ack t c).resetCause = p.resetCause := p.emit_resetCause _ _ _ _
@[simp] theorem Part.ack_resetWait (t : Tag) (c : Byte) : (p.ack t c).resetWait = p.resetWait := p.emit_resetWait _ _ _ _
@[simp] theorem Part.ack_ringQueue (t : Tag) (c : Byte) : (p.ack t c).ringQueue = p.ringQueue := p.emit_ringQueue _ _ _ _
@[simp] theorem Part.ack_stopIn (t : Tag) (c : Byte) : (p.ack t c).stopIn = p.stopIn := p.emit_stopIn _ _ _ _
@[simp] theorem Part.ack_resetLine (t : Tag) (c : Byte) : (p.ack t c).resetLine = p.resetLine := p.emit_resetLine _ _ _ _
@[simp] theorem Part.ack_stopOut (t : Tag) (c : Byte) : (p.ack t c).stopOut = p.stopOut := p.emit_stopOut _ _ _ _
@[simp] theorem Part.ack_owed (t : Tag) (c : Byte) : (p.ack t c).owed = p.owed := p.emit_owed _ _ _ _
@[simp] theorem Part.ack_order (t : Tag) (c : Byte) : (p.ack t c).order = p.order := p.emit_order _ _ _ _

@[simp] theorem Part.data_jacks (t : Tag) (c : Byte) (l : List Byte) : (p.data t c l).jacks = p.jacks := p.emit_jacks _ _ _ _
@[simp] theorem Part.data_sectors (t : Tag) (c : Byte) (l : List Byte) : (p.data t c l).sectors = p.sectors := p.emit_sectors _ _ _ _
@[simp] theorem Part.data_adm (t : Tag) (c : Byte) (l : List Byte) : (p.data t c l).adm = p.adm := p.emit_adm _ _ _ _
@[simp] theorem Part.data_xt (t : Tag) (c : Byte) (l : List Byte) : (p.data t c l).xt = p.xt := p.emit_xt _ _ _ _
@[simp] theorem Part.data_feeds (t : Tag) (c : Byte) (l : List Byte) : (p.data t c l).feeds = p.feeds := p.emit_feeds _ _ _ _
@[simp] theorem Part.data_mode (t : Tag) (c : Byte) (l : List Byte) : (p.data t c l).mode = p.mode := p.emit_mode _ _ _ _
@[simp] theorem Part.data_sup (t : Tag) (c : Byte) (l : List Byte) : (p.data t c l).sup = p.sup := p.emit_sup _ _ _ _
@[simp] theorem Part.data_cfg (t : Tag) (c : Byte) (l : List Byte) : (p.data t c l).cfg = p.cfg := p.emit_cfg _ _ _ _
@[simp] theorem Part.data_clock (t : Tag) (c : Byte) (l : List Byte) : (p.data t c l).clock = p.clock := p.emit_clock _ _ _ _
@[simp] theorem Part.data_resetCause (t : Tag) (c : Byte) (l : List Byte) : (p.data t c l).resetCause = p.resetCause := p.emit_resetCause _ _ _ _
@[simp] theorem Part.data_resetWait (t : Tag) (c : Byte) (l : List Byte) : (p.data t c l).resetWait = p.resetWait := p.emit_resetWait _ _ _ _
@[simp] theorem Part.data_ringQueue (t : Tag) (c : Byte) (l : List Byte) : (p.data t c l).ringQueue = p.ringQueue := p.emit_ringQueue _ _ _ _
@[simp] theorem Part.data_stopIn (t : Tag) (c : Byte) (l : List Byte) : (p.data t c l).stopIn = p.stopIn := p.emit_stopIn _ _ _ _
@[simp] theorem Part.data_resetLine (t : Tag) (c : Byte) (l : List Byte) : (p.data t c l).resetLine = p.resetLine := p.emit_resetLine _ _ _ _
@[simp] theorem Part.data_stopOut (t : Tag) (c : Byte) (l : List Byte) : (p.data t c l).stopOut = p.stopOut := p.emit_stopOut _ _ _ _
@[simp] theorem Part.data_owed (t : Tag) (c : Byte) (l : List Byte) : (p.data t c l).owed = p.owed := p.emit_owed _ _ _ _
@[simp] theorem Part.data_order (t : Tag) (c : Byte) (l : List Byte) : (p.data t c l).order = p.order := p.emit_order _ _ _ _

@[simp] theorem Part.deny_jacks (t : Tag) (c : Byte) (r : Reason) : (p.deny t c r).jacks = p.jacks := p.emit_jacks _ _ _ _
@[simp] theorem Part.deny_sectors (t : Tag) (c : Byte) (r : Reason) : (p.deny t c r).sectors = p.sectors := p.emit_sectors _ _ _ _
@[simp] theorem Part.deny_adm (t : Tag) (c : Byte) (r : Reason) : (p.deny t c r).adm = p.adm := p.emit_adm _ _ _ _
@[simp] theorem Part.deny_xt (t : Tag) (c : Byte) (r : Reason) : (p.deny t c r).xt = p.xt := p.emit_xt _ _ _ _
@[simp] theorem Part.deny_feeds (t : Tag) (c : Byte) (r : Reason) : (p.deny t c r).feeds = p.feeds := p.emit_feeds _ _ _ _
@[simp] theorem Part.deny_mode (t : Tag) (c : Byte) (r : Reason) : (p.deny t c r).mode = p.mode := p.emit_mode _ _ _ _
@[simp] theorem Part.deny_sup (t : Tag) (c : Byte) (r : Reason) : (p.deny t c r).sup = p.sup := p.emit_sup _ _ _ _
@[simp] theorem Part.deny_cfg (t : Tag) (c : Byte) (r : Reason) : (p.deny t c r).cfg = p.cfg := p.emit_cfg _ _ _ _
@[simp] theorem Part.deny_clock (t : Tag) (c : Byte) (r : Reason) : (p.deny t c r).clock = p.clock := p.emit_clock _ _ _ _
@[simp] theorem Part.deny_resetCause (t : Tag) (c : Byte) (r : Reason) : (p.deny t c r).resetCause = p.resetCause := p.emit_resetCause _ _ _ _
@[simp] theorem Part.deny_resetWait (t : Tag) (c : Byte) (r : Reason) : (p.deny t c r).resetWait = p.resetWait := p.emit_resetWait _ _ _ _
@[simp] theorem Part.deny_ringQueue (t : Tag) (c : Byte) (r : Reason) : (p.deny t c r).ringQueue = p.ringQueue := p.emit_ringQueue _ _ _ _
@[simp] theorem Part.deny_stopIn (t : Tag) (c : Byte) (r : Reason) : (p.deny t c r).stopIn = p.stopIn := p.emit_stopIn _ _ _ _
@[simp] theorem Part.deny_resetLine (t : Tag) (c : Byte) (r : Reason) : (p.deny t c r).resetLine = p.resetLine := p.emit_resetLine _ _ _ _
@[simp] theorem Part.deny_stopOut (t : Tag) (c : Byte) (r : Reason) : (p.deny t c r).stopOut = p.stopOut := p.emit_stopOut _ _ _ _
@[simp] theorem Part.deny_owed (t : Tag) (c : Byte) (r : Reason) : (p.deny t c r).owed = p.owed := p.emit_owed _ _ _ _
@[simp] theorem Part.deny_order (t : Tag) (c : Byte) (r : Reason) : (p.deny t c r).order = p.order := p.emit_order _ _ _ _

@[simp] theorem Part.refuse_jacks (d : Byte) (k : Kind) (t : Tag) (r : Reason) : (p.refuse d k t r).jacks = p.jacks := p.emit_jacks _ _ _ _
@[simp] theorem Part.refuse_sectors (d : Byte) (k : Kind) (t : Tag) (r : Reason) : (p.refuse d k t r).sectors = p.sectors := p.emit_sectors _ _ _ _
@[simp] theorem Part.refuse_adm (d : Byte) (k : Kind) (t : Tag) (r : Reason) : (p.refuse d k t r).adm = p.adm := p.emit_adm _ _ _ _
@[simp] theorem Part.refuse_xt (d : Byte) (k : Kind) (t : Tag) (r : Reason) : (p.refuse d k t r).xt = p.xt := p.emit_xt _ _ _ _
@[simp] theorem Part.refuse_feeds (d : Byte) (k : Kind) (t : Tag) (r : Reason) : (p.refuse d k t r).feeds = p.feeds := p.emit_feeds _ _ _ _
@[simp] theorem Part.refuse_mode (d : Byte) (k : Kind) (t : Tag) (r : Reason) : (p.refuse d k t r).mode = p.mode := p.emit_mode _ _ _ _
@[simp] theorem Part.refuse_sup (d : Byte) (k : Kind) (t : Tag) (r : Reason) : (p.refuse d k t r).sup = p.sup := p.emit_sup _ _ _ _
@[simp] theorem Part.refuse_cfg (d : Byte) (k : Kind) (t : Tag) (r : Reason) : (p.refuse d k t r).cfg = p.cfg := p.emit_cfg _ _ _ _
@[simp] theorem Part.refuse_clock (d : Byte) (k : Kind) (t : Tag) (r : Reason) : (p.refuse d k t r).clock = p.clock := p.emit_clock _ _ _ _
@[simp] theorem Part.refuse_resetCause (d : Byte) (k : Kind) (t : Tag) (r : Reason) : (p.refuse d k t r).resetCause = p.resetCause := p.emit_resetCause _ _ _ _
@[simp] theorem Part.refuse_resetWait (d : Byte) (k : Kind) (t : Tag) (r : Reason) : (p.refuse d k t r).resetWait = p.resetWait := p.emit_resetWait _ _ _ _
@[simp] theorem Part.refuse_ringQueue (d : Byte) (k : Kind) (t : Tag) (r : Reason) : (p.refuse d k t r).ringQueue = p.ringQueue := p.emit_ringQueue _ _ _ _
@[simp] theorem Part.refuse_stopIn (d : Byte) (k : Kind) (t : Tag) (r : Reason) : (p.refuse d k t r).stopIn = p.stopIn := p.emit_stopIn _ _ _ _
@[simp] theorem Part.refuse_resetLine (d : Byte) (k : Kind) (t : Tag) (r : Reason) : (p.refuse d k t r).resetLine = p.resetLine := p.emit_resetLine _ _ _ _
@[simp] theorem Part.refuse_stopOut (d : Byte) (k : Kind) (t : Tag) (r : Reason) : (p.refuse d k t r).stopOut = p.stopOut := p.emit_stopOut _ _ _ _
@[simp] theorem Part.refuse_owed (d : Byte) (k : Kind) (t : Tag) (r : Reason) : (p.refuse d k t r).owed = p.owed := p.emit_owed _ _ _ _
@[simp] theorem Part.refuse_order (d : Byte) (k : Kind) (t : Tag) (r : Reason) : (p.refuse d k t r).order = p.order := p.emit_order _ _ _ _

@[simp] theorem Part.held_jacks (a : Byte) (t : Tag) (r : Reason) : (p.held a t r).jacks = p.jacks := p.emit_jacks _ _ _ _
@[simp] theorem Part.held_sectors (a : Byte) (t : Tag) (r : Reason) : (p.held a t r).sectors = p.sectors := p.emit_sectors _ _ _ _
@[simp] theorem Part.held_adm (a : Byte) (t : Tag) (r : Reason) : (p.held a t r).adm = p.adm := p.emit_adm _ _ _ _
@[simp] theorem Part.held_xt (a : Byte) (t : Tag) (r : Reason) : (p.held a t r).xt = p.xt := p.emit_xt _ _ _ _
@[simp] theorem Part.held_feeds (a : Byte) (t : Tag) (r : Reason) : (p.held a t r).feeds = p.feeds := p.emit_feeds _ _ _ _
@[simp] theorem Part.held_mode (a : Byte) (t : Tag) (r : Reason) : (p.held a t r).mode = p.mode := p.emit_mode _ _ _ _
@[simp] theorem Part.held_sup (a : Byte) (t : Tag) (r : Reason) : (p.held a t r).sup = p.sup := p.emit_sup _ _ _ _
@[simp] theorem Part.held_cfg (a : Byte) (t : Tag) (r : Reason) : (p.held a t r).cfg = p.cfg := p.emit_cfg _ _ _ _
@[simp] theorem Part.held_clock (a : Byte) (t : Tag) (r : Reason) : (p.held a t r).clock = p.clock := p.emit_clock _ _ _ _
@[simp] theorem Part.held_resetCause (a : Byte) (t : Tag) (r : Reason) : (p.held a t r).resetCause = p.resetCause := p.emit_resetCause _ _ _ _
@[simp] theorem Part.held_resetWait (a : Byte) (t : Tag) (r : Reason) : (p.held a t r).resetWait = p.resetWait := p.emit_resetWait _ _ _ _
@[simp] theorem Part.held_ringQueue (a : Byte) (t : Tag) (r : Reason) : (p.held a t r).ringQueue = p.ringQueue := p.emit_ringQueue _ _ _ _
@[simp] theorem Part.held_stopIn (a : Byte) (t : Tag) (r : Reason) : (p.held a t r).stopIn = p.stopIn := p.emit_stopIn _ _ _ _
@[simp] theorem Part.held_resetLine (a : Byte) (t : Tag) (r : Reason) : (p.held a t r).resetLine = p.resetLine := p.emit_resetLine _ _ _ _
@[simp] theorem Part.held_stopOut (a : Byte) (t : Tag) (r : Reason) : (p.held a t r).stopOut = p.stopOut := p.emit_stopOut _ _ _ _
@[simp] theorem Part.held_owed (a : Byte) (t : Tag) (r : Reason) : (p.held a t r).owed = p.owed := p.emit_owed _ _ _ _
@[simp] theorem Part.held_order (a : Byte) (t : Tag) (r : Reason) : (p.held a t r).order = p.order := p.emit_order _ _ _ _

@[simp] theorem Part.ended_jacks (a : Byte) (t : Tag) (n : Nat) (r : Reason) : (p.ended a t n r).jacks = p.jacks := p.emit_jacks _ _ _ _
@[simp] theorem Part.ended_sectors (a : Byte) (t : Tag) (n : Nat) (r : Reason) : (p.ended a t n r).sectors = p.sectors := p.emit_sectors _ _ _ _
@[simp] theorem Part.ended_adm (a : Byte) (t : Tag) (n : Nat) (r : Reason) : (p.ended a t n r).adm = p.adm := p.emit_adm _ _ _ _
@[simp] theorem Part.ended_xt (a : Byte) (t : Tag) (n : Nat) (r : Reason) : (p.ended a t n r).xt = p.xt := p.emit_xt _ _ _ _
@[simp] theorem Part.ended_feeds (a : Byte) (t : Tag) (n : Nat) (r : Reason) : (p.ended a t n r).feeds = p.feeds := p.emit_feeds _ _ _ _
@[simp] theorem Part.ended_mode (a : Byte) (t : Tag) (n : Nat) (r : Reason) : (p.ended a t n r).mode = p.mode := p.emit_mode _ _ _ _
@[simp] theorem Part.ended_sup (a : Byte) (t : Tag) (n : Nat) (r : Reason) : (p.ended a t n r).sup = p.sup := p.emit_sup _ _ _ _
@[simp] theorem Part.ended_cfg (a : Byte) (t : Tag) (n : Nat) (r : Reason) : (p.ended a t n r).cfg = p.cfg := p.emit_cfg _ _ _ _
@[simp] theorem Part.ended_clock (a : Byte) (t : Tag) (n : Nat) (r : Reason) : (p.ended a t n r).clock = p.clock := p.emit_clock _ _ _ _
@[simp] theorem Part.ended_resetCause (a : Byte) (t : Tag) (n : Nat) (r : Reason) : (p.ended a t n r).resetCause = p.resetCause := p.emit_resetCause _ _ _ _
@[simp] theorem Part.ended_resetWait (a : Byte) (t : Tag) (n : Nat) (r : Reason) : (p.ended a t n r).resetWait = p.resetWait := p.emit_resetWait _ _ _ _
@[simp] theorem Part.ended_ringQueue (a : Byte) (t : Tag) (n : Nat) (r : Reason) : (p.ended a t n r).ringQueue = p.ringQueue := p.emit_ringQueue _ _ _ _
@[simp] theorem Part.ended_stopIn (a : Byte) (t : Tag) (n : Nat) (r : Reason) : (p.ended a t n r).stopIn = p.stopIn := p.emit_stopIn _ _ _ _
@[simp] theorem Part.ended_resetLine (a : Byte) (t : Tag) (n : Nat) (r : Reason) : (p.ended a t n r).resetLine = p.resetLine := p.emit_resetLine _ _ _ _
@[simp] theorem Part.ended_stopOut (a : Byte) (t : Tag) (n : Nat) (r : Reason) : (p.ended a t n r).stopOut = p.stopOut := p.emit_stopOut _ _ _ _
@[simp] theorem Part.ended_owed (a : Byte) (t : Tag) (n : Nat) (r : Reason) : (p.ended a t n r).owed = p.owed := p.emit_owed _ _ _ _
@[simp] theorem Part.ended_order (a : Byte) (t : Tag) (n : Nat) (r : Reason) : (p.ended a t n r).order = p.order := p.emit_order _ _ _ _

end

end Sys2Proof.Machine
end

