-- ==== Sys2Proof/Laws/Quiet.lean ====
section
/-! SUPPORT. What happens inside the part while neither the climb mode, the stop states, the jack table, the layer
table nor the configuration changes: frames sent, events, the deferred queue, the transaction table, creep, the
lease, condition states and the log. Quiet says once everything such an operation can do; the lemmas say that each
operation does no more. -/

namespace Sys2Proof.Machine

/-- The place of a closed command's jack in its pump group is free again (R72 step 4). -/
def Part.releaseOf (c : Command) (p : Part) : Part :=
  match c.task with
  | .lift j => p.release (p.groupOf j)
  | .pour _ _ => p

/-- A new LIFT may take a place: no command of the jack is open, the table and the group have room. -/
def Part.HasPlace (p : Part) (j : JackId) : Prop :=
  p.openCount < Config.maxOpen ∧ p.occupancy (p.groupOf j) ≠ p.bank.groups[p.groupOf j]

inductive Quiet : Part → Part → Prop
  | refl (p : Part) : Quiet p p
  | trans {p q r : Part} : Quiet p q → Quiet q r → Quiet p r
  | send (p : Part) (f : Frame) (room : p.sendQueue.length < Config.maxSend) (dest : f.dest = 0) :
      Quiet p { p with sendQueue := p.sendQueue ++ [f] }
  | raise (p : Part) (e : EventKind) : Quiet p (p.raise e)
  | ring (p : Part) (k : Kind) (d : Byte) (t : Tag) (l : List Byte) : Quiet p (p.ringOut false k d t l)
  | queue (p : Part) (l : List Entry) (sub : (l.map (·.jack)).Sublist (p.adm.queue.map (·.jack))) :
      Quiet p (p.setQueue l)
  | promote (p : Part) (e : Entry) (n : Nat) (o : Origin) (here : p.entryOf e.jack = some e)
      (place : p.HasPlace e.jack) : Quiet p ((p.dropEntry e.jack).admitLift e.jack n o)
  | issue (p : Part) (j : JackId) (n : Nat) (o : Origin) (closed : p.openOf (.jack j) = none)
      (fresh : p.entryOf j = none) (place : p.HasPlace j) : Quiet p (p.admitLift j n o)
  | table (p : Part) (l : List Command)
      (same : l.map Command.subject = p.xt.table.map Command.subject) : Quiet p (p.setTable l)
  | tags (p : Part) (a : Addr) (t : NodeTags) : Quiet p (p.setNodeTags a t)
  | close (p q : Part) (c : Command) (here : (p.openOf c.subject).isSome)
      (inner : Quiet (p.removeCommand c.subject) q) : Quiet p (q.releaseOf c)
  | feed (p : Part) (f : FeedId) (x : Feed) : Quiet p (p.setFeed f x)
  | mode (p : Part) (m : ModeRecord) (same : m.mode = p.mode.mode)
      (timer : m.creepTimer = p.mode.creepTimer) : Quiet p (p.setMode m)
  | pair (p : Part) (q : Pair) (r : PairRecord)
      (stop : ∀ k, pairSector q = some k →
        r.stopsSector = (p.pair q).stopsSector ∨ (r.stopsSector = true ∧ p.sectorStopped k = true)) :
      Quiet p (p.setPair q r)
  | log (p : Part) (l : List LogRecord) (ok : LogLawful p.mon.log → LogLawful l) : Quiet p (p.setLog l)

namespace Quiet

/-- What a quiet operation leaves as it was. -/
structure Keeps (p q : Part) : Prop where
  jacks : q.jacks = p.jacks
  sectors : q.sectors = p.sectors
  sup : q.sup = p.sup
  cfg : q.cfg = p.cfg
  clock : q.clock = p.clock
  resetCause : q.resetCause = p.resetCause
  resetWait : q.resetWait = p.resetWait
  stopIn : q.stopIn = p.stopIn
  resetLine : q.resetLine = p.resetLine
  stopOut : q.stopOut = p.stopOut
  owed : q.owed = p.owed
  order : q.order = p.order
  climb : q.mode.mode = p.mode.mode
  timer : q.mode.creepTimer = p.mode.creepTimer
  blanking : q.mon.blanking = p.mon.blanking
  alert : q.mon.alert = p.mon.alert
  stopped : ∀ k, q.sectorStopped k = p.sectorStopped k

theorem Keeps.trans {p q r : Part} (a : Keeps p q) (b : Keeps q r) : Keeps p r :=
  ⟨b.jacks.trans a.jacks, b.sectors.trans a.sectors, b.sup.trans a.sup, b.cfg.trans a.cfg,
    b.clock.trans a.clock, b.resetCause.trans a.resetCause, b.resetWait.trans a.resetWait,
    b.stopIn.trans a.stopIn, b.resetLine.trans a.resetLine, b.stopOut.trans a.stopOut, b.owed.trans a.owed,
    b.order.trans a.order, b.climb.trans a.climb, b.timer.trans a.timer, b.blanking.trans a.blanking,
    b.alert.trans a.alert,
    fun k => (b.stopped k).trans (a.stopped k)⟩

theorem sectorPairs_sector {q : Pair} {k : SectorId} (h : q ∈ sectorPairs k) : pairSector q = some k := by
  simp only [sectorPairs, List.mem_cons, List.not_mem_nil, or_false] at h
  rcases h with rfl | rfl | rfl | rfl | rfl | rfl <;> rfl

theorem mem_sectorPairs {q : Pair} {k : SectorId} (h : pairSector q = some k) : q ∈ sectorPairs k := by
  cases q <;> simp_all [pairSector, sectorPairs]

theorem sectorStopped_congr {p q : Part} (h : ∀ x, (q.pair x).stopsSector = (p.pair x).stopsSector)
    (k : SectorId) : q.sectorStopped k = p.sectorStopped k := by
  simp [Part.sectorStopped, h]

theorem sectorStopped_setPair {p : Part} {q : Pair} {r : PairRecord}
    (stop : ∀ k, pairSector q = some k →
        r.stopsSector = (p.pair q).stopsSector ∨ (r.stopsSector = true ∧ p.sectorStopped k = true))
    (k : SectorId) : (p.setPair q r).sectorStopped k = p.sectorStopped k := by
  by_cases hq : pairSector q = some k
  · rcases stop k hq with h | ⟨h, hk⟩
    · refine sectorStopped_congr (fun x => ?_) k
      by_cases hx : x = q
      · subst hx; simpa using h
      · rw [Part.pair_setPair_ne p _ hx]
    · rw [hk]
      exact List.any_eq_true.mpr ⟨q, mem_sectorPairs hq, by simpa using h⟩
  · unfold Part.sectorStopped
    refine Bool.eq_iff_iff.mpr ?_
    simp only [List.any_eq_true]
    refine exists_congr fun x => and_congr_right fun hx => ?_
    rw [Part.pair_setPair_ne p]
    rintro rfl
    exact hq (sectorPairs_sector hx)

theorem Part.admitLift_keeps (p : Part) (j : JackId) (n : Nat) (o : Origin) : Keeps p (p.admitLift j n o) := by
  constructor <;> intros <;> rfl

theorem keeps {p q : Part} (h : Quiet p q) : Keeps p q := by
  induction h with
  | refl p => constructor <;> intros <;> rfl
  | trans _ _ a b => exact a.trans b
  | close p q c _ _ ih =>
    refine Keeps.trans (q := p.removeCommand c.subject) ?_ (ih.trans ?_)
    · constructor <;> intros <;> rfl
    · unfold Part.releaseOf; split <;> constructor <;> intros <;> rfl
  | promote p e n o _ _ =>
    exact Keeps.trans (q := p.dropEntry e.jack) (by constructor <;> intros <;> rfl)
      (Part.admitLift_keeps _ _ _ _)
  | issue p j n o _ _ _ => exact Part.admitLift_keeps _ _ _ _
  | pair p q r stop => constructor <;> first | rfl | exact sectorStopped_setPair stop
  | mode p m same timer => constructor <;> first | exact same | exact timer | (intros; rfl)
  | _ => constructor <;> intros <;> rfl

/-- Quiet steps along a list. -/
theorem foldl {α : Type} {f : Part → α → Part} (h : ∀ p a, Quiet p (f p a)) (l : List α) (p : Part) :
    Quiet p (l.foldl f p) := by
  induction l generalizing p with
  | nil => exact .refl p
  | cons a l ih => exact (h p a).trans (ih _)

end Quiet

section
variable (p : Part)

/-! ### Frames and events -/

theorem Part.raiseIf_quiet (b : Bool) (e : EventKind) : Quiet p (p.raiseIf b e) := by
  unfold Part.raiseIf; split
  · exact .raise p e
  · exact .refl p

theorem Part.emit_quiet (k : Kind) (s : Byte) (t : Tag) (l : List Byte) : Quiet p (p.emit k s t l) := by
  unfold Part.emit; split
  · exact .send p _ ‹_› rfl
  · exact .raise p _

theorem Part.reply_quiet (t : Tag) (c o : Byte) (l : List Byte) : Quiet p (p.reply t c o l) := p.emit_quiet ..
theorem Part.ack_quiet (t : Tag) (c : Byte) : Quiet p (p.ack t c) := p.emit_quiet ..
theorem Part.data_quiet (t : Tag) (c : Byte) (l : List Byte) : Quiet p (p.data t c l) := p.emit_quiet ..
theorem Part.deny_quiet (t : Tag) (c : Byte) (r : Reason) : Quiet p (p.deny t c r) := p.emit_quiet ..
theorem Part.refuse_quiet (d : Byte) (k : Kind) (t : Tag) (r : Reason) : Quiet p (p.refuse d k t r) :=
  p.emit_quiet ..
theorem Part.held_quiet (a : Byte) (t : Tag) (r : Reason) : Quiet p (p.held a t r) := p.emit_quiet ..
theorem Part.ended_quiet (a : Byte) (t : Tag) (n : Nat) (r : Reason) : Quiet p (p.ended a t n r) :=
  p.emit_quiet ..

/-! ### The transaction table -/

theorem Part.setAbandoned_quiet (a : Addr) (x : Option Abandoned) : Quiet p (p.setAbandoned a x) := .tags p a _

theorem Part.setCounter_quiet (a : Addr) (t : Tag) : Quiet p (p.setCounter a t) := .tags p a _

theorem Part.setCommand_quiet (c : Command) : Quiet p (p.setCommand c) := by
  refine .table p _ ?_
  rw [List.map_map]
  refine List.map_congr_left fun d _ => ?_
  by_cases h : d.subject = c.subject <;> simp [h]

theorem Part.sendFrame_quiet (c : Command) : Quiet p (p.sendFrame c) := by
  unfold Part.sendFrame; split <;> exact .ring p _ _ _ _

theorem Part.sendSub_quiet (c : Command) : Quiet p (p.sendSub c) :=
  ((p.setCounter_quiet _ _).trans (Part.setCommand_quiet _ _)).trans (Part.sendFrame_quiet _ _)

theorem Part.resend_quiet (c : Command) : Quiet p (p.resend c) :=
  (p.setCommand_quiet _).trans (Part.sendFrame_quiet _ _)

theorem Part.markAll_quiet (e : Ending) (which : Command → Bool) : Quiet p (p.markAll e which) := by
  refine .table p _ ?_
  rw [List.map_map]
  refine List.map_congr_left fun d _ => ?_
  simp only [Function.comp]
  split <;> rfl

theorem Part.markOf_quiet (e : Ending) (x : Subject) : Quiet p (p.markOf e x) := p.markAll_quiet _ _

theorem Part.stillNode_quiet (c : Command) : Quiet p (p.stillNode c) := .ring p _ _ _ _

/-! ### The deferred queue -/

theorem Part.dropEntry_quiet (j : JackId) : Quiet p (p.dropEntry j) :=
  .queue p _ (List.filter_sublist.map _)

theorem Part.refuseEntry_quiet (r : Reason) (e : Entry) : Quiet p (p.refuseEntry r e) :=
  (p.dropEntry_quiet _).trans (Part.refuse_quiet _ _ _ _ _)

theorem Part.removeEntries_quiet (which : Entry → Bool) (r : Reason) : Quiet p (p.removeEntries which r) :=
  Quiet.foldl (fun p e => p.refuseEntry_quiet r e) _ p

theorem Part.flush_quiet (r : Reason) : Quiet p (p.flush r) := p.removeEntries_quiet _ _

theorem Part.rehold_quiet (e : Entry) (r : Reason) : Quiet p (p.rehold e r) := by
  unfold Part.rehold; split
  · exact .refl p
  · refine (Quiet.queue p _ ?_).trans (Part.held_quiet _ _ _ _)
    have : ((p.adm.queue.map fun d => if d.jack = e.jack then { d with reason := r } else d).map (·.jack))
        = p.adm.queue.map (·.jack) := by
      rw [List.map_map]
      refine List.map_congr_left fun d _ => ?_
      simp only [Function.comp]
      split <;> rfl
    rw [this]

/-- A LIFT that no transient check holds back has a place (R44, R45). -/
theorem Part.hasPlace_of_transientCheck {p : Part} {j : JackId} {n : Nat}
    (h : p.transientCheck j n = none) : p.HasPlace j := by
  unfold Part.transientCheck at h
  split at h <;> first | contradiction | skip
  split at h <;> first | contradiction | skip
  split at h <;> first | contradiction | skip
  exact ⟨by omega, by assumption⟩

theorem Part.entryOf_jack {p : Part} {j : JackId} {e : Entry} (h : p.entryOf j = some e) : e.jack = j := by
  simpa using List.find?_some h

theorem Part.examine_quiet (b : Bool) (j : JackId) : Quiet p (p.examine b j) := by
  unfold Part.examine
  split
  · next e he =>
    have hj := Part.entryOf_jack he
    unfold Part.examineEntry
    split
    · exact .refl p
    split
    · exact p.refuseEntry_quiet _ _
    split
    · exact p.refuseEntry_quiet _ _
    split
    · next hc => exact .promote p e _ _ (hj ▸ he) (Part.hasPlace_of_transientCheck hc)
    · exact p.rehold_quiet _ _
  · exact .refl p

theorem Part.passWith_quiet (b : Bool) : Quiet p (p.passWith b) :=
  Quiet.foldl (fun p j => p.examine_quiet b j) _ p

theorem Part.admPass_quiet : Quiet p p.admPass := p.passWith_quiet _

/-! ### Creep and the lease -/

theorem Part.leaseTest_quiet : Quiet p p.leaseTest := by
  unfold Part.leaseTest
  split
  · split
    · refine (Quiet.mode p { p.mode with lease := _ } ?_ ?_).trans (Part.reply_quiet _ _ _ _ _) <;> rfl
    · exact .refl p
  · exact .refl p
  · exact .refl p

theorem Part.leaseSince_quiet (pre : Part) : Quiet p (pre.leaseSince p) := by
  unfold Part.leaseSince
  split
  · exact .refl p
  · exact p.leaseTest_quiet

theorem Part.dropFromRound_quiet (j : JackId) : Quiet p (p.dropFromRound j) := .mode p _ rfl rfl

theorem Part.emptyRound_quiet : Quiet p p.emptyRound := .mode p _ rfl rfl

/-- What passing checks 4 to 7 says of the jack's commands (R43 check 6). -/
theorem Part.free_of_jackCheck {p : Part} {j : JackId} {n : Nat} (h : p.jackCheck j n = none) :
    p.openOf (.jack j) = none ∧ p.entryOf j = none := by
  unfold Part.jackCheck at h
  split at h <;> first | contradiction | skip
  split at h <;> first | contradiction | skip
  split at h <;> first | contradiction | skip
  simp_all

theorem Part.offer_quiet (j : JackId) : Quiet p (p.offer j) := by
  unfold Part.offer
  split
  · next h =>
    have hj : p.jackCheck j 1 = none ∧ p.transientCheck j 1 = none := by
      unfold Part.deviceCheck at h
      split at h
      · contradiction
      · exact ⟨by assumption, h⟩
    have hf := Part.free_of_jackCheck hj.1
    exact ((Quiet.issue p j 1 .device hf.1 hf.2 (Part.hasPlace_of_transientCheck hj.2)).trans
      (Part.dropFromRound_quiet _ _)).trans (.mode _ _ rfl rfl)
  · split
    · exact .refl p
    · exact p.dropFromRound_quiet j

theorem Part.endRoundTest_quiet : Quiet p p.endRoundTest := by
  unfold Part.endRoundTest
  split
  · exact .mode p { p.mode with roundInProgress := false } rfl rfl
  · exact .refl p

theorem Part.dropStuck_quiet : Quiet p p.dropStuck := by
  unfold Part.dropStuck
  split
  · exact .mode p { p.mode with roundList := [] } rfl rfl
  · exact .refl p

theorem Part.creepPass_quiet : Quiet p p.creepPass :=
  ((Quiet.foldl (fun p j => p.offer_quiet j) _ p).trans (Part.dropStuck_quiet _)).trans
    (Part.endRoundTest_quiet _)

theorem Part.creepPassIfWaiting_quiet : Quiet p p.creepPassIfWaiting := by
  unfold Part.creepPassIfWaiting; split
  · exact .refl p
  · exact p.creepPass_quiet

theorem Part.startRound_quiet : Quiet p p.startRound := by
  refine (Quiet.mode p { p.mode with
    roundInProgress := true
    roundList := jackIds.filter fun j => (p.jack j).state.climbs && !p.sectorStopped (p.sectorOf j) }
    rfl rfl).trans (Part.creepPass_quiet _)

theorem Part.roundLoses_quiet (j : JackId) : Quiet p (p.roundLoses j) :=
  (p.dropFromRound_quiet j).trans (Part.endRoundTest_quiet _)

theorem Part.toldOfClose_quiet (o : Origin) : Quiet p (p.toldOfClose o) := by
  unfold Part.toldOfClose
  split
  · exact ((Quiet.mode p { p.mode with roundCommands := p.mode.roundCommands - 1 } rfl rfl).trans
      (Part.creepPassIfWaiting_quiet _)).trans (Part.endRoundTest_quiet _)
  · exact p.creepPassIfWaiting_quiet

theorem Part.owedRound_quiet : Quiet p p.owedRound := by
  unfold Part.owedRound; split
  · exact (Quiet.mode p { p.mode with roundOwed := false } rfl rfl).trans (Part.startRound_quiet _)
  · exact .refl p

/-! ### The condition monitor -/

theorem Part.setPairState_quiet (q : Pair) (x : PairState) : Quiet p (p.setPairState q x) :=
  .pair p q _ fun _ _ => .inl rfl

/-- A map that keeps every record's pair keeps the log lawful. -/
theorem LogLawful.map {l : List LogRecord} (f : LogRecord → LogRecord) (hf : ∀ r, (f r).pair = r.pair)
    (h : LogLawful l) : LogLawful (l.map f) := by
  refine ⟨by simpa using h.1, ?_⟩
  rw [List.map_map, show (fun r : LogRecord => r.pair) ∘ f = fun r => r.pair from funext hf]
  exact h.2

theorem Part.cease_quiet (q : Pair) : Quiet p (p.cease q) := by
  refine (p.setPairState_quiet q _).trans (Quiet.log _ _ fun h => ?_)
  simp only [Part.setPairState_mon] at h
  split
  · exact LogLawful.map _ (fun r => by split <;> rfl) h
  · exact h

theorem LogLawful.sublist {l m : List LogRecord} (hs : l.Sublist m) (h : LogLawful m) : LogLawful l :=
  ⟨hs.length_le.trans h.1, (hs.map _).nodup h.2⟩

/-- Room in the log keeps a part of it, with place for one more (R132). -/
theorem logRoom_spec {l m : List LogRecord} (h : logRoom l = some m) (hl : l.length ≤ Config.maxLog) :
    m.Sublist l ∧ m.length < Config.maxLog := by
  unfold logRoom at h
  split at h
  · cases h; exact ⟨.refl _, by assumption⟩
  split at h
  · next hx =>
    cases h
    obtain ⟨r, hr, hp⟩ := List.any_eq_true.mp hx
    have := List.length_eraseP_of_mem (p := fun r : LogRecord => !r.present) hr hp
    have : 0 < l.length := List.length_pos_of_mem hr
    exact ⟨List.eraseP_sublist, by omega⟩
  split at h
  · next hx =>
    cases h
    obtain ⟨r, hr, hp⟩ := List.any_eq_true.mp hx
    have := List.length_eraseP_of_mem (p := fun r : LogRecord => r.applied == .warn) hr hp
    have : 0 < l.length := List.length_pos_of_mem hr
    exact ⟨List.eraseP_sublist, by omega⟩
  · contradiction

theorem Part.logAssertion_quiet (q : Pair) (m : CondMode) (d : Option JackId) :
    Quiet p (p.logAssertion q m d) := by
  unfold Part.logAssertion
  split
  · exact .log p _ (LogLawful.map _ fun r => by split <;> rfl)
  · next hn =>
    split
    · next l hl =>
      refine .log p _ fun h => ?_
      have hs := logRoom_spec hl h.1
      refine ⟨by simp; omega, ?_⟩
      have hd := (LogLawful.sublist hs.1 h).2
      rw [List.map_append, List.nodup_append]
      refine ⟨hd, by simp, ?_⟩
      intro a ha b hb
      simp only [List.map_cons, List.map_nil, List.mem_singleton] at hb
      subst hb
      rintro rfl
      obtain ⟨r, hr, rfl⟩ := List.mem_map.mp ha
      exact hn (List.any_eq_true.mpr ⟨r, hs.1.subset hr, by simp⟩)
    · exact .raise p _

theorem Part.addRingCause_quiet (q : Pair) : Quiet p (p.addRingCause q) := .pair p q _ fun _ _ => .inl rfl

/-- A test that asserts nothing is quiet (R125). -/
theorem Part.follow_quiet (q : Pair) (b : Bool) : Quiet p (p.follow q b) := by
  unfold Part.follow
  split
  · split
    · exact p.setPairState_quiet _ _
    · exact .refl p
  · split
    · exact .refl p
    · exact p.cease_quiet q
  · split
    · exact .refl p
    · exact p.cease_quiet q

/-! ### Closing -/

theorem Part.answerEnded_quiet (c : Command) (r : Reason) : Quiet p (p.answerEnded c r) := by
  unfold Part.answerEnded; split
  · exact p.ended_quiet _ _ _ _
  · exact .refl p

/-- A close whose middle is quiet is quiet (R72). -/
theorem Part.closeWith_quiet {c : Command} {answer fault : Part → Part} (here : (p.openOf c.subject).isSome)
    (inner : Quiet (p.removeCommand c.subject) (fault (answer (p.removeCommand c.subject)))) :
    Quiet p (p.closeWith c answer fault) :=
  ((Quiet.close p _ c here inner).trans (Part.admPass_quiet _)).trans (Part.toldOfClose_quiet _ _)

theorem Part.feedReturn_quiet (f : FeedId) : Quiet p (p.feedReturn f) := by
  unfold Part.feedReturn; split
  · exact (Quiet.feed p f _).trans (Part.cease_quiet _ _)
  · exact .refl p

theorem Part.subjectReturn_quiet (c : Command) : Quiet p (p.subjectReturn c) := by
  unfold Part.subjectReturn; split
  · exact .refl p
  · exact p.feedReturn_quiet _

theorem Part.closeEnded_quiet {c : Command} (r : Reason) (here : (p.openOf c.subject).isSome) :
    Quiet p (p.closeEnded c r) :=
  p.closeWith_quiet here ((Part.answerEnded_quiet _ c r).trans (Part.subjectReturn_quiet _ c))

theorem Part.openOf_subject {p : Part} {x : Subject} {c : Command} (h : p.openOf x = some c) :
    c.subject = x := by
  simpa using List.find?_some h

theorem Part.closeStopped_quiet (x : Subject) : Quiet p (p.closeStopped x) := by
  unfold Part.closeStopped
  split
  · next c hc =>
    have here : (p.openOf c.subject).isSome := by rw [Part.openOf_subject hc, hc]; rfl
    split
    · exact p.closeEnded_quiet _ here
    · exact .refl p
  · exact .refl p

theorem Part.closeAllStopped_quiet : Quiet p p.closeAllStopped :=
  Quiet.foldl (fun p x => p.closeStopped_quiet x) _ p

/-! ### Assertions that stop nothing -/

theorem Part.noteAssertion_quiet (q : Pair) (d : Option JackId)
    (still : p.bank.condMode q = .sector → ∀ k, pairSector q = some k → p.sectorStopped k = true) :
    Quiet p (p.noteAssertion q d) := by
  unfold Part.noteAssertion
  generalize hm : p.bank.condMode q = m at still ⊢
  have h1 := p.setPairState_quiet q (.present m)
  cases m with
  | ignore => exact h1
  | warn => exact (h1.trans (Part.logAssertion_quiet _ _ _ _)).trans (.raise _ _)
  | ring => exact (h1.trans (Part.logAssertion_quiet _ _ _ _)).trans (Part.addRingCause_quiet _ _)
  | sector =>
    refine (h1.trans (Part.logAssertion_quiet _ _ _ _)).trans (.pair _ q _ fun k hk => .inr ⟨rfl, ?_⟩)
    exact ((h1.trans (Part.logAssertion_quiet _ _ _ _)).keeps.stopped k).trans (still rfl k hk)

/-- An assertion of the ring's is quiet but for the ring stop it asks for (R127). -/
theorem Part.assertHere_quiet (q : Pair) (d : Option JackId)
    (still : p.bank.condMode q = .sector → ∀ k, pairSector q = some k → p.sectorStopped k = true) :
    Quiet p (p.assertHere q d) := by
  unfold Part.assertHere
  split
  · next k hm hk =>
    rw [if_pos (still hm k hk)]
    exact p.noteAssertion_quiet q d still
  · exact p.noteAssertion_quiet q d still

/-- A test whose assertion is quiet is quiet. -/
theorem judging_quiet {q : Pair} {input : Part → Bool} (h : Quiet p (p.assertHere q none)) :
    Quiet p (judging q input p).1 := by
  unfold judging
  split
  · exact h
  · exact p.follow_quiet _ _

theorem spreadJudging_quiet : Quiet p (spreadJudging p).1 :=
  judging_quiet p (p.assertHere_quiet _ _ fun _ k hk => by cases hk)

/-- MON told of STOPPED: blanking, ALERT, then quiet (R99, R105). -/
theorem Part.toldOfStopped_quiet : Quiet p.endBlanking.updateAlert p.toldOfStopped := by
  unfold Part.toldOfStopped
  generalize sectorIds = l
  exact (Quiet.foldl (f := fun p k => p.follow (.starve k) false) (fun p _ => p.follow_quiet _ _) l
    p.endBlanking.updateAlert).trans (spreadJudging_quiet _)

end

end Sys2Proof.Machine
end

