-- ==== Sys2Proof/Laws/Loud.lean ====
section
/-! SUPPORT. What judging a condition can do: quiet changes, a sector stop (R128), the entry into STOPPED (R105).
Loud says once everything such an operation can do. It changes no jack, no layer and no configuration. -/

namespace Sys2Proof.Machine

/-- The mode record right after the entry into STOPPED (R105). -/
def Part.stoppedRecord (p : Part) : ModeRecord :=
  { p.mode with mode := .stopped p.mode.mode.left, creepTimer := none, roundList := [], roundOwed := false }

inductive Loud : Part → Part → Prop
  | quiet {p q : Part} : Quiet p q → Loud p q
  | trans {p q r : Part} : Loud p q → Loud q r → Loud p r
  | stop (p q r : Part) (running : p.mode.mode.isStopped = false) (before : Quiet (p.setMode p.stoppedRecord) q)
      (empty : p.mode.mode = .slip → q.adm.queue = []) (after : Quiet { q with stopOut := true } r) :
      Loud p r.endBlanking.updateAlert
  | sector (p r : Part) (q : Pair) (inner : Quiet (p.addSectorCause q) r) : Loud p r.updateAlert
  | supOff (p : Part) : Loud p { p with sup := { p.sup with active := false } }

namespace Loud

theorem refl (p : Part) : Loud p p := .quiet (.refl p)

theorem foldl {α : Type} {f : Part → α → Part} (h : ∀ p a, Loud p (f p a)) (l : List α) (p : Part) :
    Loud p (l.foldl f p) := by
  induction l generalizing p with
  | nil => exact .refl p
  | cons a l ih => exact (h p a).trans (ih _)

/-- What a loud operation leaves as it was. -/
structure Keeps (p q : Part) : Prop where
  jacks : q.jacks = p.jacks
  sectors : q.sectors = p.sectors
  cfg : q.cfg = p.cfg
  clock : q.clock = p.clock
  resetCause : q.resetCause = p.resetCause
  resetWait : q.resetWait = p.resetWait
  stopIn : q.stopIn = p.stopIn
  resetLine : q.resetLine = p.resetLine
  owed : q.owed = p.owed
  order : q.order = p.order

theorem Keeps.trans {p q r : Part} (a : Keeps p q) (b : Keeps q r) : Keeps p r :=
  ⟨b.jacks.trans a.jacks, b.sectors.trans a.sectors, b.cfg.trans a.cfg, b.clock.trans a.clock,
    b.resetCause.trans a.resetCause, b.resetWait.trans a.resetWait, b.stopIn.trans a.stopIn,
    b.resetLine.trans a.resetLine, b.owed.trans a.owed, b.order.trans a.order⟩

theorem Keeps.ofQuiet {p q : Part} (h : Quiet p q) : Keeps p q :=
  have k := h.keeps
  ⟨k.jacks, k.sectors, k.cfg, k.clock, k.resetCause, k.resetWait, k.stopIn, k.resetLine, k.owed, k.order⟩

theorem keeps {p q : Part} (h : Loud p q) : Keeps p q := by
  induction h with
  | quiet h => exact .ofQuiet h
  | trans _ _ a b => exact a.trans b
  | stop p q r _ before _ after =>
    have a := before.keeps
    have b := after.keeps
    exact ⟨b.jacks.trans a.jacks, b.sectors.trans a.sectors, b.cfg.trans a.cfg, b.clock.trans a.clock,
      b.resetCause.trans a.resetCause, b.resetWait.trans a.resetWait, b.stopIn.trans a.stopIn,
      b.resetLine.trans a.resetLine, b.owed.trans a.owed, b.order.trans a.order⟩
  | sector p r q inner =>
    have a := inner.keeps
    exact ⟨a.jacks, a.sectors, a.cfg, a.clock, a.resetCause, a.resetWait, a.stopIn, a.resetLine, a.owed, a.order⟩
  | supOff p => exact ⟨rfl, rfl, rfl, rfl, rfl, rfl, rfl, rfl, rfl, rfl⟩

end Loud

/-- No quiet operation fills an empty deferred queue. -/
theorem Quiet.queue_empty {p q : Part} (h : Quiet p q) : p.adm.queue = [] → q.adm.queue = [] := by
  induction h with
  | refl => exact id
  | trans _ _ a b => exact b ∘ a
  | queue p l sub =>
    intro h
    rw [h] at sub
    simpa using sub
  | promote p e n o here place =>
    intro h
    simp [Part.entryOf, h] at here
  | close p q c here inner ih =>
    intro h
    have := ih h
    unfold Part.releaseOf
    split <;> exact this
  | _ => exact id

section
variable (p : Part)

/-- What the removal of a list of entries leaves in the queue. -/
theorem Part.refuseEntries_queue (r : Reason) (l : List Entry) :
    (l.foldl (Part.refuseEntry r) p).adm.queue = p.adm.queue.filter fun e => l.all fun d => e.jack ≠ d.jack := by
  induction l generalizing p with
  | nil => simp
  | cons d l ih =>
    rw [List.foldl_cons, ih]
    simp [Part.refuseEntry, Part.dropEntry, List.filter_filter, Bool.and_comm]

/-- What a removal leaves: the entries of jacks of which no entry is of the kind (R57 to R60). -/
theorem Part.removeEntries_queue (which : Entry → Bool) (r : Reason) :
    (p.removeEntries which r).adm.queue
      = p.adm.queue.filter fun e => (p.adm.queue.filter which).all fun d => e.jack ≠ d.jack :=
  Part.refuseEntries_queue ..

/-- The flush empties the queue (R57). -/
theorem Part.flush_queue (r : Reason) : (p.flush r).adm.queue = [] := by
  rw [Part.flush, Part.removeEntries_queue]
  refine List.filter_eq_nil_iff.mpr fun e he h => ?_
  simp only [List.filter_true, List.all_eq_true] at h
  simpa using h e he

/-! ### Stops -/

theorem Part.stills_quiet (l : List Command) : Quiet p (l.foldl Part.stillNode p) :=
  Quiet.foldl (fun p c => p.stillNode_quiet c) l p

/-- A sector stop, up to ALERT, is quiet (R128). -/
theorem Part.stopSector_quiet (k : SectorId) :
    ∃ q, Quiet p q ∧ p.stopSector k = q.updateAlert := by
  refine ⟨_, ?_, rfl⟩
  refine Quiet.trans ?_ (Part.removeEntries_quiet _ _ _)
  refine Quiet.trans ?_ (Quiet.foldl (fun p x => p.closeStopped_quiet x) _ _)
  exact (p.markAll_quiet _ _).trans (Part.stills_quiet _ _)

theorem Part.enterStopped_loud : Loud p p.enterStopped := by
  unfold Part.enterStopped
  split
  · exact .refl p
  · next old hold =>
    have running : p.mode.mode.isStopped = false := by
      revert hold; cases p.mode.mode <;> simp [ClimbMode.isStopped]
    refine Loud.trans ?_ (.supOff _)
    let p₁ := if p.mode.mode = .slip then (p.setMode p.stoppedRecord).flush .stopped
      else p.setMode p.stoppedRecord
    have h₁ : Quiet (p.setMode p.stoppedRecord) p₁ := by
      simp only [p₁]; split
      · exact Part.flush_quiet _ _
      · exact .refl _
    have e₁ : p.mode.mode = .slip → p₁.adm.queue = [] := by
      intro h; simp only [p₁, h, if_true]; exact Part.flush_queue _ _
    have h₂ := ((Part.markAll_quiet p₁ .stopped fun _ => true).trans (Part.closeAllStopped_quiet _)).trans
      (.ring _ .still 127 0 [])
    refine Loud.trans (.stop p _ _ running (h₁.trans h₂) (fun h => h₂.queue_empty (e₁ h))
      (Part.endRoundTest_quiet _)) (.quiet ?_)
    exact Part.toldOfStopped_quiet _

/-! ### Assertions and the tests of an event -/

theorem Part.assertHere_loud (q : Pair) (d : Option JackId) : Loud p (p.assertHere q d) := by
  by_cases hs : p.bank.condMode q = .sector → ∀ k, pairSector q = some k → p.sectorStopped k = true
  · exact .quiet (p.assertHere_quiet q d hs)
  · push Not at hs
    obtain ⟨hm, k, hk, open_⟩ := hs
    have e : p.assertHere q d
        = (((p.setPairState q (.present .sector)).logAssertion q .sector d).addSectorCause q).stopSector k := by
      simp [Part.assertHere, Part.noteAssertion, hm, hk, open_]
    obtain ⟨r, hr, e'⟩ := Part.stopSector_quiet
      (((p.setPairState q (.present .sector)).logAssertion q .sector d).addSectorCause q) k
    rw [e, e']
    exact (Loud.quiet ((p.setPairState_quiet _ _).trans (Part.logAssertion_quiet _ _ _ _))).trans
      (.sector _ _ _ hr)

/-- A test that does only what assertions do. -/
def Judging.Loudly (f : Judging) : Prop := ∀ p, Loud p (f p).1

theorem assertion_loudly (q : Pair) (d : Option JackId) : Judging.Loudly (assertion q d) :=
  fun p => p.assertHere_loud q d

theorem judging_loudly (q : Pair) (input : Part → Bool) : Judging.Loudly (judging q input) := fun p => by
  unfold judging; split
  · exact assertion_loudly q none p
  · exact .quiet (p.follow_quiet _ _)

theorem reasserting_loudly (q : Pair) : Judging.Loudly (reasserting q) := fun p => by
  unfold reasserting; split
  · exact assertion_loudly q none p
  · exact .refl p

theorem judgeAll_loud {l : List Judging} (h : ∀ f ∈ l, Judging.Loudly f) (p : Part) : Loud p (judgeAll l p).1 := by
  induction l generalizing p with
  | nil => exact .refl p
  | cons f l ih =>
    exact (h f List.mem_cons_self p).trans (ih (fun g hg => h g (List.mem_cons_of_mem _ hg)) _)

/-- An event of MON's, with the ring stop it may end in (R127, R129). -/
theorem Part.event_loud {l : List Judging} (h : ∀ f ∈ l, Judging.Loudly f) : Loud p (p.event l) := by
  unfold Part.event
  dsimp only
  split
  · exact (judgeAll_loud h p).trans (Part.enterStopped_loud _)
  · exact judgeAll_loud h p

theorem sectorJudgings_loudly {k : SectorId} {f : Judging} (h : f ∈ sectorJudgings k) : Judging.Loudly f := by
  simp only [sectorJudgings, List.mem_cons, List.not_mem_nil, or_false] at h
  rcases h with rfl | rfl <;> exact judging_loudly _ _

theorem Part.assertPair_loud (q : Pair) (d : Option JackId) : Loud p (p.assertPair q d) :=
  p.event_loud fun f h => by rw [List.mem_singleton.mp h]; exact assertion_loudly q d

theorem Part.judge_loud (q : Pair) (b : Bool) : Loud p (p.judge q b) :=
  p.event_loud fun f h => by rw [List.mem_singleton.mp h]; exact judging_loudly q _

theorem Part.judgeCompound_loud : Loud p p.judgeCompound :=
  p.event_loud fun f h => by rw [List.mem_singleton.mp h]; exact judging_loudly _ _

theorem Part.judgeReported_loud (k : SectorId) : Loud p (p.judgeReported k) :=
  p.event_loud fun f h => by
    rcases List.mem_append.mp h with h | h
    · exact sectorJudgings_loudly h
    · rw [List.mem_singleton.mp h]; exact judging_loudly _ _

theorem Part.judgeDeck_loud : Loud p p.judgeDeck :=
  p.event_loud fun f h => by
    simp only [List.mem_append, List.mem_map, List.mem_cons, List.not_mem_nil, or_false] at h
    rcases h with ⟨k, -, rfl⟩ | rfl | rfl <;> exact judging_loudly _ _

theorem Part.judgeBonds_loud : Loud p p.judgeBonds :=
  p.event_loud fun f h => by
    simp only [List.mem_append, List.mem_map, List.mem_cons, List.not_mem_nil, or_false] at h
    rcases h with ⟨k, -, rfl⟩ | rfl <;> exact judging_loudly _ _

/-! ### The report's end -/

theorem Part.ceaseUnmet_quiet (q : Pair) : Quiet p (p.ceaseUnmet q) := by
  unfold Part.ceaseUnmet; split
  · exact p.cease_quiet q
  · exact .refl p

theorem Part.ceaseAllUnmet_quiet : Quiet p p.ceaseAllUnmet := Quiet.foldl (fun p q => p.ceaseUnmet_quiet q) _ p

theorem metJudging_loudly (pre : Part) (j : JackId) : Judging.Loudly (metJudging pre j) := fun p => by
  unfold metJudging; split
  · split
    · exact .refl p
    · exact assertion_loudly _ _ p
  · exact .refl p

theorem Part.tellMon_loud (pre : Part) : Loud p (pre.tellMon p) := by
  unfold Part.tellMon
  refine (Loud.quiet p.ceaseAllUnmet_quiet).trans (Part.event_loud _ fun f h => ?_)
  rcases List.mem_append.mp h with h | h
  · rcases List.mem_append.mp h with h | h
    · obtain ⟨j, -, rfl⟩ := List.mem_map.mp h
      exact metJudging_loudly pre j
    · obtain ⟨k, -, hk⟩ := List.mem_flatMap.mp h
      exact sectorJudgings_loudly hk
  · simp only [List.mem_cons, List.not_mem_nil, or_false] at h
    rcases h with rfl | rfl <;> exact judging_loudly _ _

theorem Part.removeUnclimbing_quiet (j : JackId) : Quiet p (p.removeUnclimbing j) := by
  unfold Part.removeUnclimbing; split
  · exact .refl p
  · exact p.removeEntries_quiet _ _

theorem Part.tellAdm_quiet (pre : Part) (j : JackId) : Quiet p (pre.tellAdm p j) := by
  unfold Part.tellAdm
  have h : Quiet p (if pre.moved p j then p.admPass else p) := by
    split
    · exact p.admPass_quiet
    · exact .refl p
  dsimp only
  split
  · exact (h.trans (Part.removeUnclimbing_quiet _ _)).trans (Part.admPass_quiet _)
  · exact h

theorem Part.tellMode_quiet (pre : Part) (j : JackId) : Quiet p (pre.tellMode p j) := by
  unfold Part.tellMode; split
  · exact p.roundLoses_quiet j
  · exact .refl p

end

end Sys2Proof.Machine
end

