-- ==== Sys2Proof/Laws/Course.lean ====
section
/-! SUPPORT. What a command can do between two commits: Course says once everything, and the lemmas say that each
operation does no more. The configuration, the slip clock, the reset registers and the lines other than STOP OUT
stay. -/

namespace Sys2Proof.Machine

inductive Course : Part → Part → Prop
  | loud {p q : Part} : Loud p q → Course p q
  | trans {p q r : Part} : Course p q → Course q r → Course p r
  | close (p q : Part) (c : Command) (here : (p.openOf c.subject).isSome)
      (inner : Course (p.removeCommand c.subject) q) : Course p (q.releaseOf c)
  | drop (p : Part) (f : FeedId) : Course p (p.removeCommand (.feed f))
  | jacks (p : Part) (v : Vector Jack 96) (ok : p.JackLaw → Part.JackLaw { p with jacks := v }) :
      Course p { p with jacks := v }
  | sector (p : Part) (k : SectorId) (x : Sector) (ok : (p.sector k).Lawful → x.Lawful) :
      Course p (p.setSector k x)
  | defer (p : Part) (e : Entry) (slip : p.mode.mode = .slip) (room : p.adm.queue.length < Config.maxDeferred)
      (closed : p.openOf (.jack e.jack) = none) (fresh : p.entryOf e.jack = none) :
      Course p (p.setQueue (p.adm.queue ++ [e]))
  | pour (p : Part) (f : FeedId) (k : SectorId) (o : Origin) (n : Nat) (room : p.openCount < Config.maxOpen) :
      Course p (p.openCommand (.pour f k) o n)
  | mode (p : Part) (m : ModeRecord) (same : m.mode = p.mode.mode) : Course p (p.setMode m)
  | climb (p q : Part) (m : ModeRecord) (runs : p.mode.mode.isStopped = false)
      (still : m.mode.isStopped = false) (inner : Quiet (p.setMode m) q)
      (empty : m.mode ≠ .slip → q.adm.queue = []) : Course p q
  | back (p : Part) (m : ModeRecord) (x : Supervision) (stopped : p.mode.mode.isStopped = true)
      (runs : m.mode.isStopped = false) (down : m.mode ≠ .slip) (free : p.resetLine = false) :
      Course p { p.setMode m with stopOut := false, sup := x }.updateAlert
  | sup (p : Part) (x : Supervision) : Course p (p.setSup x)
  | blank (p : Part) (b : Option Nat) : Course p { p with mon := { p.mon with blanking := b } }
  | events (p : Part) : Course p p.emptyEvents
  | alert (p : Part) : Course p p.updateAlert
  | pass (p : Part) (k : Kind) (d : Byte) (t : Tag) (l : List Byte) (room : p.passFull = false) :
      Course p (p.ringOut true k d t l)
  | causes (p q : Part) (inner : Course p.clearSectorCauses q) : Course p q.updateAlert
  | ringCauses (p : Part) : Course p p.clearRingCauses

namespace Course

theorem quiet {p q : Part} (h : Quiet p q) : Course p q := .loud (.quiet h)

theorem refl (p : Part) : Course p p := .quiet (.refl p)

theorem foldl {α : Type} {f : Part → α → Part} (h : ∀ p a, Course p (f p a)) (l : List α) (p : Part) :
    Course p (l.foldl f p) := by
  induction l generalizing p with
  | nil => exact .refl p
  | cons a l ih => exact (h p a).trans (ih _)

/-- A course through a case distinction. -/
theorem ite {c : Prop} [Decidable c] {p a b : Part} (ha : c → Course p a) (hb : ¬ c → Course p b) :
    Course p (if c then a else b) := by
  split
  · exact ha ‹_›
  · exact hb ‹_›

/-- What a course leaves as it was. -/
structure Keeps (p q : Part) : Prop where
  cfg : q.cfg = p.cfg
  clock : q.clock = p.clock
  resetCause : q.resetCause = p.resetCause
  resetWait : q.resetWait = p.resetWait
  stopIn : q.stopIn = p.stopIn
  resetLine : q.resetLine = p.resetLine
  owed : q.owed = p.owed
  order : q.order = p.order

theorem Keeps.trans {p q r : Part} (a : Keeps p q) (b : Keeps q r) : Keeps p r :=
  ⟨b.cfg.trans a.cfg, b.clock.trans a.clock, b.resetCause.trans a.resetCause, b.resetWait.trans a.resetWait,
    b.stopIn.trans a.stopIn, b.resetLine.trans a.resetLine, b.owed.trans a.owed, b.order.trans a.order⟩

theorem keeps {p q : Part} (h : Course p q) : Keeps p q := by
  induction h with
  | loud h => have k := h.keeps; exact ⟨k.cfg, k.clock, k.resetCause, k.resetWait, k.stopIn, k.resetLine, k.owed, k.order⟩
  | trans _ _ a b => exact a.trans b
  | close p q c _ _ a =>
    have : Keeps q (q.releaseOf c) := by unfold Part.releaseOf; split <;> constructor <;> rfl
    exact Keeps.trans ⟨a.cfg, a.clock, a.resetCause, a.resetWait, a.stopIn, a.resetLine, a.owed, a.order⟩ this
  | climb p q m _ _ inner _ =>
    have k := inner.keeps
    exact ⟨k.cfg, k.clock, k.resetCause, k.resetWait, k.stopIn, k.resetLine, k.owed, k.order⟩
  | causes p q _ a =>
    exact ⟨a.cfg, a.clock, a.resetCause, a.resetWait, a.stopIn, a.resetLine, a.owed, a.order⟩
  | _ => constructor <;> rfl

end Course

/-! ### Jack records -/

theorem Jack.fault_inRange {x : Jack} (c : FaultCause) (h : x.InRange) : (x.fault c).InRange := by
  unfold Jack.fault; split <;> exact h

theorem Jack.strike_inRange {b : Bank} {n : Nat} {x : Jack} (h : x.InRange) : (x.strike b n).InRange := by
  unfold Jack.strike
  obtain ⟨h₁, h₂, h₃, h₄, h₅⟩ := h
  split
  · split
    · dsimp only
      split
      · exact Jack.fault_inRange _ ⟨h₁, h₂, h₃, h₄, by simp⟩
      · exact ⟨h₁, h₂, h₃, h₄, by simp⟩
    · exact ⟨h₁, h₂, h₃, h₄, by simp⟩
  · exact ⟨h₁, h₂, h₃, h₄, h₅⟩

theorem Jack.climb_inRange {b : Bank} {n : Nat} {x : Jack} (h : x.InRange) : (x.climb b n).InRange := by
  obtain ⟨h₁, h₂, h₃, h₄, h₅⟩ := h
  exact ⟨by simp [Jack.climb], by simp only [Jack.climb]; omega, h₃, h₄, h₅⟩

/-- One jack's record replaced keeps the law of the records if the new one is in range. -/
theorem Part.setJack_law {p : Part} {j : JackId} {x : Jack} (h : p.JackLaw) (hx : x.InRange) :
    (p.setJack j x).JackLaw := by
  intro i
  by_cases e : i = j
  · subst e; simpa using hx
  · rw [Part.jack_setJack_ne p _ e]; exact h i

section
variable (p : Part)

theorem Part.setJack_course {j : JackId} {x : Jack} (h : p.JackLaw → x.InRange) : Course p (p.setJack j x) :=
  .jacks p _ fun hp => Part.setJack_law hp (h hp)

/-! ### The report -/

theorem Part.catchUp_course : Course p p.catchUp :=
  Course.foldl (f := fun p j => p.setJack j { p.jack j with state := .active })
    (fun p j => p.setJack_course fun h => h j) _ p

theorem Part.retireFrom_course (n : Nat) (k : SectorId) : Course p (p.retireFrom n k) := by
  unfold Part.retireFrom
  exact .ite (fun _ => .sector p k _ Sector.retire_lawful) fun _ => .refl p

theorem Part.reportBottom_course (pre : Part) (k : SectorId) : Course p (pre.reportBottom p k) := by
  have h := p.retireFrom_course (pre.sectorBottom k) k
  unfold Part.reportBottom
  exact .ite (fun _ => h.trans (.quiet (Part.admPass_quiet _))) fun _ => h

theorem Part.jackReport_course (pre : Part) : Course p (pre.jackReport p) := by
  unfold Part.jackReport
  have h : Course p (if pre.stirred p then p.catchUp else p) := .ite (fun _ => p.catchUp_course) fun _ => .refl p
  exact (((h.trans (Course.foldl (fun p k => p.reportBottom_course pre k) _ _)).trans
    (.quiet (Quiet.foldl (fun p j => p.tellAdm_quiet pre j) _ _))).trans
    (.quiet (Quiet.foldl (fun p j => p.tellMode_quiet pre j) _ _))).trans (.loud (Part.tellMon_loud _ _))

theorem Part.reportFaulting_course (pre : Part) (j : JackId) : Course p (pre.reportFaulting j p) := by
  unfold Part.reportFaulting
  exact .ite (fun _ => ((Course.quiet (p.markOf_quiet _ _)).trans (Part.jackReport_course _ _)).trans
    (.quiet (Part.closeStopped_quiet _ _))) fun _ => p.jackReport_course pre

theorem Part.faultJack_course (c : FaultCause) (j : JackId) : Course p (p.faultJack c j) := by
  unfold Part.faultJack
  exact .ite (fun _ => (p.setJack_course fun h => Jack.fault_inRange c (h j)).trans
    (Part.reportFaulting_course _ _ _)) fun _ => .refl p

theorem Part.applyDone_course (j : JackId) (n peak : Nat) : Course p (p.applyDone j n peak) := by
  unfold Part.applyDone
  refine .ite (fun _ => .refl p) fun _ => ?_
  exact ((p.setJack_course fun h => Jack.strike_inRange (Jack.climb_inRange (h j))).trans
    (.quiet (Part.raiseIf_quiet _ _ _))).trans (Part.reportFaulting_course _ _ _)

theorem Part.changeJack_course {tag : Tag} {code : Byte} {j : JackId} {x : Jack}
    (h : p.JackLaw → x.InRange) : Course p (p.changeJack tag code j x) :=
  ((p.setJack_course h).trans (.quiet (Part.ack_quiet _ _ _))).trans (Part.jackReport_course _ _)

/-! ### Closes that fault their subject -/

theorem Part.feedFault_course (f : FeedId) : Course p (p.feedFault f) := by
  unfold Part.feedFault
  exact .ite (fun _ => .refl p) fun _ => (Course.quiet (.feed p f _)).trans (.loud (Part.judge_loud _ _ _))

theorem Part.subjectFault_course (c : Command) : Course p (p.subjectFault c) := by
  unfold Part.subjectFault; split
  · exact p.faultJack_course _ _
  · exact p.feedFault_course _

/-- A close (R72). -/
theorem Part.closeWith_course {c : Command} {answer fault : Part → Part} (here : (p.openOf c.subject).isSome)
    (inner : Course (p.removeCommand c.subject) (fault (answer (p.removeCommand c.subject)))) :
    Course p (p.closeWith c answer fault) :=
  ((Course.close _ _ c here inner).trans (.quiet (Part.admPass_quiet _))).trans
    (.quiet (Part.toldOfClose_quiet _ _))

/-- The close of a POUR (R72). -/
theorem Part.closePour_course {c : Command} {f : FeedId} {k : SectorId} {answer : Part → Part}
    (task : c.task = .pour f k) (h : ∀ q, Quiet q (answer q)) : Course p (p.closeWith c answer id) := by
  have e : p.closeWith c answer id = (answer (p.removeCommand (.feed f))).admPass.toldOfClose c.origin := by
    simp [Part.closeWith, Command.subject, task, Task.subject]
  rw [e]
  exact (((Course.drop p f).trans (.quiet (h _))).trans (.quiet (Part.admPass_quiet _))).trans
    (.quiet (Part.toldOfClose_quiet _ _))

theorem Part.closeTimeout_course {c : Command} (here : (p.openOf c.subject).isSome) :
    Course p (p.closeTimeout c) :=
  (Course.quiet (p.setAbandoned_quiet (p.addrOf c.subject) (some ⟨c.tag, c.subject⟩))).trans
    (Part.closeWith_course (p.setAbandoned (p.addrOf c.subject) (some ⟨c.tag, c.subject⟩)) here
      ((Course.quiet (Part.answerEnded_quiet _ _ _)).trans (Part.subjectFault_course _ _)))

/-! ### LIFT and POUR from the deck -/

theorem Part.deckLift_course (d : Byte) (t : Tag) (n : Nat) : Course p (p.deckLift d t n) := by
  have no : ∀ r, Course p (p.refuse d .lift t r) := fun r => .quiet (p.refuse_quiet _ _ _ _)
  unfold Part.deckLift
  refine .ite (fun _ => no _) fun _ => ?_
  split
  · exact no _
  · refine .ite (fun _ => no _) fun hm => ?_
    have slip : p.mode.mode = .slip := by simpa using hm
    split
    · exact no _
    · next hc =>
      have hf := Part.free_of_jackCheck hc
      split
      · unfold Part.defer
        exact .ite (fun room => (Course.defer p ⟨_, _, _, _, _, _⟩ slip room hf.1 hf.2).trans
          (.quiet (Part.held_quiet _ _ _ _))) fun _ => no _
      · next ht => exact .quiet (.issue p _ _ _ hf.1 hf.2 (Part.hasPlace_of_transientCheck ht))

/-- Passing check 8 of R87 says that the table has room. -/
theorem Part.room_of_pourCheck {p : Part} {f : FeedId} {k : SectorId} {n : Nat}
    (h : p.pourCheck f k n = none) : p.openCount < Config.maxOpen := by
  unfold Part.pourCheck at h
  iterate 6 (split at h <;> first | contradiction | skip)
  split at h <;> first | contradiction | omega

theorem Part.deckPour_course (d : Byte) (t : Tag) (k : Byte) (n : Nat) : Course p (p.deckPour d t k n) := by
  have no : ∀ r, Course p (p.refuse d .pour t r) := fun r => .quiet (p.refuse_quiet _ _ _ _)
  unfold Part.deckPour
  split
  · exact no _
  · refine .ite (fun _ => no _) fun _ => ?_
    split
    · exact no _
    · split
      · exact no _
      · next hc =>
        have room := Part.room_of_pourCheck hc
        exact ((Course.quiet (.feed p _ _)).trans (.pour _ _ _ _ _ room)).trans (.quiet (Part.cease_quiet _ _))

/-! ### Placements -/

theorem Part.placeRecord_course (k : SectorId) (n : Nat) (m : MixId) (f : FeedId) :
    Course p (p.placeRecord k n m f).1 := by
  unfold Part.placeRecord
  split
  · exact .refl p
  · split
    · next hn hc =>
      refine ((Course.sector p k _ fun h => Sector.place_lawful h ?_ ?_).trans
        (.quiet (Part.raiseIf_quiet _ _ _))).trans (.quiet (Part.raiseIf_quiet _ _ _))
      · have := depthOf_pos hc (show 1 ≤ n by omega)
        simp only [Config.maxDepth]
        omega
      · omega
    · exact .quiet (.raise p _)

theorem Part.place_course (k : SectorId) (n : Nat) (m : MixId) (f : FeedId) : Course p (p.place k n m f) := by
  have h := p.placeRecord_course k n m f
  unfold Part.place
  exact .ite (fun _ => (h.trans (.quiet (Part.admPass_quiet _))).trans (.loud (Part.judgeReported_loud _ _)))
    fun _ => h

theorem Part.judgePoured_course (f : FeedId) (a : Option SectorId) (n : Option Nat) (k : Byte) (l : Nat)
    (m : Byte) : Course p (p.judgePoured f a n k l m) := by
  unfold Part.judgePoured
  dsimp only
  split
  · exact ((Course.quiet (p.raiseIf_quiet _ _)).trans (.quiet (Part.raiseIf_quiet _ _ _))).trans
      (Part.place_course _ _ _ _ _)
  · exact (Course.quiet (p.raiseIf_quiet _ _)).trans (.quiet (Part.raiseIf_quiet _ _ _))

/-! ### Frames from nodes -/

theorem Part.lateTaken_quiet (a : Addr) : Quiet p (p.lateTaken a) := (p.setAbandoned_quiet _ _).trans (.raise _ _)

theorem Part.answerLifted_quiet (c : Command) (r : LiftedReport) : Quiet p (p.answerLifted c r) := by
  unfold Part.answerLifted; split
  · exact p.emit_quiet _ _ _ _
  · exact .refl p

theorem Part.answerPoured_quiet (c : Command) (r : PouredReport) : Quiet p (p.answerPoured c r) := by
  unfold Part.answerPoured; split
  · exact p.emit_quiet _ _ _ _
  · exact .refl p

theorem Part.decideLifted_course {n : Nat} {r : LiftedReport} {c : Command}
    (here : (p.openOf c.subject).isSome) : Course p (p.decideLifted n r c) := by
  unfold Part.decideLifted
  refine .ite (fun _ => .quiet (p.closeWith_quiet here (Part.answerLifted_quiet _ _ _))) fun _ => ?_
  refine .ite (fun _ => .quiet (p.closeEnded_quiet _ here)) fun _ => ?_
  split
  · exact .quiet (p.closeEnded_quiet _ here)
  · exact .quiet (p.sendSub_quiet _)

theorem Part.answeredLift_course (j : JackId) (c : Command) (r : LiftedReport) :
    Course p (p.answeredLift j c r) := by
  have h := (Course.quiet (p.setCommand_quiet (c.takeLifted r))).trans
    (Part.applyDone_course _ j (min r.done c.size) r.peak)
  unfold Part.answeredLift
  dsimp only
  split
  · next d hd =>
    refine h.trans (Part.decideLifted_course _ ?_)
    rw [Part.openOf_subject hd, hd]
    rfl
  · exact h

theorem Part.strayLifted_course (t : Tag) (r : LiftedReport) : Course p (p.strayLifted t r) := by
  unfold Part.strayLifted
  split
  · exact .quiet (.raise p _)
  · split
    · exact (p.applyDone_course _ _ _).trans (.quiet (Part.lateTaken_quiet _ _))
    · exact .quiet (.raise p _)
    · exact .quiet (.raise p _)

theorem Part.takeLifted_course (t : Tag) (r : LiftedReport) : Course p (p.takeLifted t r) := by
  unfold Part.takeLifted
  split
  · split
    · exact .ite (fun _ => p.answeredLift_course _ _ _) fun _ => p.strayLifted_course t r
    · exact p.strayLifted_course t r
  · exact p.strayLifted_course t r

theorem Part.answeredPour_course (f : FeedId) (k : SectorId) {c : Command} (r : PouredReport)
    (task : c.task = .pour f k) : Course p (p.answeredPour f k c r) := by
  unfold Part.answeredPour
  dsimp only
  generalize hd : ({ c with done := min r.litres.toNat c.asked, phase := .sent } : Command) = d
  have td : d.task = .pour f k := by rw [← hd]; exact task
  exact (((Course.quiet (p.setCommand_quiet d)).trans (.quiet (Part.feedReturn_quiet _ f))).trans
    (Part.judgePoured_course _ f _ _ _ _ _)).trans
    (Part.closePour_course _ td fun q => q.answerPoured_quiet d r)

theorem Part.strayPoured_course (t : Tag) (r : PouredReport) : Course p (p.strayPoured t r) := by
  unfold Part.strayPoured
  split
  · exact .quiet (.raise p _)
  · split
    · exact (p.judgePoured_course _ _ _ _ _ _).trans (.quiet (Part.lateTaken_quiet _ _))
    · exact .quiet (.raise p _)
    · exact .quiet (.raise p _)

theorem Part.takePoured_course (t : Tag) (r : PouredReport) : Course p (p.takePoured t r) := by
  unfold Part.takePoured
  split
  · split
    · next f k task =>
      exact .ite (fun _ => p.answeredPour_course f k r task) fun _ => p.strayPoured_course t r
    · exact p.strayPoured_course t r
  · exact p.strayPoured_course t r

/-- The command found at an address is its subject's. -/
theorem Part.openAt_mem {p : Part} {a : Byte} {c : Command} (h : p.openAt a = some c) :
    (p.openOf c.subject).isSome := by
  simp only [Part.openOf, List.find?_isSome]
  exact ⟨c, List.mem_of_find?_eq_some h, by simp⟩

theorem Part.answeredWait_quiet {c : Command} (here : (p.openOf c.subject).isSome) :
    Quiet p (p.answeredWait c) := by
  unfold Part.answeredWait
  split
  · exact p.closeEnded_quiet _ here
  · split
    · exact p.setCommand_quiet _
    · exact (Quiet.raise p _).trans (Part.closeEnded_quiet (p.raise .nodeBusy) _ here)

theorem Part.takeWait_quiet (a : Byte) (t : Tag) : Quiet p (p.takeWait a t) := by
  unfold Part.takeWait
  split
  · next hc =>
    split
    · exact p.answeredWait_quiet (Part.openAt_mem hc)
    · exact .raise p _
  · exact .raise p _

theorem Part.learnDepth_course (a d : Byte) : Course p (p.learnDepth a d) := by
  unfold Part.learnDepth
  split
  · next j _ =>
    exact .ite (fun hd => p.setJack_course fun h => by
      obtain ⟨h₁, h₂, -, -, h₅⟩ := h j
      exact ⟨h₁, h₂, hd.2.1, hd.2.2, h₅⟩) fun _ => .refl p
  · exact .refl p

theorem Part.takeTrouble_course (a : Byte) : Course p (p.takeTrouble a) := by
  unfold Part.takeTrouble; split
  · exact p.faultJack_course _ _
  · exact p.feedFault_course _
  · exact .refl p

theorem Part.unclaimed_course (k : Kind) (d : Byte) (t : Tag) : Course p (p.unclaimed k d t) := by
  unfold Part.unclaimed
  split
  · next hc => exact .ite (fun _ => p.closeTimeout_course (Part.openAt_mem hc)) fun _ => .refl p
  · exact .refl p

end

end Sys2Proof.Machine
end

