-- ==== Sys2Proof/Laws/Requests.lean ====
section
/-! SUPPORT. Deck frames, requests and shares that leave configuration and clock alone are courses
(Laws/Course.lean). -/

namespace Sys2Proof.Machine

/-- Frames passed through from the deck that wait stay as they are under a quiet operation (R171). -/
theorem Quiet.passed {p q : Part} (h : Quiet p q) : q.passedWaiting = p.passedWaiting := by
  induction h with
  | trans _ _ a b => exact b.trans a
  | ring p k d t l => simp [Part.passedWaiting]
  | promote p e n o _ _ => simp [Part.passedWaiting, Part.admitLift, Part.openCommand, Part.sendSub, Part.sendFrame,
      Part.setCommand, Part.setCounter, Part.setAbandoned, Part.dropEntry]
  | issue p j n o _ _ _ => simp [Part.passedWaiting, Part.admitLift, Part.openCommand, Part.sendSub,
      Part.sendFrame, Part.setCommand, Part.setCounter, Part.setAbandoned]
  | close p q c _ _ ih =>
    refine Eq.trans ?_ ih
    unfold Part.releaseOf; split <;> rfl
  | _ => rfl

section
variable (p : Part)

/-! ### Frames passed through -/

theorem Part.stillFromDeck_quiet (d : Byte) : Quiet p (p.stillFromDeck d) := by
  unfold Part.stillFromDeck
  split
  · exact (p.markAll_quiet _ _).trans (Part.closeAllStopped_quiet _)
  · split
    · exact (p.markOf_quiet _ _).trans (Part.closeStopped_quiet _ _)
    · exact .refl p

theorem Part.passThrough_course {k : Kind} {d : Byte} {t : Tag} {l : List Byte} {before : Part → Part}
    (h : Quiet p (before p)) : Course p (p.passThrough k d t l before) := by
  unfold Part.passThrough
  refine .ite (fun _ => .quiet (p.refuse_quiet _ _ _ _)) fun _ => ?_
  refine .ite (fun _ => .quiet (p.refuse_quiet _ _ _ _)) fun _ => ?_
  refine .ite (fun _ => .quiet (p.refuse_quiet _ _ _ _)) fun hr => ?_
  refine (Course.quiet h).trans (.pass _ _ _ _ _ ?_)
  simp only [Part.passFull, h.passed] at hr ⊢
  simpa using hr

theorem Part.nodeset_course (d : Byte) (t : Tag) (l : List Byte) : Course p (p.nodeset d t l) := by
  unfold Part.nodeset
  refine .ite (fun _ => .quiet (p.refuse_quiet _ _ _ _)) fun _ => ?_
  refine .ite (fun _ => .quiet (p.refuse_quiet _ _ _ _)) fun _ => ?_
  split
  · exact .ite (fun _ => .quiet (p.refuse_quiet _ _ _ _)) fun hr => .pass p _ _ _ _ (by simpa using hr)
  · exact .quiet (p.refuse_quiet _ _ _ _)
  · exact .quiet (p.refuse_quiet _ _ _ _)

/-! ### Modes -/

theorem Part.tellMonMode_course : Course p p.tellMonMode := (Course.alert p).trans (.loud (Part.judgeDeck_loud _))

theorem Part.endBlanking_course : Course p p.endBlanking := .blank p none

theorem Part.startBlanking_course : Course p p.startBlanking := .blank p _

theorem isStopped_of_slip {p : Part} (h : p.mode.mode = .slip) : p.mode.mode.isStopped = false := by
  rw [h]; rfl

theorem Part.startSlip_course (t : Tag) (h : p.mode.mode = .setup) : Course p (p.startSlip t) := by
  have run : p.mode.mode.isStopped = false := by rw [h]; rfl
  unfold Part.startSlip
  refine (((Course.climb p _ { p.mode with mode := .slip } run rfl
    (Part.ack_quiet (p.setMode { p.mode with mode := .slip }) t codeControl) (fun h => absurd rfl h)).trans
    (.sup _ ⟨true, 0, _, _, 0, false⟩)).trans (Part.startBlanking_course _)).trans (Part.tellMonMode_course _)

theorem Part.enterHold_course {cause : HoldCause} {answer : Part → Part} (ha : ∀ q, Quiet q (answer q))
    (h : p.mode.mode = .slip) : Course p (p.enterHold cause answer) := by
  unfold Part.enterHold
  exact ((Course.climb p _ (p.holdRecord cause) (isStopped_of_slip h) rfl
    ((ha _).trans (Part.flush_quiet _ _)) fun _ => Part.flush_queue _ _).trans
    (Part.endBlanking_course _)).trans (Part.tellMonMode_course _)

theorem Part.resumeSlip_course (t : Tag) (h : p.mode.mode.isHold = true) : Course p (p.resumeSlip t) := by
  have run : p.mode.mode.isStopped = false := by
    revert h; cases p.mode.mode <;> simp [ClimbMode.isHold, ClimbMode.isStopped]
  unfold Part.resumeSlip
  let m : ModeRecord := { p.mode with mode := .slip, creepTimer := none, roundOwed := false, roundList := [] }
  exact (((Course.climb p _ m run rfl (Part.ack_quiet (p.setMode m) t codeControl)
    (fun h => absurd rfl h)).trans (Part.startBlanking_course _)).trans (Part.tellMonMode_course _)).trans
    (.quiet (Part.endRoundTest_quiet _))

theorem Part.deckLostMove_course : Course p p.deckLostMove := by
  unfold Part.deckLostMove
  exact .ite (fun h => p.enterHold_course (fun q => .refl q) h) fun _ => .refl p

theorem Part.returnFromStopped_course (free : p.resetLine = false) : Course p p.returnFromStopped := by
  unfold Part.returnFromStopped
  have stopped : ∀ l, p.mode.mode = .stopped l → p.mode.mode.isStopped = true := fun l h => by rw [h]; rfl
  split
  · next h =>
    exact (Course.back p { p.mode with mode := .setup } p.sup (stopped _ h) rfl (by simp) free).trans
      (.loud (Part.judgeDeck_loud _))
  · next h =>
    exact (Course.back p (p.holdRecord .fromStop) _ (stopped _ h) rfl (by simp [Part.holdRecord]) free).trans
      (.loud (Part.judgeDeck_loud _))
  · next h =>
    exact (Course.back p (p.holdRecord .fromStop) _ (stopped _ h) rfl (by simp [Part.holdRecord]) free).trans
      (.loud (Part.judgeDeck_loud _))
  · exact .refl p
  · exact .refl p
  · exact .refl p

/-! ### Supervision -/

theorem Part.endDeckLost_course : Course p p.endDeckLost := by
  unfold Part.endDeckLost
  exact .ite (fun _ => (Course.sup p _).trans (.loud (Part.judge_loud _ _ _))) fun _ => .refl p

theorem Part.tellModeAccepted_course : Course p p.tellModeAccepted := by
  unfold Part.tellModeAccepted
  exact .ite (fun _ => .mode p _ rfl) fun _ => .refl p

theorem Part.accept_course : Course p p.accept :=
  ((Course.sup p _).trans (Part.endDeckLost_course _)).trans (Part.tellModeAccepted_course _)

theorem Part.declareLost_course : Course p p.declareLost := by
  unfold Part.declareLost
  refine (Course.sup p { p.sup with deckLost := true }).trans (.ite (fun _ => ?_) fun _ => ?_)
  · exact (Course.loud (Part.judge_loud _ _ _)).trans (Part.deckLostMove_course _)
  · exact (Part.deckLostMove_course _).trans (.loud (Part.judge_loud _ _ _))

theorem Part.violation_course : Course p p.violation := by
  unfold Part.violation
  exact (Course.sup p _).trans (.ite (fun _ => Part.declareLost_course _) fun _ => .refl _)

theorem Part.expireWindow_course : Course p p.expireWindow := (Course.sup p _).trans (Part.violation_course _)

theorem Part.heartbeat_course (t : Tag) (b : Byte) : Course p (p.heartbeat t b) := by
  unfold Part.heartbeat
  refine .ite (fun _ => ?_) fun _ => ?_
  · split
    · unfold Part.judgeToken
      refine .ite (fun _ => (Course.quiet (p.deny_quiet _ _ _)).trans (Part.violation_course _)) fun _ => ?_
      refine .ite (fun _ => (Course.quiet (p.deny_quiet _ _ _)).trans (Part.violation_course _)) fun _ => ?_
      exact ((Course.sup p _).trans (Part.accept_course _)).trans (.quiet (Part.ack_quiet _ _ _))
    · exact .quiet (p.ack_quiet _ _)
  · unfold Part.idleHeartbeat
    have h : Course p (if p.mode.mode.isStopped then p.endDeckLost else p) :=
      .ite (fun _ => p.endDeckLost_course) fun _ => .refl p
    exact h.trans (.quiet (Part.ack_quiet _ _ _))

theorem Part.acceptAny_course : Course p p.acceptAny := by
  unfold Part.acceptAny
  exact .ite (fun _ => p.accept_course) fun _ => .refl p

/-! ### CLEAR, CONTROL, the lease -/

theorem Part.clear_course (t : Tag) (free : p.resetLine = false) : Course p (p.clear t) := by
  have h₁ : Course p p.clearSectorCauses.judgeCompound.clearRingCauses.clearLog.updateAlert := by
    refine .causes p _ (((Course.loud (Part.judgeCompound_loud _)).trans (.ringCauses _)).trans (.quiet ?_))
    exact .log _ _ fun h => LogLawful.sublist List.filter_sublist h
  have h₂ := fun n => h₁.trans (.quiet (Part.data_quiet _ t codeClear n))
  unfold Part.clear
  refine .ite (fun _ => (h₂ _).trans (Part.returnFromStopped_course _ ?_)) fun _ => h₂ _
  exact (h₂ _).keeps.resetLine.trans free

theorem Part.controlStart_course (t : Tag) : Course p (p.controlStart t) := by
  unfold Part.controlStart
  refine .ite (fun _ => .quiet (p.deny_quiet _ _ _)) fun hm => ?_
  refine .ite (fun _ => .quiet (p.deny_quiet _ _ _)) fun _ => ?_
  refine .ite (fun _ => .quiet (p.deny_quiet _ _ _)) fun _ => p.startSlip_course t ?_
  by_contra hn
  exact hm (.inl hn)

theorem Part.controlHold_course (t : Tag) : Course p (p.controlHold t) := by
  unfold Part.controlHold
  refine .ite (fun _ => .quiet (p.deny_quiet _ _ _)) fun h => ?_
  exact p.enterHold_course (fun q => q.ack_quiet _ _) (by simpa using h)

theorem Part.controlResume_course (t : Tag) : Course p (p.controlResume t) := by
  unfold Part.controlResume
  refine .ite (fun _ => .quiet (p.deny_quiet _ _ _)) fun h => ?_
  refine .ite (fun _ => .quiet (p.deny_quiet _ _ _)) fun _ => ?_
  exact .ite (fun _ => .quiet (p.deny_quiet _ _ _)) fun _ => p.resumeSlip_course t (by simpa using h)

theorem Part.controlStop_loud (t : Tag) : Loud p (p.controlStop t) :=
  ((Loud.quiet (p.ack_quiet _ _)).trans (Part.assertPair_loud _ _ _)).trans (.quiet (Part.cease_quiet _ _))

theorem Part.setLease_quiet (l : Lease) : Quiet p (p.setLease l) := .mode p _ rfl rfl

theorem Part.leaseAsk_quiet (t : Tag) : Quiet p (p.leaseAsk t) := by
  unfold Part.leaseAsk
  split
  · exact p.deny_quiet _ _ _
  split
  · exact p.deny_quiet _ _ _
  split
  · exact (p.setLease_quiet _).trans (Part.reply_quiet _ _ _ _ _)
  · exact (p.setLease_quiet _).trans (Part.ack_quiet _ _ _)

theorem Part.leaseEnd_quiet (t : Tag) : Quiet p (p.leaseEnd t) := by
  unfold Part.leaseEnd
  split
  · exact p.deny_quiet _ _ _
  · exact ((p.setLease_quiet _).trans (Part.ack_quiet _ _ _)).trans (Part.owedRound_quiet _)

/-! ### Reads -/

theorem Part.status_course (t : Tag) (n : Byte) : Course p (p.status t n) := by
  unfold Part.status
  split
  · exact (Course.events p).trans (.quiet (Part.data_quiet _ _ _ _))
  all_goals first | exact .quiet (p.data_quiet _ _ _) | exact .quiet (p.deny_quiet _ _ _)

theorem Part.faults_quiet (t : Tag) (n : Byte) : Quiet p (p.faults t n) := by
  unfold Part.faults
  split
  · exact p.data_quiet _ _ _
  · exact p.deny_quiet _ _ _

theorem Part.tableRead_quiet (t : Tag) (b a i f : Nat) : Quiet p (p.tableRead t b a i f) := by
  unfold Part.tableRead
  split
  · exact p.data_quiet _ _ _
  · exact p.deny_quiet _ _ _

/-! ### Jack requests -/

theorem Part.spliceBegin_course (t : Tag) (j : JackId) : Course p (p.spliceBegin t j) := by
  unfold Part.spliceBegin
  refine .ite (fun _ => .quiet (p.deny_quiet _ _ _)) fun _ => ?_
  refine .ite (fun _ => .quiet (p.deny_quiet _ _ _)) fun _ => ?_
  refine .ite (fun _ => .quiet (p.deny_quiet _ _ _)) fun _ => ?_
  exact .ite (fun _ => .quiet (p.deny_quiet _ _ _)) fun _ => p.changeJack_course fun h => h j

theorem Jack.setRod_inRange {b : Bank} {n : Nat} {x : Jack} (h : x.InRange) (hn : n ≤ 2000) :
    (x.setRod b n).InRange := ⟨h.1, hn, h.2.2⟩

theorem Part.spliceEnd_course (t : Tag) (j : JackId) (n : Nat) : Course p (p.spliceEnd t j n) := by
  unfold Part.spliceEnd
  refine .ite (fun _ => .quiet (p.deny_quiet _ _ _)) fun hn => ?_
  refine .ite (fun _ => .quiet (p.deny_quiet _ _ _)) fun _ => p.changeJack_course fun h => ?_
  have hn : n ≤ 2000 := by simp at hn; exact hn.2
  exact ⟨(h j).1, hn, (h j).2.2⟩

theorem Part.rodSet_course (t : Tag) (j : JackId) (n : Nat) : Course p (p.rodSet t j n) := by
  unfold Part.rodSet
  refine .ite (fun _ => .quiet (p.deny_quiet _ _ _)) fun hn => ?_
  refine .ite (fun _ => .quiet (p.deny_quiet _ _ _)) fun _ => ?_
  refine .ite (fun _ => .quiet (p.deny_quiet _ _ _)) fun _ => ?_
  exact .ite (fun _ => .quiet (p.deny_quiet _ _ _)) fun _ =>
    p.changeJack_course fun h => Jack.setRod_inRange (h j) (by omega)

theorem Part.positionSet_course (t : Tag) (j : JackId) {n : Nat} (hn : n ≤ Config.maxPosition) :
    Course p (p.positionSet t j n) := by
  unfold Part.positionSet
  refine .ite (fun _ => .quiet (p.deny_quiet _ _ _)) fun _ => ?_
  refine .ite (fun _ => .quiet (p.deny_quiet _ _ _)) fun _ => ?_
  exact .ite (fun _ => .quiet (p.deny_quiet _ _ _)) fun _ => p.changeJack_course fun h => ⟨hn, (h j).2⟩

theorem Part.stillOf_quiet (j : JackId) : Quiet p (p.stillOf j) := by
  unfold Part.stillOf; split
  · exact p.stillNode_quiet _
  · exact .refl p

theorem Part.isolateJack_course (t : Tag) (j : JackId) : Course p (p.isolateJack t j) := by
  have go : ∀ q, Course p q → Course p ((p.jackReport ((q.markOf .isolated (.jack j)).stillOf j)).closeStopped (.jack j)) :=
    fun q h => ((h.trans (.quiet ((Part.markOf_quiet _ _ _).trans (Part.stillOf_quiet _ _)))).trans
      (Part.jackReport_course _ _)).trans (.quiet (Part.closeStopped_quiet _ _))
  have set : Course p ((p.setJack j { p.jack j with state := .isolated }).ack t codeIsolate) :=
    (p.setJack_course (x := { p.jack j with state := .isolated }) fun h => h j).trans
      (.quiet (Part.ack_quiet _ _ _))
  unfold Part.isolateJack
  dsimp only
  split
  · exact go _ set
  · exact go _ set
  · exact go _ set
  · exact .quiet (p.deny_quiet _ _ _)
  · exact .quiet (p.deny_quiet _ _ _)
  · exact .quiet (p.deny_quiet _ _ _)

theorem Part.isolate_course (t : Tag) (a : Byte) : Course p (p.isolate t a) := by
  unfold Part.isolate
  refine .ite (fun _ => .quiet (p.deny_quiet _ _ _)) fun _ => ?_
  split
  · exact p.isolateJack_course t _
  · exact .quiet (p.deny_quiet _ _ _)

theorem Jack.restore_inRange {x : Jack} (h : x.InRange) : x.restore.InRange :=
  ⟨h.1, h.2.1, h.2.2.1, h.2.2.2.1, Nat.zero_le _⟩

theorem Part.restoreJack_course (t : Tag) (j : JackId) : Course p (p.restoreJack t j) := by
  have set : Course p (((p.setJack j (p.jack j).restore).ack t codeRestore).setAbandoned (p.addrOf (.jack j)) none) :=
    (p.setJack_course fun h => Jack.restore_inRange (h j)).trans
      (.quiet ((Part.ack_quiet _ _ _).trans (Part.setAbandoned_quiet _ _ _)))
  have go := set.trans (Part.jackReport_course _ p)
  unfold Part.restoreJack
  dsimp only
  split
  · exact .ite (fun _ => .quiet (p.deny_quiet _ _ _)) fun _ => go
  · exact .ite (fun _ => .quiet (p.deny_quiet _ _ _)) fun _ => go
  all_goals exact .quiet (p.deny_quiet _ _ _)

theorem Part.restoreFeed_quiet (t : Tag) (f : FeedId) : Quiet p (p.restoreFeed t f) := by
  have go := (((Quiet.feed p f { p.feed f with state := .ready }).trans (Part.cease_quiet _ (.feed f))).trans
    (Part.setAbandoned_quiet _ (p.addrOf (.feed f)) none)).trans (Part.ack_quiet _ t codeRestore)
  unfold Part.restoreFeed
  split
  · exact p.deny_quiet _ _ _
  split
  · exact p.deny_quiet _ _ _
  · exact go

theorem Part.restore_course (t : Tag) (a : Byte) : Course p (p.restore t a) := by
  unfold Part.restore
  refine .ite (fun _ => .quiet (p.deny_quiet _ _ _)) fun _ => ?_
  split
  · exact p.restoreJack_course t _
  · exact .quiet (p.restoreFeed_quiet t _)
  · exact .quiet (p.deny_quiet _ _ _)

theorem Part.layerEnter_course (t : Tag) (k : Byte) (d : Nat) (a : Clock) (m : Byte) :
    Course p (p.layerEnter t k d a m) := by
  unfold Part.layerEnter
  split
  · refine .ite (fun _ => .quiet (p.deny_quiet _ _ _)) fun hd => ?_
    refine .ite (fun _ => .quiet (p.deny_quiet _ _ _)) fun _ => ?_
    refine .ite (fun _ => .quiet (p.deny_quiet _ _ _)) fun _ => ?_
    refine .ite (fun _ => .quiet (p.deny_quiet _ _ _)) fun hf => ?_
    simp only [Bool.not_eq_true, Bool.not_eq_false', Bool.and_eq_true, decide_eq_true_eq] at hd
    unfold Part.enterLayer
    refine ((((Course.sector p _ _ fun h => Sector.append_lawful h (by simpa using hf) hd.1 ?_).trans
      (.quiet (Part.ack_quiet _ _ _))).trans (.quiet (Part.raiseIf_quiet _ _ _))).trans
      (.quiet (Part.admPass_quiet _))).trans (.loud (Part.judgeReported_loud _ _))
    have := hd.2
    simp only [Config.maxDepth]
    omega
  · exact .quiet (p.deny_quiet _ _ _)

/-! ### Shares of an advance -/

theorem Part.expireCreep_course : Course p p.expireCreep := by
  unfold Part.expireCreep
  refine (Course.mode p { p.mode with creepTimer := some p.bank.creepInterval } rfl).trans ?_
  dsimp only
  split
  · exact (Course.quiet (.raise _ _)).trans (.mode _ _ rfl)
  · exact .quiet (.raise _ _)
  · exact .ite (fun _ => .quiet (.raise _ _)) fun _ => .quiet (Part.startRound_quiet _)

theorem Part.shareLease_quiet : Quiet p p.shareLease := by
  unfold Part.shareLease
  split
  · split
    · exact (((Quiet.mode p { p.mode with lease := .none } rfl rfl).trans (.raise _ _)).trans
        (Part.reply_quiet _ _ _ _ _)).trans (Part.owedRound_quiet _)
    · exact .refl p
  · exact .refl p
  · exact .refl p

theorem deglitchJudging_loudly (q : Pair) : Judging.Loudly (deglitchJudging q) := fun p => by
  unfold deglitchJudging; split
  · exact assertion_loudly _ _ p
  · exact .refl p

theorem Part.shareDeglitch_loud : Loud p p.shareDeglitch := by
  refine p.event_loud fun f h => ?_
  rcases List.mem_append.mp h with h | h
  · obtain ⟨q, -, rfl⟩ := List.mem_map.mp h
    exact deglitchJudging_loudly q
  · rw [List.mem_singleton.mp h]
    exact judging_loudly _ _

theorem Part.shareBlanking_course : Course p p.shareBlanking := by
  unfold Part.shareBlanking
  exact .ite (fun _ => p.endBlanking_course.trans (.loud (Part.judgeDeck_loud _))) fun _ => .refl p

end

end Sys2Proof.Machine
end

