-- ==== Sys2Proof/Laws/Turn.lean ====
section
/-! SUPPORT. What a whole step can do: Turn says once everything, step_turn says that every step does no more. A law
that every Turn keeps is kept by every step. -/

namespace Sys2Proof.Machine

inductive Turn : Part → Part → Prop
  | course {p q : Part} : Course p q → Turn p q
  | trans {p q r : Part} : Turn p q → Turn q r → Turn p r
  | shadow (p : Part) (b : Bank) : Turn p (p.setShadow b)
  | pending (p : Part) (t : Tag) (busy : p.xt.table ≠ []) : Turn p (p.setCommit (.pending t p.clock))
  | idle (p : Part) : Turn p (p.setCommit .idle)
  | bank (p : Part) (empty : p.xt.table = []) :
      Turn p { p with cfg := ⟨p.cfg.shadow, p.cfg.shadow, .idle, p.cfg.shadow.tableSum⟩ }
  | owed (p : Part) (l : List Share) (free : p.resetLine = false ∨ l.length ≤ p.owed.length) :
      Turn p { p with owed := l }
  | count (p : Part) : Turn p p.countDown
  | await (p : Part) (n : Nat) (free : p.resetLine = false) : Turn p { p with resetWait := some n }
  | sendDeck (p : Part) : Turn p p.sendDeck
  | sendRing (p : Part) : Turn p p.sendRing
  | level (p : Part) (b : Bool) : Turn p { p with stopIn := b }
  | request (p : Part) (free : p.resetWait ≠ none ∨ p.resetLine = false) : Turn p p.requestReset
  | power (p : Part) : Turn p p.powerUp
  | hold (p : Part) : Turn p p.holdReset
  | release (p : Part) : Turn p p.releaseReset

namespace Turn

theorem refl (p : Part) : Turn p p := .course (.refl p)

theorem quiet {p q : Part} (h : Quiet p q) : Turn p q := .course (.quiet h)

theorem loud {p q : Part} (h : Loud p q) : Turn p q := .course (.loud h)

theorem foldl {α : Type} {f : Part → α → Part} (h : ∀ p a, Turn p (f p a)) (l : List α) (p : Part) :
    Turn p (l.foldl f p) := by
  induction l generalizing p with
  | nil => exact .refl p
  | cons a l ih => exact (h p a).trans (ih _)

theorem ite {c : Prop} [Decidable c] {p a b : Part} (ha : c → Turn p a) (hb : ¬ c → Turn p b) :
    Turn p (if c then a else b) := by
  split
  · exact ha ‹_›
  · exact hb ‹_›

end Turn

/-! ### The jack table at a commit -/

/-- Only the jack table differs. -/
def JacksOnly (p q : Part) : Prop := q = { p with jacks := q.jacks }

theorem JacksOnly.trans {p q r : Part} (a : JacksOnly p q) (b : JacksOnly q r) : JacksOnly p r := by
  unfold JacksOnly at *
  rw [b, a]

theorem JacksOnly.foldl {α : Type} {f : Part → α → Part} (h : ∀ p a, JacksOnly p (f p a)) (l : List α)
    (p : Part) : JacksOnly p (l.foldl f p) := by
  induction l generalizing p with
  | nil => rfl
  | cons a l ih => exact (h p a).trans (ih _)

theorem exitJacks_only (old new : Vector JackEntry 96) (p : Part) (j : JackId) :
    JacksOnly p (exitJacks old new p j) := by
  unfold exitJacks; split <;> rfl

theorem enterJacks_only (old new : Vector JackEntry 96) (n : Nat) (p : Part) (j : JackId) :
    JacksOnly p (enterJacks old new n p j) := by
  unfold enterJacks
  split
  · rfl
  · split <;> rfl

theorem Part.jackTransitions_only (p : Part) (old : Bank) : JacksOnly p (p.jackTransitions old) :=
  (JacksOnly.foldl (fun p j => exitJacks_only _ _ p j) _ p).trans
    (JacksOnly.foldl (fun p j => enterJacks_only _ _ _ p j) _ _)

theorem foldl_law {α : Type} {f : Part → α → Part} {P : Part → Prop} (h : ∀ p a, P p → P (f p a)) (l : List α)
    (p : Part) (hp : P p) : P (l.foldl f p) := by
  induction l generalizing p with
  | nil => exact hp
  | cons a l ih => exact ih _ (h p a hp)

theorem exitJacks_law (old new : Vector JackEntry 96) (p : Part) (j : JackId) (h : p.JackLaw) :
    (exitJacks old new p j).JackLaw := by
  unfold exitJacks; split
  · exact Part.setJack_law h (h j)
  · exact h

theorem enterJacks_law (old new : Vector JackEntry 96) {n : Nat} (hn : n ≤ Config.maxPosition) (p : Part)
    (j : JackId) (h : p.JackLaw) : (enterJacks old new n p j).JackLaw := by
  unfold enterJacks
  split
  · exact Part.setJack_law h ⟨hn, by simp [Jack.setRod], by simp [Jack.setRod], by simp [Jack.setRod],
      by simp [Jack.setRod]⟩
  · split
    · have := h j
      exact Part.setJack_law h ⟨this.1, this.2.1, by simp, by simp, this.2.2.2.2⟩
    · exact h

/-- The lowest ACTIVE is a jack's position (R3). -/
theorem Part.lowestActive_le {p : Part} (h : p.JackLaw) : p.lowestActive.getD 0 ≤ Config.maxPosition := by
  generalize e : p.lowestActive = x
  cases x with
  | none => exact Nat.zero_le _
  | some n =>
    have hm := List.min?_mem e
    obtain ⟨j, -, rfl⟩ := List.mem_map.mp hm
    exact (h j).1

theorem Part.jackTransitions_course (p : Part) (old : Bank) : Course p (p.jackTransitions old) := by
  rw [p.jackTransitions_only old]
  refine .jacks p _ fun h => ?_
  rw [← p.jackTransitions_only old]
  have hq := foldl_law (P := Part.JackLaw) (fun p j => exitJacks_law old.jacks p.bank.jacks p j)
  unfold Part.jackTransitions
  have h₁ := foldl_law (P := Part.JackLaw) (f := exitJacks old.jacks p.bank.jacks)
    (fun q j => exitJacks_law old.jacks p.bank.jacks q j) jackIds p h
  exact foldl_law (P := Part.JackLaw)
    (fun q j => enterJacks_law old.jacks p.bank.jacks (Part.lowestActive_le h₁) q j) jackIds _ h₁

section
variable (p : Part)

/-! ### COMMIT -/

theorem Part.commitRemovals_quiet : Quiet p p.commitRemovals :=
  ((p.removeEntries_quiet _ _).trans (Part.removeEntries_quiet _ _ _)).trans (Part.removeEntries_quiet _ _ _)

theorem Part.commitJackReport_course (pre : Part) : Course p (pre.commitJackReport p) := by
  unfold Part.commitJackReport
  have h := ((p.catchUp_course).trans
    (Course.foldl (f := fun q k => q.retireFrom (pre.sectorBottom k) k)
      (fun p k => p.retireFrom_course _ k) sectorIds _)).trans (.quiet (Part.commitRemovals_quiet _))
  exact (Course.ite (fun _ => h.trans (.quiet (Part.admPass_quiet _))) fun _ => h).trans
    (.quiet (Quiet.foldl (fun p j => p.tellMode_quiet pre j) _ _))

theorem Part.feedTransition_quiet (old : Bank) (f : FeedId) : Quiet p (p.feedTransition old f) := by
  unfold Part.feedTransition; split
  · exact (Quiet.feed p f _).trans (Part.cease_quiet _ _)
  · exact .refl p

theorem Part.commitLayerReport_quiet (pre : Part) (k : SectorId) : Quiet p (pre.commitLayerReport p k) := by
  unfold Part.commitLayerReport; split
  · exact p.admPass_quiet
  · exact .refl p

theorem commitJudging_loudly (pre : Part) (j : JackId) : Judging.Loudly (commitJudging pre j) := fun p => by
  unfold commitJudging; split
  · split
    · split
      · exact .refl p
      · exact reasserting_loudly _ p
    · exact assertion_loudly _ _ p
  · exact .refl p

theorem Part.commitMon_loud (pre : Part) : Loud p (pre.commitMon p) := by
  unfold Part.commitMon
  refine (Loud.quiet p.ceaseAllUnmet_quiet).trans (Part.event_loud _ fun f h => ?_)
  rcases List.mem_append.mp h with h | h
  · rcases List.mem_append.mp h with h | h
    · rcases List.mem_append.mp h with h | h
      · obtain ⟨j, -, rfl⟩ := List.mem_map.mp h
        exact commitJudging_loudly pre j
      · obtain ⟨k, -, hk⟩ := List.mem_flatMap.mp h
        simp only [List.mem_cons, List.not_mem_nil, or_false] at hk
        rcases hk with rfl | rfl | rfl | rfl <;> first | exact judging_loudly _ _ | exact reasserting_loudly _
    · obtain ⟨k, -, rfl⟩ := List.mem_map.mp h
      exact reasserting_loudly _
  · simp only [List.mem_cons, List.not_mem_nil, or_false] at h
    rcases h with rfl | rfl | rfl | rfl <;> first | exact judging_loudly _ _ | exact reasserting_loudly _

theorem Part.applyBank_turn (t : Tag) (empty : p.xt.table = []) : Turn p (p.applyBank t) := by
  unfold Part.applyBank
  refine (Turn.bank p empty).trans (.course ?_)
  exact (((((((Course.quiet (Part.reply_quiet _ t codeCommit outCommitted [])).trans
    (Part.jackTransitions_course _ p.bank)).trans (Part.commitJackReport_course _ p)).trans
    (.quiet (Quiet.foldl (fun q f => q.feedTransition_quiet p.bank f) _ _))).trans
    (.quiet (Quiet.foldl (fun q k => q.commitLayerReport_quiet p k) _ _))).trans
    (.quiet (Part.admPass_quiet _))).trans (.loud (Part.commitMon_loud _ p))).trans
    (.quiet (Part.creepPassIfWaiting_quiet _))

theorem Part.cancelCommit_turn (t : Tag) (why : Option Failing) : Turn p (p.cancelCommit t why) :=
  (Turn.idle p).trans (.quiet ((((Quiet.raise _ _).trans (Part.reply_quiet _ _ _ _ _)).trans
    (Part.admPass_quiet _)).trans (Part.creepPassIfWaiting_quiet _)))

theorem Part.applyPending_turn (t : Tag) (empty : p.xt.table = []) : Turn p (p.applyPending t) := by
  unfold Part.applyPending; split
  · exact p.cancelCommit_turn _ _
  · exact p.applyBank_turn t empty

theorem Part.quiesce_turn : Turn p p.quiesce := by
  unfold Part.quiesce; split
  · exact .ite (fun h => (p.applyPending_turn _ (List.isEmpty_iff.mp h)).trans (.quiet (Part.leaseSince_quiet _ p)))
      fun _ => .refl p
  · exact .refl p

/-- The end of an event, whatever the event found. -/
theorem Part.finish_turn (pre : Part) : Turn p (pre.finish p) :=
  (Turn.quiet (p.leaseSince_quiet pre)).trans (Part.quiesce_turn _)

theorem Part.decideCommit_turn (t : Tag) (n : BitVec 16) : Turn p (p.decideCommit t n) := by
  unfold Part.decideCommit
  refine .ite (fun _ => .quiet (p.deny_quiet _ _ _)) fun _ => ?_
  refine .ite (fun _ => .quiet (p.deny_quiet _ _ _)) fun _ => ?_
  split
  · exact .quiet (p.reply_quiet _ _ _ _)
  · refine .ite (fun h => p.applyBank_turn t (List.isEmpty_iff.mp h)) fun h => ?_
    exact (Turn.pending p t fun e => h (List.isEmpty_iff.mpr e)).trans (.quiet (Part.ack_quiet _ _ _))

theorem Part.tableWrite_turn (t : Tag) (a i f v : Nat) : Turn p (p.tableWrite t a i f v) := by
  unfold Part.tableWrite
  split
  · exact .quiet (p.deny_quiet _ _ _)
  · exact .ite (fun _ => .quiet (p.deny_quiet _ _ _)) fun _ => (Turn.shadow p _).trans (.quiet (Part.ack_quiet _ _ _))

theorem Part.shadowLoad_turn (t : Tag) : Turn p (p.shadowLoad t) := by
  unfold Part.shadowLoad
  exact .ite (fun _ => .quiet (p.deny_quiet _ _ _)) fun _ => (Turn.shadow p _).trans (.quiet (Part.ack_quiet _ _ _))

theorem Part.askReset_turn (t : Tag) (free : p.resetLine = false) : Turn p (p.askReset t) := by
  unfold Part.askReset
  refine .ite (fun _ => .quiet (p.deny_quiet _ _ _)) fun _ => ?_
  refine .ite (fun _ => ?_) fun _ => .request p (.inr free)
  exact (Turn.quiet (p.ack_quiet t codeReset)).trans (.await _ _ (by simpa using free))

/-! ### Time -/

theorem Part.dueCommand_turn {c : Command} (here : (p.openOf c.subject).isSome) : Turn p (p.dueCommand c) := by
  unfold Part.dueCommand
  refine .ite (fun _ => (Turn.course (p.closeTimeout_course here)).trans (Part.finish_turn _ p)) fun _ => ?_
  exact .ite (fun _ => .quiet (p.resend_quiet c)) fun _ => .refl p

theorem Part.shareTransactions_turn : Turn p p.shareTransactions := by
  unfold Part.shareTransactions
  refine Turn.foldl (fun p x => ?_) _ p
  split
  · next c hc =>
    refine p.dueCommand_turn ?_
    rw [Part.openOf_subject hc, hc]
    rfl
  · exact .refl p

theorem Part.shareCommitWait_turn : Turn p p.shareCommitWait := by
  unfold Part.shareCommitWait; split
  · exact .ite (fun _ => p.cancelCommit_turn _ _) fun _ => .refl p
  · exact .refl p

theorem Part.share_turn (x : Share) : Turn p (p.share x) := by
  cases x with
  | deferred => exact .quiet (p.passWith_quiet true)
  | transactions => exact p.shareTransactions_turn
  | creep => exact .ite (fun _ => .course p.expireCreep_course) fun _ => .refl p
  | lease => exact .quiet p.shareLease_quiet
  | window => exact .ite (fun _ => .course p.expireWindow_course) fun _ => .refl p
  | commitWait => exact p.shareCommitWait_turn
  | deglitch => exact .loud p.shareDeglitch_loud
  | blanking => exact .course p.shareBlanking_course

theorem Part.dropShare_turn (x : Share) : Turn p (p.dropShare x) :=
  .owed p _ (.inr (List.length_filter_le _ _))

theorem Part.takeShare_turn (x : Share) : Turn p (p.takeShare x) := by
  unfold Part.takeShare
  exact .ite (fun _ => ((p.share_turn x).trans (Part.dropShare_turn _ x)).trans (Part.finish_turn _ p))
    fun _ => .refl p

theorem Part.resetIfDue_turn : Turn p p.resetIfDue := by
  unfold Part.resetIfDue
  exact .ite (fun h => .request p (.inl (by simp [h]))) fun _ => .refl p

theorem Part.settle_turn : Turn p p.settle :=
  p.resetIfDue_turn.trans (Turn.foldl (fun p x => p.takeShare_turn x) _ _)

theorem Part.settleAll_turn : Turn p p.settleAll :=
  p.resetIfDue_turn.trans (Turn.foldl (fun p x => p.takeShare_turn x) _ _)

theorem Part.admAdvance_turn : Turn p p.admAdvance := by
  unfold Part.admAdvance
  exact .ite (fun _ => (Turn.quiet (p.passWith_quiet false)).trans (Part.dropShare_turn _ _)) fun _ => .refl p

theorem Part.advance_turn : Turn p p.advance := by
  unfold Part.advance
  refine .ite (fun _ => .refl p) fun h => ?_
  exact (((((Turn.count p).trans (.owed _ allShares (.inl (by simpa [Part.countDown] using h)))).trans
    (Turn.foldl (fun p x => p.takeShare_turn x) _ _)).trans
    (.loud (Part.judgeBonds_loud _))).trans (Part.finish_turn _ _)).trans (Part.admAdvance_turn _)

theorem Part.nodeShare_turn (a : Byte) (due : Part → Command → Bool) : Turn p (p.nodeShare a due) := by
  unfold Part.nodeShare
  refine .ite (fun _ => ?_) fun _ => .refl p
  split
  · next hc => exact .ite (fun _ => p.dueCommand_turn (Part.openAt_mem hc)) fun _ => .refl p
  · exact .refl p

theorem Part.pairShare_turn (q : Pair) : Turn p (p.pairShare q) := by
  unfold Part.pairShare
  refine .ite (fun _ => .loud (p.event_loud fun f h => ?_)) fun _ => .refl p
  simp only [List.mem_cons, List.not_mem_nil, or_false] at h
  rcases h with rfl | rfl
  · exact deglitchJudging_loudly q
  · exact judging_loudly _ _

theorem Part.stopInLevel_turn (b : Bool) : Turn p (p.stopInLevel b) := by
  unfold Part.stopInLevel
  exact .ite (fun _ => .level p b) fun _ => (Turn.level p b).trans (.loud (Part.judge_loud _ _ _))

end

/-! ### Whole steps -/

theorem State.act_turn {s : State} {f : Part → Part} (h : ∀ p, Turn p (f p)) :
    ∃ p, s.act f = .next { s with part := p } ∧ Turn s.part p :=
  ⟨_, rfl, ((Part.settle_turn _).trans (h _)).trans (Part.finish_turn _ _)⟩

theorem State.endSecond_turn {s : State} {f : Part → Part} (h : ∀ p, Turn p (f p)) :
    ∃ p, s.endSecond f = .next { s with part := p } ∧ Turn s.part p :=
  ⟨_, rfl, ((Part.settleAll_turn _).trans (h _)).trans (Part.finish_turn _ _)⟩

theorem State.due_turn {s : State} {f : Part → Part} (h : ∀ p, Turn p (f p)) :
    ∃ p, s.due f = .next { s with part := p } ∧ Turn s.part p :=
  ⟨_, rfl, ((Part.resetIfDue_turn _).trans (h _)).trans (Part.finish_turn _ _)⟩

theorem State.takeFrame_turn {s : State} {f : Part → Part} (h : ∀ p, p.resetLine = false → Turn p (f p)) :
    ∃ p, s.takeFrame f = .next { s with part := p } ∧ Turn s.part p := by
  refine State.act_turn fun p => ?_
  unfold Part.ifTaking
  refine .ite (fun ht => h p ?_) fun _ => .refl p
  simp only [Part.takesFrames, Bool.and_eq_true, Bool.not_eq_true'] at ht
  exact ht.1

theorem State.takeRequest_turn {s : State} {f : Part → Part} (h : ∀ p, p.resetLine = false → Turn p (f p)) :
    ∃ p, s.takeRequest f = .next { s with part := p } ∧ Turn s.part p :=
  State.takeFrame_turn fun p free =>
    (Turn.course p.acceptAny_course).trans (h _ (p.acceptAny_course.keeps.resetLine.trans free))

theorem Part.fromNode_turn (p : Part) {a : Byte} {f : Part → Part} (h : Turn p (f p)) :
    Turn p (p.fromNode a f) := by
  unfold Part.fromNode
  exact .ite (fun _ => h) fun _ => .quiet (.raise p _)

/-- Every command ends in a next state, whose part is reached by a Turn and whose queue is untouched. -/
theorem exec_turn (i : Instr) (s : State) : ∃ p, exec i s = .next { s with part := p } ∧ Turn s.part p := by
  have frame : ∀ {f : Part → Part}, (∀ p, Turn p (f p)) →
      ∃ p, s.takeFrame f = .next { s with part := p } ∧ Turn s.part p :=
    fun h => State.takeFrame_turn fun p _ => h p
  have ask : ∀ {f : Part → Part}, (∀ p, Turn p (f p)) →
      ∃ p, s.takeRequest f = .next { s with part := p } ∧ Turn s.part p :=
    fun h => State.takeRequest_turn fun p _ => h p
  cases i with
  | lift d t l =>
    refine frame fun p => ?_
    split
    · exact .course (p.deckLift_course _ _ _)
    · exact .quiet (p.refuse_quiet _ _ _ _)
  | pour d t l =>
    refine frame fun p => ?_
    split
    · exact .course (p.deckPour_course _ _ _ _)
    · exact .quiet (p.refuse_quiet _ _ _ _)
  | ask d t l => exact frame fun p => .course (p.passThrough_course (.refl p))
  | still d t l => exact frame fun p => .course (p.passThrough_course (p.stillFromDeck_quiet d))
  | nodeset d t l => exact frame fun p => .course (p.nodeset_course d t l)
  | deckFrameWrongKind d k t => exact frame fun p => .quiet (p.refuse_quiet _ _ _ _)
  | frameBadCheck x => exact frame fun p => .quiet (.raise p _)
  | unknownKindDropped x c => exact frame fun p => .quiet (.raise p _)
  | mgmtBadRequest t l =>
    simp only [exec, execMgmtBadRequest]
    split
    · exact ask fun p => .quiet (p.deny_quiet _ _ _)
    · exact frame fun p => .quiet (p.deny_quiet _ _ _)
  | heartbeat t b => exact ask fun p => .course (p.heartbeat_course t b)
  | status t n => exact ask fun p => .course (p.status_course t n)
  | faults t n => exact ask fun p => .quiet (p.faults_quiet t n)
  | clear t => exact State.takeRequest_turn fun p free => .course (p.clear_course t free)
  | tableWrite t a i f v => exact ask fun p => p.tableWrite_turn _ _ _ _ _
  | tableRead t b a i f => exact ask fun p => .quiet (p.tableRead_quiet _ _ _ _ _)
  | shadowLoad t => exact ask fun p => p.shadowLoad_turn t
  | commit t n => exact ask fun p => p.decideCommit_turn t n
  | controlStart t => exact ask fun p => .course (p.controlStart_course t)
  | controlHold t => exact ask fun p => .course (p.controlHold_course t)
  | controlResume t => exact ask fun p => .course (p.controlResume_course t)
  | controlStop t => exact ask fun p => .loud (p.controlStop_loud t)
  | spliceBegin t j =>
    simp only [exec, execSpliceBegin]
    refine ask fun p => ?_
    split
    · exact .course (p.spliceBegin_course t _)
    · exact .quiet (p.deny_quiet _ _ _)
  | spliceEnd t j n =>
    simp only [exec, execSpliceEnd]
    refine ask fun p => ?_
    split
    · exact .course (p.spliceEnd_course t _ _)
    · exact .quiet (p.deny_quiet _ _ _)
  | rodSet t j n =>
    simp only [exec, execRodSet]
    refine ask fun p => ?_
    split
    · exact .course (p.rodSet_course t _ _)
    · exact .quiet (p.deny_quiet _ _ _)
  | positionSet t j n =>
    simp only [exec, execPositionSet]
    refine ask fun p => ?_
    split
    · exact .course (p.positionSet_course t _ (by have := n.isLt; simp only [Config.maxPosition]; omega))
    · exact .quiet (p.deny_quiet _ _ _)
  | isolate t a => exact ask fun p => .course (p.isolate_course t a)
  | restore t a => exact ask fun p => .course (p.restore_course t a)
  | jackRead t j =>
    simp only [exec, execJackRead]
    refine ask fun p => ?_
    split
    · exact .quiet (p.data_quiet _ _ _)
    · exact .quiet (p.deny_quiet _ _ _)
  | sectorRead t k =>
    simp only [exec, execSectorRead]
    refine ask fun p => ?_
    split
    · exact .quiet (p.data_quiet _ _ _)
    · exact .quiet (p.deny_quiet _ _ _)
  | layerRead t k n =>
    simp only [exec, execLayerRead]
    refine ask fun p => ?_
    split
    · exact .quiet (p.data_quiet _ _ _)
    · exact .quiet (p.deny_quiet _ _ _)
  | layerEnter t k d a m => exact ask fun p => .course (p.layerEnter_course t k _ _ m)
  | leaseAsk t => exact ask fun p => .quiet (p.leaseAsk_quiet t)
  | leaseEnd t => exact ask fun p => .quiet (p.leaseEnd_quiet t)
  | reset t => exact State.takeRequest_turn fun p free => p.askReset_turn t free
  | ident t => exact ask fun p => .quiet (p.data_quiet _ _ _)
  | lifted a t n e k => exact frame fun p => p.fromNode_turn (.course (p.takeLifted_course _ _))
  | poured a t k n m => exact frame fun p => p.fromNode_turn (.course (p.takePoured_course _ _))
  | wait a t => exact frame fun p => p.fromNode_turn (.quiet (p.takeWait_quiet a t))
  | nodeState a t e d k c =>
    exact frame fun p => p.fromNode_turn
      ((Turn.course (p.learnDepth_course a d)).trans (.quiet (Part.emit_quiet _ _ _ _ _)))
  | trouble a t c =>
    exact frame fun p => p.fromNode_turn
      (((Turn.course (p.takeTrouble_course a)).trans (.quiet (Part.leaseSince_quiet _ p))).trans
        (.quiet (Part.emit_quiet _ _ _ _ _)))
  | unclaimedLiftPour k d t => exact frame fun p => .course (p.unclaimed_course k d t)
  | unclaimedAskStill k d t =>
    exact frame fun p => .ite (fun _ => .quiet (p.refuse_quiet _ _ _ _)) fun _ => .refl p
  | unclaimedNodeset d t =>
    exact frame fun p => .ite (fun _ => .quiet (p.refuse_quiet _ _ _ _)) fun _ => .refl p
  | ringFrameDropped a d k n => exact frame fun p => .quiet (.raise p _)
  | ringOutSend => exact State.act_turn .sendRing
  | deckSend => exact State.act_turn .sendDeck
  | stopInAssert => exact State.act_turn fun p => p.stopInLevel_turn true
  | stopInRelease => exact State.act_turn fun p => p.stopInLevel_turn false
  | powerOn => exact State.act_turn .power
  | resetLineAssert => exact State.act_turn .hold
  | resetLineRelease => exact State.act_turn .release
  | resetAfterAck => exact State.due_turn .refl
  | slipClockAdvance => exact State.endSecond_turn Part.advance_turn
  | deferredEntryExpiry => exact State.due_turn fun p => p.takeShare_turn _
  | subTransactionTimeout a => exact State.due_turn fun p => p.nodeShare_turn a _
  | resendDue a => exact State.due_turn fun p => p.nodeShare_turn a _
  | creepTimerExpiry => exact State.due_turn fun p => p.takeShare_turn _
  | leaseLimit => exact State.due_turn fun p => p.takeShare_turn _
  | windowExpiry => exact State.due_turn fun p => p.takeShare_turn _
  | commitWaitCancel => exact State.due_turn fun p => p.takeShare_turn _
  | deglitchExpiry q => exact State.due_turn fun p => p.pairShare_turn q
  | resumeBlankingEnd => exact State.due_turn fun p => p.takeShare_turn _

/-- Every step ends in a next state whose part is reached by a Turn. -/
theorem step_turn {s t : State} (h : step s = .next t) : Turn s.part t.part := by
  unfold step at h
  split at h
  · obtain ⟨p, e, ht⟩ := State.endSecond_turn (s := s) (f := id) .refl
    rw [e] at h
    cases h
    exact ht
  · next i rest _ =>
    obtain ⟨p, e, ht⟩ := exec_turn i { s with pending := rest }
    rw [e] at h
    cases h
    exact ht

end Sys2Proof.Machine
end

