-- ==== Sys2Proof/Laws/Settled.lean ====
section
/-! SUPPORT. What the form every command takes (Machine/Tick.lean) comes to when nothing is due: the settling before
it and the end of the event after it fall away. Also what settling leaves. -/

namespace Sys2Proof.Machine

section
variable {p q : Part}

/-! ### Nothing due -/

theorem Part.quiesce_eq (h : p.CommitLaw) : p.quiesce = p := by
  unfold Part.quiesce
  split
  · next hc =>
    have := h (by simp [Part.commitPending, hc, CommitState.isPending])
    simp [this]
  · rfl

theorem Part.quiesce_idle (h : p.commitPending = false) : p.quiesce = p :=
  Part.quiesce_eq fun hp => by rw [h] at hp; cases hp

/-- An effect that leaves the transaction table and the commit state brings no quiescence. -/
theorem Part.quiesce_keep (h : p.CommitLaw) (hx : q.xt.table = p.xt.table) (hc : q.cfg.commit = p.cfg.commit) :
    q.quiesce = q :=
  Part.quiesce_eq fun hp => by
    rw [hx]
    exact h (by simpa [Part.commitPending, hc] using hp)

/-- An event that neither ends a round nor closes a round command grants no lease. -/
theorem Part.leaseSince_keep (hr : q.mode.roundInProgress = p.mode.roundInProgress)
    (hc : q.mode.roundCommands = p.mode.roundCommands) : p.leaseSince q = q := by
  have same : q.grantTest = p.grantTest := by simp only [Part.grantTest, hr, hc]
  unfold Part.leaseSince
  split
  · rfl
  · next hp =>
    unfold Part.leaseTest
    rw [same]
    split
    · exact if_neg hp
    all_goals rfl

/-- Without a pending lease an event grants none. -/
theorem Part.leaseSince_none (h : ∀ t, q.mode.lease ≠ .pending t) : p.leaseSince q = q := by
  unfold Part.leaseSince Part.leaseTest
  split
  · rfl
  · split
    · next t e => exact absurd e (h t)
    all_goals rfl

/-- The end of an event that grants no lease, with no pending commit or an open command. -/
theorem Part.finish_eq (hl : p.leaseSince q = q) (h : q.CommitLaw) : p.finish q = q := by
  unfold Part.finish
  rw [hl, Part.quiesce_eq h]

theorem Part.finish_self (h : p.CommitLaw) : p.finish p = p := Part.finish_eq (Part.leaseSince_keep rfl rfl) h

theorem Part.takeShare_unowed {x : Share} (h : p.owed.contains x = false) : p.takeShare x = p := by
  unfold Part.takeShare
  rw [h]
  rfl

theorem Part.takeShares_eq (l : List Share) (h : ∀ x ∈ l, x ∉ p.owed) : l.foldl Part.takeShare p = p := by
  induction l with
  | nil => rfl
  | cons x l ih =>
    rw [List.foldl_cons, Part.takeShare_unowed (by simpa using h x List.mem_cons_self),
      ih fun y hy => h y (List.mem_cons_of_mem _ hy)]

theorem Part.resetIfDue_eq (h : p.resetWait ≠ some 0) : p.resetIfDue = p := by simp [Part.resetIfDue, h]

theorem Part.settle_eq (h : p.Settled) : p.settle = p := by
  unfold Part.settle
  rw [Part.resetIfDue_eq (by simp [h.2.1])]
  refine Part.takeShares_eq _ fun x hx ho => ?_
  have := h.1 x ho
  simp [this] at hx

theorem Part.settleAll_eq (h : p.Settled) (free : p.owed = []) : p.settleAll = p := by
  unfold Part.settleAll
  rw [Part.resetIfDue_eq (by simp [h.2.1])]
  exact Part.takeShares_eq _ fun x _ ho => by simp [free] at ho

theorem Part.settled_of_ready (h : p.Ready) : p.Settled := h.1

theorem Part.commitLaw_of_settled (h : p.Settled) : p.CommitLaw := h.2.2

theorem Part.takesFrames_of_ready (h : p.Ready) : p.takesFrames = true := by
  simp [Part.takesFrames, h.2, h.1.2.1]

/-! ### The forms of a command -/

theorem State.act_settled {s : State} {f : Part → Part} (h : s.part.Settled) :
    s.act f = .next { s with part := s.part.finish (f s.part) } := by
  unfold State.act
  rw [Part.settle_eq h]

theorem State.endSecond_settled {s : State} {f : Part → Part} (h : s.part.Settled) (free : s.part.owed = []) :
    s.endSecond f = .next { s with part := s.part.finish (f s.part) } := by
  unfold State.endSecond
  rw [Part.settleAll_eq h free]

theorem State.due_settled {s : State} {f : Part → Part} (h : s.part.resetWait ≠ some 0) :
    s.due f = .next { s with part := s.part.finish (f s.part) } := by
  unfold State.due
  rw [Part.resetIfDue_eq h]

theorem State.takeFrame_ready {s : State} {f : Part → Part} (h : s.part.Ready) :
    s.takeFrame f = .next { s with part := s.part.finish (f s.part) } := by
  unfold State.takeFrame
  rw [State.act_settled h.1]
  simp [Part.ifTaking, Part.takesFrames_of_ready h]

/-- No frame is taken while the part is held in reset or a RESET request waits. -/
theorem State.takeFrame_shut {s : State} {f : Part → Part} (h : s.part.Settled) (line : s.part.resetLine = true) :
    s.takeFrame f = .next s := by
  unfold State.takeFrame
  rw [State.act_settled h]
  simp [Part.ifTaking, Part.takesFrames, line, Part.finish_self h.2.2]

theorem State.takeRequest_ready {s : State} {f : Part → Part} (h : s.part.Ready) :
    s.takeRequest f = .next { s with part := s.part.finish (f s.part.acceptAny) } :=
  State.takeFrame_ready h

/-! ### Acceptance under ANY (R140) -/

theorem Part.cease_xt (p : Part) (q : Pair) : (p.cease q).xt = p.xt := rfl
theorem Part.cease_adm (p : Part) (q : Pair) : (p.cease q).adm = p.adm := rfl

/-- An input found false asserts nothing (R125). -/
theorem Part.judge_false (p : Part) (q : Pair) : p.judge q false = p.follow q false := by
  simp [Part.judge, Part.event, judgeAll, judging, Part.assertsNow]

theorem Part.judgeFalse (p : Part) (q : Pair) : p.judge q false = p ∨ p.judge q false = p.cease q := by
  rw [Part.judge_false]
  unfold Part.follow
  split
  · exact .inl rfl
  · exact .inr rfl
  · exact .inr rfl

/-- What an acceptance leaves as it was: everything but supervision, the DECK pair with its record, and heartbeat
since hold. -/
structure AcceptKeeps (p q : Part) : Prop where
  jacks : q.jacks = p.jacks
  sectors : q.sectors = p.sectors
  adm : q.adm = p.adm
  xt : q.xt = p.xt
  feeds : q.feeds = p.feeds
  mode : q.mode = { p.mode with heartbeatSinceHold := q.mode.heartbeatSinceHold }
  pairs : ∀ x, x ≠ .deck → q.pair x = p.pair x
  stops : ∀ x, (q.pair x).stopsSector = (p.pair x).stopsSector ∧ (q.pair x).stopsRing = (p.pair x).stopsRing
  blanking : q.mon.blanking = p.mon.blanking
  alert : q.mon.alert = p.mon.alert
  events : q.mon.events = p.mon.events
  cfg : q.cfg = p.cfg
  clock : q.clock = p.clock
  resetCause : q.resetCause = p.resetCause
  resetWait : q.resetWait = p.resetWait
  sendQueue : q.sendQueue = p.sendQueue
  ringQueue : q.ringQueue = p.ringQueue
  stopIn : q.stopIn = p.stopIn
  resetLine : q.resetLine = p.resetLine
  stopOut : q.stopOut = p.stopOut
  owed : q.owed = p.owed
  order : q.order = p.order

theorem AcceptKeeps.refl (p : Part) : AcceptKeeps p p := by
  constructor <;> intros <;> first | rfl | exact ⟨rfl, rfl⟩

theorem AcceptKeeps.trans {p q r : Part} (a : AcceptKeeps p q) (b : AcceptKeeps q r) : AcceptKeeps p r where
  jacks := b.jacks.trans a.jacks
  sectors := b.sectors.trans a.sectors
  adm := b.adm.trans a.adm
  xt := b.xt.trans a.xt
  feeds := b.feeds.trans a.feeds
  mode := by rw [b.mode, a.mode]
  pairs := fun x h => (b.pairs x h).trans (a.pairs x h)
  stops := fun x => ⟨(b.stops x).1.trans (a.stops x).1, (b.stops x).2.trans (a.stops x).2⟩
  blanking := b.blanking.trans a.blanking
  alert := b.alert.trans a.alert
  events := b.events.trans a.events
  cfg := b.cfg.trans a.cfg
  clock := b.clock.trans a.clock
  resetCause := b.resetCause.trans a.resetCause
  resetWait := b.resetWait.trans a.resetWait
  sendQueue := b.sendQueue.trans a.sendQueue
  ringQueue := b.ringQueue.trans a.ringQueue
  stopIn := b.stopIn.trans a.stopIn
  resetLine := b.resetLine.trans a.resetLine
  stopOut := b.stopOut.trans a.stopOut
  owed := b.owed.trans a.owed
  order := b.order.trans a.order

theorem Part.setSup_keeps (p : Part) (x : Supervision) : AcceptKeeps p (p.setSup x) := by
  constructor <;> intros <;> first | rfl | exact ⟨rfl, rfl⟩

theorem Part.ceaseDeck_keeps (p : Part) : AcceptKeeps p (p.cease .deck) := by
  constructor
  case pairs => exact fun x h => Part.pair_setPair_ne p _ h
  case stops =>
    intro x
    by_cases h : x = .deck
    · subst h
      have : (p.cease .deck).pair .deck = { p.pair .deck with state := .notPresent } := Part.pair_setPair p _ _
      rw [this]
      exact ⟨rfl, rfl⟩
    · rw [show (p.cease .deck).pair x = p.pair x from Part.pair_setPair_ne p _ h]
      exact ⟨rfl, rfl⟩
  all_goals rfl

theorem Part.endDeckLost_keeps (p : Part) : AcceptKeeps p p.endDeckLost := by
  unfold Part.endDeckLost
  split
  · refine (p.setSup_keeps { p.sup with deckLost := false }).trans ?_
    rcases Part.judgeFalse (p.setSup { p.sup with deckLost := false }) .deck with h | h
    · rw [h]; exact .refl _
    · rw [h]; exact Part.ceaseDeck_keeps _
  · exact .refl p

theorem Part.tellModeAccepted_keeps (p : Part) : AcceptKeeps p p.tellModeAccepted := by
  unfold Part.tellModeAccepted
  split
  · constructor <;> intros <;> first | rfl | exact ⟨rfl, rfl⟩
  · exact .refl p

theorem Part.accept_keeps (p : Part) : AcceptKeeps p p.accept :=
  ((p.setSup_keeps _).trans (Part.endDeckLost_keeps _)).trans (Part.tellModeAccepted_keeps _)

theorem Part.acceptAny_keeps (p : Part) : AcceptKeeps p p.acceptAny := by
  unfold Part.acceptAny
  split
  · exact p.accept_keeps
  · exact .refl p

theorem Part.acceptAny_commitLaw (h : p.CommitLaw) : p.acceptAny.CommitLaw := by
  have k := p.acceptAny_keeps
  intro hp
  rw [k.xt]
  exact h (by simpa [Part.commitPending, k.cfg] using hp)

/-- Supervision inactive, or the kind TOKEN: a request is no heartbeat (R140). -/
theorem Part.acceptAny_eq (h : p.sup.active = false ∨ p.bank.supKind = .token) : p.acceptAny = p := by
  unfold Part.acceptAny
  rcases h with h | h <;> simp [h]

/-- A request whose effect leaves the transaction table, the commit state and the lease. -/
theorem State.takeRequest_keep {s : State} {f : Part → Part} (h : s.part.Ready)
    (hl : s.part.leaseSince (f s.part.acceptAny) = f s.part.acceptAny)
    (hx : (f s.part.acceptAny).xt.table = s.part.acceptAny.xt.table)
    (hc : (f s.part.acceptAny).cfg.commit = s.part.acceptAny.cfg.commit) :
    s.takeRequest f = .next { s with part := f s.part.acceptAny } := by
  rw [State.takeRequest_ready h, Part.finish, hl, Part.quiesce_keep (Part.acceptAny_commitLaw h.1.2.2) hx hc]

/-- A frame whose effect leaves the transaction table, the commit state and the lease. -/
theorem State.takeFrame_keep {s : State} {f : Part → Part} (h : s.part.Ready)
    (hl : s.part.leaseSince (f s.part) = f s.part)
    (hx : (f s.part).xt.table = s.part.xt.table) (hc : (f s.part).cfg.commit = s.part.cfg.commit) :
    s.takeFrame f = .next { s with part := f s.part } := by
  rw [State.takeFrame_ready h, Part.finish, hl, Part.quiesce_keep h.1.2.2 hx hc]

/-! ### What commits and shares leave -/

/-- The registers that neither a commit nor a share of an advance changes. -/
structure Rests (p q : Part) : Prop where
  clock : q.clock = p.clock
  resetCause : q.resetCause = p.resetCause
  resetWait : q.resetWait = p.resetWait
  stopIn : q.stopIn = p.stopIn
  resetLine : q.resetLine = p.resetLine
  owed : q.owed = p.owed
  order : q.order = p.order

theorem Rests.refl (p : Part) : Rests p p := ⟨rfl, rfl, rfl, rfl, rfl, rfl, rfl⟩

theorem Rests.trans {p q r : Part} (a : Rests p q) (b : Rests q r) : Rests p r :=
  ⟨b.clock.trans a.clock, b.resetCause.trans a.resetCause, b.resetWait.trans a.resetWait, b.stopIn.trans a.stopIn,
    b.resetLine.trans a.resetLine, b.owed.trans a.owed, b.order.trans a.order⟩

theorem Rests.course {p q : Part} (h : Course p q) : Rests p q :=
  have k := h.keeps
  ⟨k.clock, k.resetCause, k.resetWait, k.stopIn, k.resetLine, k.owed, k.order⟩

/-- What a commit applied leaves: no commit pending, and the registers above. -/
theorem Part.applyBank_rests (p : Part) (t : Tag) :
    Rests p (p.applyBank t) ∧ (p.applyBank t).cfg.commit = .idle := by
  unfold Part.applyBank
  dsimp only
  generalize hb : ({ p with cfg := ⟨p.cfg.shadow, p.cfg.shadow, .idle, p.cfg.shadow.tableSum⟩ } : Part) = b
  have h := (((((((Course.quiet (b.reply_quiet t codeCommit outCommitted [])).trans
    (Part.jackTransitions_course _ p.bank)).trans (Part.commitJackReport_course _ p)).trans
    (.quiet (Quiet.foldl (fun q f => q.feedTransition_quiet p.bank f) feedIds _))).trans
    (.quiet (Quiet.foldl (fun q k => q.commitLayerReport_quiet p k) sectorIds _))).trans
    (.quiet (Part.admPass_quiet _))).trans (.loud (Part.commitMon_loud _ p))).trans
    (.quiet (Part.creepPassIfWaiting_quiet _))
  have r : Rests p b := by rw [← hb]; exact ⟨rfl, rfl, rfl, rfl, rfl, rfl, rfl⟩
  refine ⟨r.trans (.course h), ?_⟩
  rw [h.keeps.cfg, ← hb]

/-- What a commit cancelled leaves. -/
theorem Part.cancelCommit_rests (p : Part) (t : Tag) (why : Option Failing) :
    Rests p (p.cancelCommit t why) ∧ (p.cancelCommit t why).cfg.commit = .idle := by
  have h := (((Quiet.raise (p.setCommit .idle) .commitCancelled).trans
    (Part.reply_quiet _ t codeCommit outCommitCancelled (failingOctets why))).trans
    (Part.admPass_quiet _)).trans (Part.creepPassIfWaiting_quiet _)
  have r : Rests p (p.setCommit .idle) := ⟨rfl, rfl, rfl, rfl, rfl, rfl, rfl⟩
  exact ⟨r.trans (.course (.quiet h)), by rw [Part.cancelCommit, h.keeps.cfg]; rfl⟩

theorem Part.applyPending_rests (p : Part) (t : Tag) :
    Rests p (p.applyPending t) ∧ (p.applyPending t).cfg.commit = .idle := by
  unfold Part.applyPending; split
  · exact p.cancelCommit_rests t _
  · exact p.applyBank_rests t

theorem Part.leaseSince_rests (pre p : Part) : Rests p (pre.leaseSince p) := .course (.quiet (p.leaseSince_quiet pre))

theorem Part.quiesce_rests (p : Part) : Rests p p.quiesce := by
  unfold Part.quiesce; split
  · split
    · exact (p.applyPending_rests _).1.trans (Part.leaseSince_rests _ _)
    · exact .refl p
  · exact .refl p

theorem Part.finish_rests (pre p : Part) : Rests p (pre.finish p) :=
  (Part.leaseSince_rests pre p).trans (Part.quiesce_rests _)

/-- After quiescence a pending commit has an open command to wait for (R160). -/
theorem Part.quiesce_commitLaw (p : Part) : p.quiesce.CommitLaw := by
  unfold Part.quiesce Part.CommitLaw
  split
  · next t a hc =>
    split
    · intro h
      rw [Part.commitPending, ((p.applyPending t).leaseSince_quiet p).keeps.cfg, (p.applyPending_rests t).2] at h
      cases h
    · next he =>
      intro _ h
      exact he (List.isEmpty_iff.mpr h)
  · next hc =>
    intro h
    simp [Part.commitPending, hc, CommitState.isPending] at h

/-- After every event a pending commit has an open command to wait for (R160). -/
theorem Part.finish_commitLaw (pre p : Part) : (pre.finish p).CommitLaw := Part.quiesce_commitLaw _

theorem Part.dueCommand_rests {c : Command} (p : Part) (here : (p.openOf c.subject).isSome) :
    Rests p (p.dueCommand c) := by
  unfold Part.dueCommand
  split
  · exact (Rests.course (p.closeTimeout_course here)).trans (Part.finish_rests _ _)
  · split
    · exact .course (.quiet (p.resend_quiet c))
    · exact .refl p

theorem Rests.foldl {α : Type} {f : Part → α → Part} (h : ∀ p a, Rests p (f p a)) (l : List α) (p : Part) :
    Rests p (l.foldl f p) := by
  induction l generalizing p with
  | nil => exact .refl p
  | cons a l ih => exact (h p a).trans (ih _)

theorem Part.shareTransactions_rests (p : Part) : Rests p p.shareTransactions := by
  unfold Part.shareTransactions
  refine Rests.foldl (fun p x => ?_) _ p
  split
  · next c hc => exact p.dueCommand_rests (by rw [Part.openOf_subject hc, hc]; rfl)
  · exact .refl p

theorem Part.share_rests (p : Part) (x : Share) : Rests p (p.share x) := by
  cases x with
  | deferred => exact .course (.quiet (p.passWith_quiet true))
  | transactions => exact p.shareTransactions_rests
  | creep => exact .course (.ite (fun _ => p.expireCreep_course) fun _ => .refl p)
  | lease => exact .course (.quiet p.shareLease_quiet)
  | window => exact .course (.ite (fun _ => p.expireWindow_course) fun _ => .refl p)
  | commitWait =>
    change Rests p p.shareCommitWait
    unfold Part.shareCommitWait
    split
    · split
      · exact (p.cancelCommit_rests _ _).1
      · exact .refl p
    · exact .refl p
  | deglitch => exact .course (.loud p.shareDeglitch_loud)
  | blanking => exact .course p.shareBlanking_course

/-- A share taken is owed no more (R184). -/
theorem Part.takeShare_owed (p : Part) (x : Share) : (p.takeShare x).owed = p.owed.filter (· ≠ x) := by
  unfold Part.takeShare
  split
  · rw [(Part.finish_rests _ _).owed, Part.dropShare_owed, (p.share_rests x).owed]
  · next h =>
    refine (List.filter_eq_self.mpr fun y hy => ?_).symm
    simp only [decide_eq_true_eq]
    rintro rfl
    exact h (List.contains_iff_mem.mpr hy)

theorem Part.takeShare_reset (p : Part) (x : Share) :
    (p.takeShare x).resetWait = p.resetWait ∧ (p.takeShare x).resetLine = p.resetLine
      ∧ (p.takeShare x).order = p.order := by
  unfold Part.takeShare
  split
  · have a := p.share_rests x
    have b := Part.finish_rests p ((p.share x).dropShare x)
    exact ⟨b.resetWait.trans a.resetWait, b.resetLine.trans a.resetLine, b.order.trans a.order⟩
  · exact ⟨rfl, rfl, rfl⟩

theorem Part.takeShares_owed (p : Part) (l : List Share) :
    (l.foldl Part.takeShare p).owed = p.owed.filter fun x => x ∉ l := by
  induction l generalizing p with
  | nil => simp
  | cons x l ih =>
    rw [List.foldl_cons, ih, Part.takeShare_owed, List.filter_filter]
    refine List.filter_congr fun y _ => ?_
    by_cases h : y = x <;> simp [h]

theorem mem_allShares (x : Share) : x ∈ allShares := by cases x <;> decide

theorem Part.takeShares_order (p : Part) (l : List Share) : (l.foldl Part.takeShare p).order = p.order := by
  induction l generalizing p with
  | nil => rfl
  | cons x l ih => rw [List.foldl_cons, ih, (p.takeShare_reset x).2.2]

theorem Part.resetIfDue_order (p : Part) : p.resetIfDue.order = p.order := by
  unfold Part.resetIfDue
  split
  · unfold Part.requestReset Part.releaseEvent
    dsimp only
    split
    · exact (Part.judge_loud _ _ _).keeps.order
    · rfl
  · rfl

/-- What is owed once what was due has been taken is owed by blocks that take it late (logs 2, 3). -/
theorem Part.settle_owed (p : Part) : ∀ x ∈ p.settle.owed, x ∈ p.settle.order.late := by
  unfold Part.settle
  rw [Part.takeShares_owed, Part.takeShares_order, Part.resetIfDue_order]
  intro x hx
  simp only [List.mem_filter, Part.shareOrder, List.mem_append, mem_allShares, or_true, true_and] at hx
  simpa using hx.2

/-- Nothing is owed once all that was due has been taken (log 2). -/
theorem Part.settleAll_owed (p : Part) : p.settleAll.owed = [] := by
  unfold Part.settleAll
  rw [Part.takeShares_owed]
  refine List.filter_eq_nil_iff.mpr fun x _ h => ?_
  simp [Part.shareOrder, mem_allShares] at h

end

end Sys2Proof.Machine
end

