-- ==== Sys2Proof/Laws/Reports.lean ====
section
/-! SUPPORT. What reports leave: the jack table after the catch-up test (R13), the layer table after retirement
(R31), and the send queue, which an event only adds to (R175). -/

namespace Sys2Proof.Machine

/-! ### The send queue only grows within an event -/

/-- What waits stays in front, and a full queue takes nothing more (R175). -/
structure Grows (p q : Part) : Prop where
  front : p.sendQueue <+: q.sendQueue
  full : Config.maxSend ≤ p.sendQueue.length → q.sendQueue = p.sendQueue

theorem Grows.same {p q : Part} (h : q.sendQueue = p.sendQueue) : Grows p q :=
  ⟨h ▸ List.prefix_refl _, fun _ => h⟩

theorem Grows.trans {p q r : Part} (a : Grows p q) (b : Grows q r) : Grows p r :=
  ⟨a.front.trans b.front, fun h => by rw [b.full (by rw [a.full h]; exact h), a.full h]⟩

theorem Quiet.grows {p q : Part} (h : Quiet p q) : Grows p q := by
  induction h with
  | trans _ _ a b => exact a.trans b
  | send p f room _ => exact ⟨List.prefix_append _ _, fun h => absurd room (by omega)⟩
  | close p q c _ _ ih =>
    refine Grows.trans (q := q) ⟨ih.front, ih.full⟩ (.same ?_)
    unfold Part.releaseOf; split <;> rfl
  | _ => exact .same rfl

theorem Loud.grows {p q : Part} (h : Loud p q) : Grows p q := by
  induction h with
  | quiet h => exact h.grows
  | trans _ _ a b => exact a.trans b
  | stop p q r _ a _ b =>
    have h := Grows.trans (q := q) ⟨a.grows.front, a.grows.full⟩ ⟨b.grows.front, b.grows.full⟩
    exact ⟨h.front, h.full⟩
  | sector p r q a => exact ⟨a.grows.front, a.grows.full⟩
  | supOff p => exact .same rfl

theorem Course.grows {p q : Part} (h : Course p q) : Grows p q := by
  induction h with
  | loud h => exact h.grows
  | trans _ _ a b => exact a.trans b
  | close p q c _ _ ih =>
    refine Grows.trans (q := q) ⟨ih.front, ih.full⟩ (.same ?_)
    unfold Part.releaseOf; split <;> rfl
  | climb p q m _ _ a _ => exact ⟨a.grows.front, a.grows.full⟩
  | causes p q _ ih => exact ⟨ih.front, ih.full⟩
  | _ => exact .same rfl

/-- A frame handed to the deck answers, whatever the rest of the event hands over. -/
theorem Part.answers_of_grows {p q t : Part} {k : Kind} {a : Byte} {g : Tag} {l : List Byte}
    (hq : q.sendQueue = p.sendQueue) (h : Grows (q.emit k a g l) t) : p.Answers t ⟨0, a, k, g, q.summary, l⟩ := by
  unfold Part.Answers
  split
  · next room =>
    have e := q.emit_room (k := k) (s := a) (t := g) (l := l) (hq ▸ room)
    have := h.front
    rw [e] at this
    simpa [hq] using this
  · next room =>
    have e := q.emit_full (k := k) (s := a) (t := g) (l := l) (hq ▸ room)
    have := h.full (by rw [e]; simpa [hq] using room)
    rw [this, e]
    exact hq

/-! ### The catch-up test -/

theorem foldl_activate (l : List JackId) (p : Part) (i : JackId) :
    (l.foldl (fun p j => p.setJack j { p.jack j with state := .active }) p).jack i
      = if i ∈ l then { p.jack i with state := .active } else p.jack i := by
  induction l generalizing p with
  | nil => simp
  | cons j l ih =>
    rw [List.foldl_cons, ih]
    by_cases h : i = j
    · subst h
      simp
    · rw [Part.jack_setJack_ne p _ h]
      simp [h]

theorem mem_jackIds (j : JackId) : j ∈ jackIds := List.mem_finRange j

theorem mem_sectorIds (k : SectorId) : k ∈ sectorIds := List.mem_finRange k

/-- Every CATCHUP jack that passes enters ACTIVE; every other record stays (R13). -/
theorem Part.catchUp_jack (p : Part) (j : JackId) :
    p.catchUp.jack j = if (p.jack j).state = .catchup ∧ p.passesCatchup p.highestActive j = true
      then { p.jack j with state := .active } else p.jack j := by
  unfold Part.catchUp
  rw [foldl_activate]
  simp [mem_jackIds]

theorem Part.catchUp_only (p : Part) : JacksOnly p p.catchUp :=
  JacksOnly.foldl (f := fun p j => p.setJack j { p.jack j with state := .active }) (fun _ _ => rfl) _ p

/-! ### Retirement -/

theorem Part.retireFrom_jacks (p : Part) (n : Nat) (k : SectorId) : (p.retireFrom n k).jacks = p.jacks := by
  unfold Part.retireFrom; split <;> rfl

theorem Part.reportBottom_jacks (pre p : Part) (k : SectorId) : (pre.reportBottom p k).jacks = p.jacks := by
  unfold Part.reportBottom
  dsimp only
  split
  · rw [(Part.admPass_quiet _).keeps.jacks, Part.retireFrom_jacks]
  · exact p.retireFrom_jacks _ _

/-- A sector's bottom is read from the jacks, the configuration and the sector's floor (R4). -/
theorem Part.sectorBottom_congr {p q : Part} (hj : q.jacks = p.jacks) (hc : q.cfg = p.cfg) {k : SectorId}
    (hs : q.sector k = p.sector k) : q.sectorBottom k = p.sectorBottom k := by
  have h : q.height = p.height := by
    funext j
    simp only [Part.height, Part.bank, Part.jack, hj, hc]
  simp only [Part.sectorBottom, Part.sectorOf, Part.jackEntry, Part.bank, Part.jack, hj, hc, hs, h]

/-- The sector as its retirement leaves it (R31). -/
def Part.retired (p : Part) (before : Nat) (k : SectorId) : Sector :=
  if before < p.sectorBottom k then (p.sector k).retire (p.sectorBottom k) else p.sector k

theorem Part.retireFrom_sector (p : Part) (n : Nat) (k i : SectorId) :
    (p.retireFrom n k).sector i = if i = k then p.retired n k else p.sector i := by
  unfold Part.retireFrom Part.retired
  by_cases h : i = k
  · subst h
    split <;> simp
  · rw [if_neg h]
    split
    · exact p.sector_setSector_ne _ h
    · rfl

theorem Part.reportBottom_sector (pre p : Part) (k i : SectorId) :
    (pre.reportBottom p k).sector i = if i = k then p.retired (pre.sectorBottom k) k else p.sector i := by
  rw [← p.retireFrom_sector]
  unfold Part.reportBottom
  dsimp only
  split
  · unfold Part.sector
    rw [(Part.admPass_quiet _).keeps.sectors]
  · rfl

theorem reportBottoms_sector (pre p : Part) (l : List SectorId) (nd : l.Nodup) (k : SectorId) :
    (l.foldl pre.reportBottom p).sector k
      = if k ∈ l then p.retired (pre.sectorBottom k) k else p.sector k := by
  induction l generalizing p with
  | nil => simp
  | cons i l ih =>
    rw [List.foldl_cons, ih _ (List.nodup_cons.mp nd).2]
    have hj := pre.reportBottom_jacks p i
    have hc := (p.reportBottom_course pre i).keeps.cfg
    have hs := pre.reportBottom_sector p i k
    by_cases h : k = i
    · subst h
      simp [(List.nodup_cons.mp nd).1, hs]
    · simp only [h, if_false] at hs
      simp only [List.mem_cons, h, false_or, Part.retired, Part.sectorBottom_congr hj hc hs, hs]

theorem foldl_reportBottom_jacks (pre p : Part) (l : List SectorId) :
    (l.foldl pre.reportBottom p).jacks = p.jacks := by
  induction l generalizing p with
  | nil => rfl
  | cons k l ih => rw [List.foldl_cons, ih, Part.reportBottom_jacks]

/-! ### The whole report (R6) -/

/-- The part with the catch-up test made, if the change asks for one (R13). -/
def Part.caughtUp (pre p : Part) : Part := if pre.stirred p then p.catchUp else p

theorem Part.jackReport_tail (pre p : Part) :
    Loud (sectorIds.foldl pre.reportBottom (pre.caughtUp p)) (pre.jackReport p) := by
  unfold Part.jackReport Part.caughtUp
  exact ((Loud.quiet (Quiet.foldl (fun p j => p.tellAdm_quiet pre j) _ _)).trans
    (.quiet (Quiet.foldl (fun p j => p.tellMode_quiet pre j) _ _))).trans (Part.tellMon_loud _ _)

/-- The jack table after a report is that of the catch-up test (R6, R13). -/
theorem Part.jackReport_jacks (pre p : Part) : (pre.jackReport p).jacks = (pre.caughtUp p).jacks := by
  rw [(pre.jackReport_tail p).keeps.jacks, foldl_reportBottom_jacks]

/-- Each sector after a report: retired when its bottom has risen, and otherwise untouched (R31, R32). -/
theorem Part.jackReport_sector (pre p : Part) (k : SectorId) :
    (pre.jackReport p).sector k = (pre.caughtUp p).retired (pre.sectorBottom k) k := by
  unfold Part.sector
  rw [(pre.jackReport_tail p).keeps.sectors]
  have := reportBottoms_sector pre (pre.caughtUp p) sectorIds (List.nodup_finRange 24) k
  rw [if_pos (mem_sectorIds k)] at this
  exact this

/-- A judged part keeps its jacks and layers. -/
theorem Part.place_jacks (p : Part) (k : SectorId) (n : Nat) (m : MixId) (f : FeedId) :
    (p.place k n m f).jacks = p.jacks := by
  have h : (p.placeRecord k n m f).1.jacks = p.jacks := by
    unfold Part.placeRecord Part.raiseIf
    split
    · rfl
    · split
      · dsimp only
        split <;> split <;> rfl
      · rfl
  unfold Part.place
  dsimp only
  split
  · rw [(Part.judgeReported_loud _ _).keeps.jacks, (Part.admPass_quiet _).keeps.jacks, h]
  · exact h

end Sys2Proof.Machine
end

