-- ==== Sys2Proof/Laws/Rules.lean ====
section
/-! SUPPORT. What the shared operations of admission, creep and closing do, once each: they are what Safety.lean writes
from the rules. Proofs cite these in place of unfolding the operations. -/

namespace Sys2Proof.Machine

section
variable (p : Part)

/-! ### Checks -/

theorem Part.transientCheck_eq (j : JackId) (n : Nat) : p.transientCheck j n = p.heldBy j n := by
  have s : p.spreadFails j n = p.lowestActive.any fun low => low + p.bank.spreadAdmit < (p.jack j).position + n := by
    unfold Part.spreadFails
    cases p.lowestActive <;> rfl
  have f : p.fillFails j n = true
      ↔ (p.sector (p.sectorOf j)).top < ((p.jack j).position + n) * p.bank.strokePitch + p.bank.minFill :=
    decide_eq_true_iff
  unfold Part.transientCheck Part.heldBy
  simp only [s, f, Part.proposed, Part.groupOf, Part.openCount, Config.maxOpen]
  rfl

theorem JackState.climbs_false {x : JackState} : x.climbs = false ↔ x ≠ .active ∧ x ≠ .catchup := by
  cases x <;> simp [JackState.climbs]

theorem Part.jackCheck_eq (j : JackId) (n : Nat) : p.jackCheck j n =
    if (p.jack j).state ≠ .active ∧ (p.jack j).state ≠ .catchup then some .jackState
    else if p.sectorStopped (p.sectorOf j) then some .sectorStopped
    else if (p.openOf (.jack j)).isSome ∨ (p.entryOf j).isSome then some .busy
    else if (p.jack j).rod < n then some .rod
    else none := by
  unfold Part.jackCheck
  simp only [Bool.not_eq_true', JackState.climbs_false, Bool.or_eq_true]

theorem Part.deviceCheck_eq (j : JackId) : p.deviceCheck j = p.deviceHeldBy j := by
  unfold Part.deviceCheck Part.deviceHeldBy
  rw [p.jackCheck_eq, p.transientCheck_eq]
  split_ifs <;> rfl

/-! ### Admission -/

/-- A LIFT admitted for a jack with none open (R50, R51, R67 to R69). -/
theorem Part.admitLift_eq {j : JackId} (n : Nat) (origin : Origin) (h : p.openOf (.jack j) = none) :
    p.admitLift j n origin = p.withLift j n origin := by
  have away : ∀ d ∈ p.xt.table, d.subject ≠ .jack j := by
    intro d hd e
    have := List.find?_eq_none.1 h d hd
    simp [e] at this
  have keep : ∀ c : Command, p.xt.table.map (fun d => if d.subject = .jack j then c else d) = p.xt.table := by
    intro c
    conv_rhs => rw [← List.map_id p.xt.table]
    exact List.map_congr_left fun d hd => if_neg (away d hd)
  simp [Part.admitLift, Part.openCommand, Part.sendSub, Part.sendFrame, Part.setCommand, Part.setTable, Part.setCounter,
    Part.setAbandoned, Part.setNodeTags, Part.nodeTags, Part.nextTag, Part.nextSize, Part.withLift, Part.setOccupancy,
    Part.ringOut, Part.groupOf, Part.addrOf, Part.jackEntry, Part.bank, Part.jack, Command.subject, Task.subject, addrOctet]
  exact keep _

/-! ### Creep -/

/-- A device LIFT that passes its checks finds no LIFT of the jack's, open or deferred. -/
theorem Part.deviceHeldBy_none {j : JackId} (h : p.deviceHeldBy j = none) : p.openOf (.jack j) = none := by
  unfold Part.deviceHeldBy at h
  split_ifs at h
  simp_all

theorem Part.offer_eq (j : JackId) : p.offer j = p.offered j := by
  unfold Part.offer Part.offered
  rw [p.deviceCheck_eq]
  rcases e : p.deviceHeldBy j with _ | r
  · simp only [p.admitLift_eq 1 .device (p.deviceHeldBy_none e)]
    rfl
  · cases r <;> rfl

theorem Part.leaseSince_eq (t : Part) : p.leaseSince t = p.leaseGranted t := by
  have g (q : Part) : q.grantTest = true ↔ q.mode.roundInProgress = false ∧ q.mode.roundCommands = 0 := by
    simp only [Part.grantTest, Bool.and_eq_true, Bool.not_eq_true', beq_iff_eq]
  have n : ¬(p.mode.roundInProgress = false ∧ p.mode.roundCommands = 0)
      ↔ (p.mode.roundInProgress = true ∨ p.mode.roundCommands ≠ 0) := by
    cases p.mode.roundInProgress <;> simp
  unfold Part.leaseSince Part.leaseTest Part.leaseGranted
  simp only [g, ← n]
  cases t.mode.lease with
  | pending asking => split_ifs <;> first | rfl | (exfalso; tauto)
  | none => split_ifs <;> rfl
  | held asking granted => split_ifs <;> rfl

theorem Part.endRoundTest_eq : p.endRoundTest = p.roundTested := by
  unfold Part.endRoundTest Part.roundTested
  simp only [Bool.and_eq_true, List.isEmpty_iff, beq_iff_eq, and_assoc]
  rfl

theorem Part.creepPass_eq : p.creepPass = p.roundPassed := by
  have o : Part.offer = Part.offered := funext fun p => funext p.offer_eq
  have d (q : Part) : q.dropStuck
      = if q.xt.table = [] ∧ q.commitPending = false then { q with mode := { q.mode with roundList := [] } } else q := by
    unfold Part.dropStuck
    by_cases e : q.mode.roundList = []
    · have : ({ q with mode := { q.mode with roundList := [] } } : Part) = q := by rw [← e]
      simp [e, this]
    · simp [e, Part.setMode]
  unfold Part.creepPass Part.roundPassed
  rw [o, d, Part.endRoundTest_eq]

theorem Part.creepPassIfWaiting_eq : p.creepPassIfWaiting = p.roundRetried := by
  unfold Part.creepPassIfWaiting Part.roundRetried
  simp only [List.isEmpty_iff, p.creepPass_eq]

theorem Part.startRound_eq : p.startRound = p.roundStarted := by
  have c (x : JackState) : x.climbs = (x == .active || x == .catchup) := by cases x <;> rfl
  unfold Part.startRound Part.roundStarted
  rw [Part.creepPass_eq]
  simp only [c]
  rfl

theorem Part.owedRound_eq : p.owedRound =
    if p.mode.mode.isHold = true ∧ p.mode.roundOwed = true then
      ({ p with mode := { p.mode with roundOwed := false } } : Part).roundStarted
    else p := by
  unfold Part.owedRound
  simp only [Bool.and_eq_true, Part.startRound_eq]
  rfl

theorem Part.toldOfClose_eq (origin : Origin) : p.toldOfClose origin = p.closeTold origin := by
  cases origin
  all_goals simp only [Part.toldOfClose, Part.closeTold, Part.creepPassIfWaiting_eq, Part.endRoundTest_eq]
  rfl

/-! ### The deferred queue -/

/-- No jack has two LIFTs, open or deferred. -/
def Part.Single (p : Part) : Prop := (p.adm.queue.map (·.jack) ++ p.lifted).Nodup

variable {p}

theorem Part.Single.closed (h : p.Single) {e : Entry} (m : e ∈ p.adm.queue) : p.openOf (.jack e.jack) = none := by
  rw [Part.openOf, List.find?_eq_none]
  intro c hc hs
  have hs : c.subject = .jack e.jack := by simpa using hs
  refine (List.nodup_append.1 h).2.2 _ (List.mem_map_of_mem m) _ (List.mem_filterMap.2 ⟨c, hc, ?_⟩) rfl
  obtain ⟨t, _⟩ := c
  cases t with
  | lift j => simpa [Command.subject, Task.subject, Command.liftJack] using hs
  | pour f k => simp [Command.subject, Task.subject] at hs

theorem find_jack {l : List Entry} (n : (l.map (·.jack)).Nodup) {e : Entry} (m : e ∈ l) :
    l.find? (·.jack == e.jack) = some e := by
  induction l with
  | nil => cases m
  | cons d l ih =>
    rw [List.map_cons, List.nodup_cons] at n
    rcases List.mem_cons.1 m with rfl | m
    · simp
    · have : d.jack ≠ e.jack := fun h => n.1 (h ▸ List.mem_map_of_mem m)
      simp [this, ih n.2 m]

theorem Part.Single.entry (h : p.Single) {e : Entry} (m : e ∈ p.adm.queue) : p.entryOf e.jack = some e :=
  find_jack (List.nodup_append.1 h).1 m

/-- An entry examined (R55). -/
theorem Part.examine_eq (h : p.Single) {e : Entry} (m : e ∈ p.adm.queue) (guarded : Bool) :
    p.examine guarded e.jack = p.reexamined guarded e := by
  have c : (p.dropEntry e.jack).openOf (.jack e.jack) = none := h.closed m
  unfold Part.examine Part.reexamined
  rw [h.entry m]
  simp only [Part.examineEntry, Part.refuseEntry, Part.overdue, Part.rehold, Part.transientCheck_eq,
    Part.admitLift_eq _ _ _ c, Bool.and_eq_true, decide_eq_true_eq, Bool.not_eq_true', eq_comm (a := e.reason)]
  rfl

theorem Part.lifted_withLift (p : Part) (j : JackId) (n : Nat) (o : Origin) :
    (p.withLift j n o).lifted = p.lifted ++ [j] := by
  simp [Part.withLift, Part.lifted, Command.liftJack]

/-- What is left of the law and of the other entries when one has been examined. -/
theorem Part.reexamined_single (h : p.Single) {e : Entry} (m : e ∈ p.adm.queue) (guarded : Bool) :
    (p.reexamined guarded e).Single
      ∧ ∀ d ∈ p.adm.queue, d.jack ≠ e.jack → d ∈ (p.reexamined guarded e).adm.queue := by
  have n := List.nodup_append.1 h
  have sub : ((p.adm.queue.filter (·.jack ≠ e.jack)).map (·.jack)).Sublist (p.adm.queue.map (·.jack)) :=
    List.filter_sublist.map _
  have gone : ((p.adm.queue.filter (·.jack ≠ e.jack)).map (·.jack) ++ p.lifted).Nodup :=
    h.sublist (sub.append_right _)
  have kept : ∀ d ∈ p.adm.queue, d.jack ≠ e.jack → d ∈ p.adm.queue.filter (·.jack ≠ e.jack) :=
    fun d hd hj => List.mem_filter.2 ⟨hd, by simpa using hj⟩
  unfold Part.reexamined
  dsimp only
  split
  · exact ⟨h, fun d hd _ => hd⟩
  split
  · exact ⟨by simpa [Part.Single, Part.lifted] using gone, by simpa using kept⟩
  split
  · exact ⟨by simpa [Part.Single, Part.lifted] using gone, by simpa using kept⟩
  split
  · refine ⟨?_, kept⟩
    rw [Part.Single, Part.lifted_withLift, ← List.append_assoc, List.nodup_append]
    refine ⟨gone, List.nodup_singleton _, fun a ha b hb => ?_⟩
    rw [List.mem_singleton.1 hb]
    rintro rfl
    rcases List.mem_append.1 ha with ha | ha
    · obtain ⟨d, hd, hj⟩ := List.mem_map.1 ha
      exact absurd hj (by simpa using (List.mem_filter.1 (show d ∈ p.adm.queue.filter (·.jack ≠ e.jack) from hd)).2)
    · exact n.2.2 _ (List.mem_map_of_mem m) _ ha rfl
  · split
    · exact ⟨h, fun d hd _ => hd⟩
    · next r _ _ =>
      have same : (p.adm.queue.map fun d => if d.jack = e.jack then { d with reason := r } else d).map (·.jack)
          = p.adm.queue.map (·.jack) := by
        rw [List.map_map]
        refine List.map_congr_left fun d _ => ?_
        simp only [Function.comp]
        split <;> rfl
      refine ⟨by simpa only [Part.Single, Part.held_adm, same, Part.lifted, Part.held_xt] using h, fun d hd hj => ?_⟩
      rw [Part.held_adm]
      exact List.mem_map.2 ⟨d, hd, if_neg hj⟩

/-- A re-examination pass (R54, R55). -/
theorem Part.passWith_eq (h : p.Single) (guarded : Bool) : p.passWith guarded = p.repassed guarded := by
  suffices g : ∀ (l : List Entry) (q : Part), q.Single → (l.map (·.jack)).Nodup → (∀ e ∈ l, e ∈ q.adm.queue) →
      (l.map Entry.jack).foldl (Part.examine guarded) q = l.foldl (Part.reexamined guarded) q from
    g _ p h (List.nodup_append.1 h).1 fun _ m => m
  intro l
  induction l with
  | nil => exact fun _ _ _ _ => rfl
  | cons e l ih =>
    intro q hq n m
    rw [List.map_cons, List.nodup_cons] at n
    have here := m e List.mem_cons_self
    have s := Part.reexamined_single hq here guarded
    rw [List.map_cons, List.foldl_cons, List.foldl_cons, Part.examine_eq hq here]
    exact ih _ s.1 n.2 fun d hd =>
      s.2 d (m d (List.mem_cons_of_mem _ hd)) fun e => n.1 (e ▸ List.mem_map_of_mem hd)

theorem Part.admPass_eq (h : p.Single) : p.admPass = p.retried := Part.passWith_eq h _

theorem Part.Single.of_open (h : p.OpenLaw) : p.Single := h.2

/-! ### Closes -/

theorem Part.endedTold_eq (c : Command) (why : Reason) : p.answerEnded c why = p.endedTold c why := by
  unfold Part.answerEnded Part.endedTold
  cases c.origin <;> rfl

theorem Part.Single.of_eq {q : Part} (h : p.Single) (a : q.adm.queue = p.adm.queue) (x : q.xt.table = p.xt.table) :
    q.Single := by
  rw [Part.Single, Part.lifted, a, x]
  exact h

theorem Part.Single.without (h : p.Single) (c : Command) : (p.without c).Single :=
  h.sublist ((List.filter_sublist.filterMap _).append_left _)

/-- A close, whatever answers it and faults its subject (R72). -/
theorem Part.closeWith_eq (c : Command) (answer fault : Part → Part) (h : (fault (answer (p.without c))).Single) :
    p.closeWith c answer fault = (fault (answer (p.without c))).closeDone c := by
  change (match c.task with
    | .lift j => (fault (answer (p.without c))).release ((fault (answer (p.without c))).groupOf j)
    | .pour _ _ => fault (answer (p.without c))).admPass.toldOfClose c.origin = _
  unfold Part.closeDone
  generalize fault (answer (p.without c)) = q at h ⊢
  cases c.task with
  | lift j =>
    rw [Part.toldOfClose_eq, Part.admPass_eq (h.of_eq (q := q.release (q.groupOf j)) rfl rfl)]
    rfl
  | pour f k => rw [Part.toldOfClose_eq, Part.admPass_eq h]

/-- The return of a feed node, in a part t that has p's feed nodes (R90, R91). -/
theorem Part.feedReturn_eq {t : Part} (h : t.feeds = p.feeds) (f : FeedId) : t.feedReturn f =
    if (p.feed f).state = .pouring then
      ({ t with feeds := p.feeds.set f ⟨.ready, (p.feed f).lastSector⟩ } : Part).cease (.feed f)
    else t := by
  simp only [Part.feedReturn, Part.setFeed, Part.feed, h]
  rfl

/-- ENDED changes neither the deferred queue nor the open commands nor the feed nodes. -/
theorem Part.endedTold_keeps (c : Command) (why : Reason) :
    (p.endedTold c why).adm = p.adm ∧ (p.endedTold c why).xt = p.xt ∧ (p.endedTold c why).feeds = p.feeds := by
  unfold Part.endedTold
  cases c.origin <;> simp

/-- A close as ended, in a part whose jacks have one LIFT each (R71, R72, R91). -/
theorem Part.closeEnded_eq (h : p.Single) (c : Command) (why : Reason) : p.closeEnded c why = p.closedEnded c why := by
  obtain ⟨adm, xt, feeds⟩ := (p.without c).endedTold_keeps c why
  have single := (h.without c).of_eq (congrArg (·.queue) adm) (congrArg (·.table) xt)
  have back : ((p.without c).answerEnded c why).subjectReturn c = match c.task with
      | .lift _ => (p.without c).endedTold c why
      | .pour f _ =>
        if (p.feed f).state = .pouring then
          ({ (p.without c).endedTold c why with
            feeds := p.feeds.set f ⟨.ready, (p.feed f).lastSector⟩ } : Part).cease (.feed f)
        else (p.without c).endedTold c why := by
    rw [Part.endedTold_eq]
    unfold Part.subjectReturn
    cases c.task with
    | lift j => rfl
    | pour f k => exact Part.feedReturn_eq feeds f
  have closed : (((p.without c).answerEnded c why).subjectReturn c).Single := by
    rw [back]
    cases c.task with
    | lift j => exact single
    | pour f k =>
      dsimp only
      split
      · exact single.of_eq rfl rfl
      · exact single
  exact (Part.closeWith_eq c _ _ closed).trans (congrArg (·.closeDone c) back)

/-- A pass leaves no jack with two LIFTs. -/
theorem Part.Single.repassed (h : p.Single) (guarded : Bool) : (p.repassed guarded).Single := by
  suffices g : ∀ (l : List Entry) (q : Part), q.Single → (l.map (·.jack)).Nodup → (∀ e ∈ l, e ∈ q.adm.queue) →
      (l.foldl (Part.reexamined guarded) q).Single from
    g _ p h (List.nodup_append.1 h).1 fun _ m => m
  intro l
  induction l with
  | nil => exact fun q hq _ _ => hq
  | cons e l ih =>
    intro q hq n m
    rw [List.map_cons, List.nodup_cons] at n
    have s := Part.reexamined_single hq (m e List.mem_cons_self) guarded
    exact ih _ s.1 n.2 fun d hd =>
      s.2 d (m d (List.mem_cons_of_mem _ hd)) fun e => n.1 (e ▸ List.mem_map_of_mem hd)

/-- Nor does a jack offered its stroke. -/
theorem Part.Single.offered (h : p.Single) (j : JackId) : (p.offered j).Single := by
  unfold Part.offered
  rcases e : p.deviceHeldBy j with _ | r
  · have free : j ∉ p.adm.queue.map (·.jack) ++ p.lifted := by
      unfold Part.deviceHeldBy at e
      split_ifs at e with _ _ b _
      simp only [not_or, Option.not_isSome_iff_eq_none, Part.openOf, Part.entryOf, List.find?_eq_none] at b
      simp only [List.mem_append, List.mem_map, not_or, not_exists, not_and, Part.lifted, List.mem_filterMap]
      refine ⟨fun d hd ej => b.2 d hd (by simp [ej]), fun c hc ej => b.1 c hc ?_⟩
      obtain ⟨t, _⟩ := c
      cases t <;> simp_all [Command.liftJack, Command.subject, Task.subject]
    change (_ ++ (p.withLift j 1 .device).lifted).Nodup
    rw [Part.lifted_withLift, ← List.append_assoc, List.nodup_append]
    exact ⟨h, List.nodup_singleton _, fun a ha b hb => by
      rw [List.mem_singleton.1 hb]
      exact fun e => free (e ▸ ha)⟩
  · dsimp only
    split
    · next hr => cases hr
    all_goals exact h.of_eq rfl rfl

theorem Part.Single.roundTested (h : p.Single) : p.roundTested.Single := by
  unfold Part.roundTested
  split
  · exact h.of_eq (q := { p with mode := { p.mode with roundInProgress := false } }) rfl rfl
  · exact h

theorem Part.Single.roundPassed (h : p.Single) : p.roundPassed.Single := by
  have go : ∀ (l : List JackId) (q : Part), q.Single → (l.foldl Part.offered q).Single := fun l => by
    induction l with
    | nil => exact fun _ h => h
    | cons j l ih => exact fun _ h => ih _ (h.offered j)
  unfold Part.roundPassed
  dsimp only
  split
  · refine Part.Single.roundTested ?_
    exact (go _ _ h).of_eq rfl rfl
  · exact (go _ _ h).roundTested

theorem Part.Single.roundRetried (h : p.Single) : p.roundRetried.Single := by
  unfold Part.roundRetried
  split
  · exact h
  · exact h.roundPassed

theorem Part.Single.closeTold (h : p.Single) (o : Origin) : (p.closeTold o).Single := by
  cases o with
  | deck g => exact h.roundRetried
  | device =>
    exact (Part.Single.roundRetried (h.of_eq
      (q := { p with mode := { p.mode with roundCommands := p.mode.roundCommands - 1 } })
      rfl rfl)).roundTested

/-- What a close leaves has no jack with two LIFTs, so that the next close can be read from its rules as well. -/
theorem Part.Single.closeDone (h : p.Single) (c : Command) : (p.closeDone c).Single := by
  unfold Part.closeDone
  refine Part.Single.closeTold ?_ _
  cases c.task with
  | lift j =>
    refine Part.Single.repassed ?_ _
    exact h.of_eq rfl rfl
  | pour f k => exact Part.Single.repassed h _

theorem Part.Single.closedEnded (h : p.Single) (c : Command) (why : Reason) : (p.closedEnded c why).Single := by
  obtain ⟨adm, xt, _⟩ := (p.without c).endedTold_keeps c why
  have single := (h.without c).of_eq (congrArg (·.queue) adm) (congrArg (·.table) xt)
  unfold Part.closedEnded
  refine Part.Single.closeDone ?_ c
  cases c.task with
  | lift j => exact single
  | pour f k =>
    dsimp only
    split
    · exact single.of_eq rfl rfl
    · exact single

/-- The close of R79. -/
theorem Part.closeStopped_eq (h : p.Single) (x : Subject) : p.closeStopped x = p.resendClosed x := by
  unfold Part.closeStopped Part.resendClosed
  cases p.openOf x with
  | none => rfl
  | some c =>
    obtain ⟨_, _, _, _, _, _, phase, _, _, _, ending⟩ := c
    cases phase with
    | sent => rfl
    | resend =>
      cases ending with
      | none => rfl
      | some e => exact Part.closeEnded_eq h _ e.reason

/-! ### The end of an event -/

/-- A commit cancelled at quiescence (R162). -/
theorem Part.quiesce_cancels (h : p.Single) {tag : Tag} {accepted : Clock} (c : p.cfg.commit = .pending tag accepted)
    (t : p.xt.table = []) {table index : Nat} (f : p.liveFailing = some (table, index)) :
    p.quiesce = p.leaseGranted (({ p with
        cfg := { p.cfg with commit := .idle }
        mon := { p.mon with events := p.mon.events ||| 8192 } } : Part).emit .reply 0 tag
          [8, 4, octet table, octet index]).retried.roundRetried := by
  unfold Part.quiesce
  simp only [c, t, List.isEmpty_nil, if_true, Part.applyPending, f, Part.cancelCommit, Part.leaseSince_eq]
  rw [Part.creepPassIfWaiting_eq, Part.admPass_eq]
  · rfl
  · exact h.of_eq (by simp [Part.setCommit]) (by simp [Part.setCommit])

end

end Sys2Proof.Machine
end

