-- ==== Sys2Proof/Tests/Slice0.lean ====
section
/-! SUPPORT. Tests: a check of WellFormed, octets and sums of the manual's own examples, a few commands worked on a
small deck, and for every statement of the certificates states and operands that meet its hypotheses. -/

namespace Sys2Proof.Tests

open Sys2Proof Sys2Proof.Machine

set_option Elab.async false

/-! ### A small deck -/

/-- Jack 0 at node 1 in sector 0, jack 1 at node 2 in sector 1, feed node 0 at node 97, all conditions on WARN. -/
def bank : Bank := { defaultBank with
  profile := ((defaultBank.profile.set 29 1).set 30 1).set 31 1
  jacks := (defaultBank.jacks.set 0 ⟨true, 1, 0, 0⟩).set 1 ⟨true, 2, 1, 0⟩
  sectors := (defaultBank.sectors.set 0 ⟨1000, 200⟩).set 1 ⟨1000, 200⟩
  groups := defaultBank.groups.set 0 2
  feeds := defaultBank.feeds.set 0 ⟨true, 97, (Vector.replicate 24 false).set 0 true⟩ }

/-- The small deck in SETUP: both jacks ACTIVE, 600 mm of concrete two hours old in sector 0. -/
def deck : Part := { State.reset.part with
  cfg := ⟨bank, bank, .idle, bank.tableSum⟩
  jacks := (State.reset.part.jacks.set 0 ⟨.active, 10, 50, 2, 0, false⟩).set 1 ⟨.active, 10, 50, 4, 0, false⟩
  sectors := State.reset.part.sectors.set 0 ⟨0, [⟨0, 600, 0, 79200, 79200, .entered⟩]⟩ }

def asMode (m : ClimbMode) (p : Part) : Part := { p with mode := { p.mode with mode := m } }

/-- The small deck in SLIP, under supervision of kind TOKEN. -/
def slip : Part := { asMode .slip deck with sup := ⟨true, 0, 86400, 86400, 0, false⟩ }

def hold : Part := { asMode (.hold .request) deck with
  mode := { deck.mode with mode := .hold .request, creepTimer := some 300, heartbeatSinceHold := true }
  sup := ⟨true, 0, 86400, 86400, 0, false⟩ }

def stopped (left : StoppedFrom) : Part := { asMode (.stopped left) deck with
  stopOut := true
  mon := { deck.mon with alert := true } }

/-- A deck LIFT of jack 0 in flight. -/
def lifting : Command := ⟨.lift 0, .deck 5, 3, 0, 1, 2, .sent, 86400, 0, none, none⟩

/-- A deck POUR of feed node 0 in flight. -/
def pouring : Command := ⟨.pour 0 0, .deck 6, 20, 0, 1, 20, .sent, 86400, 0, none, none⟩

def withOpen (c : Command) (p : Part) : Part := { p with
  xt := { p.xt with table := [c] }
  adm := ⟨[], p.adm.occupancy.set 0 1⟩
  feeds := p.feeds.set 0 ⟨if c.kind = .pour then .pouring else .ready, some 0⟩ }

/-- A LIFT of jack 1 held for its pump group. -/
def entry : Entry := ⟨1, 2, 1, 7, 86400, .group⟩

def owing (x : Share) (p : Part) : Part := { p with owed := [x] }

def on (p : Part) : State := ⟨p, []⟩

/-! ### What a witness has to show -/

theorem ready (p : Part) (h : (p.owed, p.resetWait, p.cfg.commit, p.resetLine) = ([], none, .idle, false)) :
    p.Ready := by
  simp only [Prod.mk.injEq] at h
  exact ⟨⟨fun x m => by simp [h.1] at m, h.2.1, fun c => by simp [Part.commitPending, h.2.2.1, CommitState.isPending] at c⟩, h.2.2.2⟩

theorem idle (p : Part) (h : p.cfg.commit = .idle) : p.CommitLaw := fun c => by
  simp [Part.commitPending, h, CommitState.isPending] at c

/-- The law of the layer table as a check. -/
def isStacked : Nat → List Layer → Bool
  | _, [] => true
  | base, l :: rest => l.base == base && 1 ≤ l.depth && l.depth ≤ Config.maxDepth && isStacked l.top rest

theorem stacked_of (l : List Layer) (n : Nat) (h : isStacked n l = true) : stacked n l := by
  induction l generalizing n with
  | nil => trivial
  | cons a l ih =>
    simp only [isStacked, Bool.and_eq_true, beq_iff_eq, decide_eq_true_eq] at h
    exact ⟨h.1.1.1, h.1.1.2, h.1.2, ih _ h.2⟩

theorem layers (p : Part) (h : (∀ k : SectorId, (p.sector k).layers.length ≤ Config.maxLayers
    ∧ isStacked (p.sector k).floor (p.sector k).layers = true)) : p.LayerLaw :=
  fun k => ⟨(h k).1, stacked_of _ _ (h k).2⟩

theorem soft (p : Part) (h : p.cfg.active = bank) (r : p.stoppedSectors ≤ p.bank.sectorStopLimit) : p.Soft := by
  refine ⟨fun q => ?_, r⟩
  have e : p.bank = bank := h
  cases q <;> first
    | exact .inl rfl
    | exact .inr (.inl rfl)
    | exact .inr (.inr (.inl rfl))
    | (rw [e]; exact .inr (.inr (.inr (.inr rfl))))

theorem calm (p : Part) (h : p.cfg.active = bank) (r : p.adm.queue = [] ∧ p.mode.roundInProgress = false
    ∧ p.mode.roundList = [] ∧ p.stoppedSectors ≤ p.bank.sectorStopLimit) : p.Calm :=
  ⟨r.1, r.2.1, r.2.2.1, soft p h r.2.2.2⟩

/-! ### WellFormed -/

/-- Each check of WellFormed refuses an ill-formed term. -/
theorem test_wellFormed_refuses :
    (Instr.lift 1 0 (List.replicate 13 0)).wellFormed = false
      ∧ (Instr.deckFrameWrongKind 1 .ask 0).wellFormed = false
      ∧ (Instr.deckFrameWrongKind 0 .mgmt 0).wellFormed = false
      ∧ (Instr.unknownKindDropped .deck 15).wellFormed = false
      ∧ (Instr.mgmtBadRequest 0 [9, 3]).wellFormed = false
      ∧ (Instr.mgmtBadRequest 0 (List.replicate 13 99)).wellFormed = false
      ∧ (Instr.lifted 0 0 1 0 0).wellFormed = false ∧ (Instr.poured 127 0 0 0 0).wellFormed = false
      ∧ (Instr.wait 128 0).wellFormed = false ∧ (Instr.nodeState 0 0 0 0 0 0).wellFormed = false
      ∧ (Instr.trouble 255 0 0).wellFormed = false
      ∧ (Instr.unclaimedLiftPour .ask 1 0).wellFormed = false
      ∧ (Instr.unclaimedAskStill .lift 1 0).wellFormed = false
      ∧ (Instr.ringFrameDropped 1 0 .wait 0).wellFormed = false
      ∧ (Instr.ringFrameDropped 1 0 .wait 13).wellFormed = false
      ∧ (Instr.subTransactionTimeout 0).wellFormed = false ∧ (Instr.resendDue 127).wellFormed = false
      ∧ (Instr.deglitchExpiry .deck).wellFormed = false := by decide

theorem test_wellFormed_accepts :
    (Instr.lift 1 0 (List.replicate 12 0)).wellFormed = true ∧ (Instr.mgmtBadRequest 0 [9, 4]).wellFormed = true
      ∧ (Instr.mgmtBadRequest 0 []).wellFormed = true ∧ (Instr.lifted 126 0 1 0 0).wellFormed = true
      ∧ (Instr.ringFrameDropped 0 1 .mgmt 12).wellFormed = true
      ∧ (Instr.deglitchExpiry (.bond 23)).wellFormed = true := by decide

/-! ### The manual's own values -/

/-- The check of the nine octets of the digits 1 to 9 is 29B1 (R165). -/
theorem test_crc : crc [49, 50, 51, 52, 53, 54, 55, 56, 57] = 0x29B1 := by decide +kernel

/-- The table sum of the default bank is 21 533 (R155). -/
theorem test_default_sum : defaultBank.tableSum = 21533 := by decide +kernel

theorem test_decode_lift :
    deckLinkCommand (Frame.octets ⟨17, 0, .lift, 6, 0, [3]⟩) = .lift 17 6 [3] := by decide +kernel

theorem test_decode_commit :
    deckLinkCommand (Frame.octets ⟨0, 0, .mgmt, 4, 0, [8, 0x54, 0x1D]⟩) = .commit 4 21533 := by decide +kernel

theorem test_decode_lifted :
    ringInCommand (Frame.octets ⟨0, 17, .lifted, 6, 0, [2, 0, 98, 0, 210]⟩) = .lifted 17 6 2 98 210 := by
  decide +kernel

theorem test_decode_returning :
    ringInCommand (Frame.octets ⟨17, 0, .lift, 6, 0, [3]⟩) = .unclaimedLiftPour .lift 17 6 := by decide +kernel

theorem test_decode_bad_check : deckLinkCommand [17, 0, 1, 6, 1, 3, 0, 0] = .frameBadCheck .deck := by decide +kernel

/-- A depth is rounded up: 1 litre over 20 000 × 600 mm is 1 mm, 5 litres over 1000 × 200 mm are 25 (R27). -/
theorem test_depth : depthOf ⟨20000, 600⟩ 1 = 1 ∧ depthOf ⟨1000, 200⟩ 5 = 25 ∧ depthOf ⟨1000, 201⟩ 5 = 25 := by decide

/-- The two jacks of the example under R13 pass one test together. -/
theorem test_catch_up :
    let p : Part := { slip with jacks := (((slip.jacks.set 0 ⟨.active, 97, 9, 1, 0, false⟩).set 1
      ⟨.catchup, 100, 9, 1, 0, false⟩).set 2 ⟨.catchup, 95, 9, 1, 0, false⟩) }
    (p.catchUp.jack 1).state = .active ∧ (p.catchUp.jack 2).state = .active ∧ p.catchUp.highestActive = some 100
      ∧ p.catchUp.lowestActive = some 95 ∧ p.catchUp.spread = 5 := by decide +kernel

/-- A jack one stroke below the limit of that example stays in CATCHUP. -/
theorem test_catch_up_fails :
    let p : Part := { slip with jacks := ((slip.jacks.set 0 ⟨.active, 97, 9, 1, 0, false⟩).set 1
      ⟨.catchup, 94, 9, 1, 0, false⟩) }
    (p.catchUp.jack 1).state = .catchup := by decide +kernel

/-- The allowed set {8, 9, 10} adds 30 to the table sum, enabled and address aside (R155, log 34). -/
theorem test_feed_sum :
    FeedEntry.sum ⟨false, 1, ((((Vector.replicate 24 false).set 8 true).set 9 true).set 10 true)⟩ = 1 + 30 := by
  decide +kernel

/-- LAYER-READ of an absent layer carries ten octets (R167). -/
theorem test_absent_layer : deck.layerData 0 15 = 129 :: List.replicate 9 255 := by decide +kernel

/-! ### Orders that the part keeps -/

/-- A window due at this second does not expire if the HEARTBEAT of that second comes first (R141, log 3). -/
theorem test_heartbeat_before_window :
    let late : Part := { slip with
      sup := ⟨true, 0, 86390, 86390, 0, false⟩
      owed := [.window]
      order := { resetOrder with late := [.window] } }
    let first (p : Part) : Nat := (Part.shareWindow (Part.judgeToken 1 0 p.settle)).sup.violations
    first late = 0 ∧ ({ late with order := resetOrder } : Part).settle.sup.violations = 1 := by decide +kernel

/-- A STARVE pair due at the second in which BOND stops the ring: under an order in which MON's deglitch counts come
before LT's bond tests it asserts, else it only ceases (R185, log 3). -/
theorem test_deglitch_before_bond :
    let b : Bank := { bank with profile := ((bank.profile.set 24 0).set 27 3).set 28 1 }
    let run (early : List Share) : Part := (Part.takeEarly (Part.setPair (.starve 0) ⟨.pending 86300, false, false⟩ { slip with
      cfg := { slip.cfg with active := b }
      sectors := slip.sectors.set 0 ⟨0, [⟨0, 500, 0, 86400 - 14401, 86400 - 14401, .entered⟩]⟩
      owed := [.deglitch]
      order := { resetOrder with early := early } })).event [bondJudging 0]
    (run []).mon.log.map (·.pair) = [.bond 0] ∧ ((run []).pair (.starve 0)).state = .notPresent
      ∧ (run [.deglitch]).mon.log.map (·.pair) = [.starve 0, .bond 0] := by
  decide +kernel

/-- Of two assertions in one event, the sector stop's answers come first, whichever assertion asks for the ring stop
(R129, log 29): the entry of the stopped sector is answered SECTOR-STOPPED, the other STOPPED. -/
theorem test_sector_stop_before_ring_stop :
    let p : Part := { slip with
      cfg := { slip.cfg with active := { bank with profile := (bank.profile.set 29 3).set 32 2 } }
      adm := ⟨[⟨0, 1, 1, 6, 86400, .group⟩, entry], slip.adm.occupancy⟩ }
    (p.event [assertion (.pressure 0) none, assertion (.rod 1) none]).sendQueue.map (·.payload)
      = [[2, 1, 7, 6], [1, 1, 6, 18]] := by decide +kernel

/-- Jack 2 in sector 1 and jack 3 in sector 0 without rod: a commit that takes ROD out of IGNORE asserts by jack index,
the record of sector 1 before that of sector 0 (R127, R130). -/
theorem test_commit_asserts_by_jack :
    let b : Bank := { bank with
      profile := bank.profile.set 32 0
      jacks := (bank.jacks.set 2 ⟨true, 3, 1, 0⟩).set 3 ⟨true, 4, 0, 0⟩ }
    let c : Bank := { b with profile := b.profile.set 32 1 }
    let pre : Part := (({ slip with
      cfg := ⟨b, c, .idle, b.tableSum⟩
      jacks := (slip.jacks.set 2 ⟨.active, 10, 0, 1, 0, true⟩).set 3 ⟨.active, 10, 0, 1, 0, true⟩ } : Part).setPair
        (.rod 0) ⟨.present .ignore, false, false⟩).setPair (.rod 1) ⟨.present .ignore, false, false⟩
    let p : Part := { pre with cfg := ⟨c, c, .idle, 0⟩ }
    (p.event ((jackIds.take 4).map (commitJudging pre))).mon.log.map (·.pair) = [.rod 1, .rod 0] := by decide +kernel

/-! ### Hypotheses met, statement by statement -/

theorem pairs_of {p : Part} {r : PairRecord} (h : p.mon.pairs = Vector.replicate 157 r) (q : Pair) : p.pair q = r := by
  simp [Part.pair, h]

theorem test_hyps_EveryStepCompletes :
    (on deck).pending = [] ∧ (on deck).part.Settled ∧ (on deck).part.owed = [] := ⟨rfl, (ready deck rfl).1, rfl⟩

theorem test_hyps_DueSharesComeFirst :
    dueRow (.clear 0) = false ∧ Instr.clear 0 ≠ .slipClockAdvance ∧ dueRow .resetAfterAck = true := ⟨rfl, by decide, rfl⟩

/-- The part held in reset. -/
def held : Part := { State.reset.part with resetLine := true, stopOut := true, ringQueue := [] }

theorem settled_held : held.Settled := ⟨fun _ h => (by cases h), rfl, fun h => by cases h⟩

theorem test_hyps_PowerOnResets :
    (deck.Settled ∧ deck.resetLine = false ∧ deck.stopIn = false) ∧ held.Settled ∧ held.resetLine = true :=
  ⟨⟨(ready deck rfl).1, rfl, rfl⟩, settled_held, rfl⟩

theorem test_hyps_ResetLineResets :
    (slip.Settled ∧ slip.resetLine = false) ∧ (held.Settled ∧ held.owed = [] ∧ held.resetLine = true ∧ held.stopIn = false)
      ∧ portOrTimeRow (.clear 0) = true ∧ portOrTimeRow .deckSend = true ∧ portOrTimeRow .slipClockAdvance = true
      ∧ portOrTimeRow .powerOn = false ∧ portOrTimeRow .windowExpiry = false :=
  ⟨⟨(ready slip rfl).1, rfl⟩, ⟨settled_held, rfl, rfl, rfl⟩, rfl, rfl, rfl, rfl, rfl⟩

/-- A send queue of n frames. -/
def queued (n : Nat) (p : Part) : Part := { p with sendQueue := List.replicate n ⟨0, 0, .reply, 0, 0, []⟩ }

theorem test_hyps_StopInAtReleaseStops :
    (let p : Part := { deck with stopIn := true }
    p.Settled ∧ p.resetLine = false ∧ p.stopIn = true)
      ∧ (let p : Part := { held with stopIn := true }
        p.Settled ∧ p.HeldLaw ∧ p.resetLine = true ∧ p.stopIn = true)
      ∧ (let p : Part := { deck with stopIn := true, resetWait := some 0 }
        p.resetLine = false ∧ p.resetWait = some 0 ∧ p.stopIn = true)
      ∧ let p : Part := { queued 256 (stopped .slip) with stopIn := true }
        p.Ready ∧ p.acceptAny.mode.mode ≠ .slip ∧ p.acceptAny.mode.mode.isHold = false
          ∧ 256 ≤ p.acceptAny.sendQueue.length ∧ p.acceptAny.stopIn = true :=
  ⟨⟨(ready _ rfl).1, rfl, rfl⟩, ⟨settled_held, fun _ => ⟨.power, rfl⟩, rfl, rfl⟩, ⟨rfl, rfl, rfl⟩, ready _ rfl,
    by decide +kernel⟩

theorem test_hyps_ResetRequestDecided :
    (slip.Ready ∧ slip.acceptAny.mode.mode = .slip) ∧ (hold.Ready ∧ hold.acceptAny.mode.mode.isHold = true)
      ∧ ((queued 255 deck).Ready ∧ (queued 255 deck).acceptAny.mode.mode ≠ .slip
        ∧ (queued 255 deck).acceptAny.mode.mode.isHold = false ∧ (queued 255 deck).acceptAny.sendQueue.length < 256)
      ∧ (queued 256 (stopped .slip)).Ready ∧ 256 ≤ (queued 256 (stopped .slip)).acceptAny.sendQueue.length
      ∧ (queued 256 (stopped .slip)).acceptAny.stopIn = false
      ∧ (let p : Part := { queued 1 deck with resetWait := some 1 }
        p.resetLine = false ∧ p.owed = [] ∧ p.CommitLaw ∧ p.resetWait = some (0 + 1))
      ∧ frameRow (.lift 0 0 []) = true ∧ frameRow (.lifted 1 0 1 0 0) = true ∧ frameRow .deckSend = false :=
  ⟨⟨ready _ rfl, by decide +kernel⟩, ⟨ready _ rfl, by decide +kernel⟩, ⟨ready _ rfl, by decide +kernel⟩,
    ready _ rfl, by decide +kernel, by decide +kernel, ⟨rfl, rfl, idle _ rfl, rfl⟩, by decide⟩

theorem test_hyps_ResetFollowsItsAck :
    let p : Part := { queued 2 deck with resetWait := some 2 }
    let q : Part := { deck with resetWait := some 0 }
    (p.resetLine = false ∧ p.CommitLaw ∧ p.owed = [] ∧ p.resetWait = some (1 + 1)
      ∧ p.sendQueue = ⟨0, 0, .reply, 0, 0, []⟩ :: [⟨0, 0, .reply, 0, 0, []⟩])
      ∧ (q.resetLine = false ∧ q.CommitLaw ∧ q.resetWait = some 0 ∧ q.stopIn = false)
      ∧ deck.resetWait ≠ some 0 :=
  ⟨⟨rfl, idle _ rfl, rfl, rfl, rfl⟩, ⟨rfl, idle _ rfl, rfl, rfl⟩, by decide⟩

theorem test_hyps_FrameOctetsRoundTrip : (List.replicate 12 (7 : Byte)).length ≤ 12 ∧ ([] : List Byte).length ≤ 12 := by
  decide

theorem test_hyps_FramesToDeckAreStamped :
    (queued 255 deck).sendQueue.length < 256 ∧ 256 ≤ (queued 256 deck).sendQueue.length := by decide +kernel

theorem test_hyps_PortsSendOldestFirst : (queued 1 slip).Ready ∧ State.reset.part.Ready := ⟨ready _ rfl, ready _ rfl⟩

theorem test_hyps_UnreadableFramesRefused :
    slip.Ready ∧ (∀ arg : Byte, [8, arg] ≠ [9, arg]) ∧ (∀ arg : Byte, ([] : List Byte) ≠ [9, arg])
      ∧ [9, (4 : Byte)] = [9, 4] := ⟨ready _ rfl, by decide, by decide, rfl⟩

theorem test_hyps_StatusPagesReadThePart : slip.Ready ∧ (3 : Byte).toNat = 3 ∧ (4 : Byte).toNat = 4 :=
  ⟨ready _ rfl, rfl, rfl⟩

theorem test_hyps_IdentAnswersIdentity : hold.Ready := ready _ rfl

/-- The small deck with one record in the log. -/
def logged : Part := { deck with mon := { deck.mon with log := [⟨.spread, .warn, none, 86390, 86395, 2, true⟩] } }

theorem test_hyps_ReadsReturnRecords :
    logged.Ready ∧ ((95 : Byte).toNat < 96 ∧ 96 ≤ (96 : Byte).toNat) ∧ ((23 : Byte).toNat < 24 ∧ 24 ≤ (24 : Byte).toNat)
      ∧ ((0 : Byte).toNat < 16 ∧ (logged.acceptAny.sector 0).layers[(0 : Byte).toNat]?
        = some ⟨0, 600, 0, 79200, 79200, .entered⟩)
      ∧ ((15 : Byte).toNat < 16 ∧ (logged.acceptAny.sector 0).layers[(15 : Byte).toNat]? = none ∧ 16 ≤ (16 : Byte).toNat)
      ∧ ((0 : Byte).toNat < 32 ∧ logged.acceptAny.mon.log[(0 : Byte).toNat]?
        = some ⟨.spread, .warn, none, 86390, 86395, 2, true⟩)
      ∧ (31 : Byte).toNat < 32 ∧ logged.acceptAny.mon.log[(31 : Byte).toNat]? = none ∧ 32 ≤ (32 : Byte).toNat :=
  ⟨ready _ rfl, by decide +kernel⟩

/-- A commit pending while a LIFT is open. -/
def committing : Part := { withOpen lifting slip with cfg := { slip.cfg with commit := .pending 3 86370 } }

theorem ready_committing : committing.Ready :=
  ⟨⟨fun _ h => (by cases h), rfl, fun _ => by simp [committing, withOpen]⟩, rfl⟩

theorem test_hyps_TableFieldsWrittenAndRead :
    deck.Ready ∧ deck.acceptAny.cfg.shadow.write 0 0 12 2 = none ∧ deck.acceptAny.cfg.shadow.write 6 0 0 0 = none
      ∧ deck.acceptAny.cfg.shadow.write 1 96 0 1 = none
      ∧ ((deck.acceptAny.cfg.shadow.write 1 95 3 7).isSome = true ∧ deck.acceptAny.commitPending = false)
      ∧ (committing.Ready ∧ (committing.acceptAny.cfg.shadow.write 5 7 25 1).isSome = true
        ∧ committing.acceptAny.commitPending = true)
      ∧ (5 : Byte).toNat ≠ 6 ∧ (0 : Byte).toNat = 0 ∧ 2 ≤ (2 : Byte).toNat :=
  ⟨ready _ rfl, by decide +kernel, by decide +kernel, by decide +kernel, by decide +kernel,
    ⟨ready_committing, by decide +kernel⟩, by decide⟩

/-- The ends of some ranges of R153 and R154, as TABLE-WRITE takes them. -/
theorem test_ranges :
    let taken (t i f v : Nat) : Bool := (bank.write t i f v).isSome
    (taken 0 0 0 10 && taken 0 0 0 40 && taken 0 0 12 3 && taken 0 0 34 3 && taken 1 95 1 126 && taken 2 23 0 20000
        && taken 3 7 1 86400 && taken 4 7 0 16 && taken 5 7 25 1) = true
      ∧ (taken 0 0 0 9 || taken 0 0 0 41 || taken 0 1 0 10 || taken 0 0 12 2 || taken 0 0 35 0 || taken 1 96 0 0
        || taken 1 0 1 0 || taken 2 0 1 149 || taken 3 0 0 599 || taken 4 0 0 17 || taken 5 0 26 0 || taken 6 0 0 0)
        = false := by decide +kernel

theorem test_hyps_ShadowLoadCopiesActive :
    (committing.Ready ∧ committing.acceptAny.commitPending = true) ∧ deck.Ready ∧ deck.acceptAny.commitPending = false
      ∧ deck.SumLaw :=
  ⟨⟨ready_committing, by decide +kernel⟩, ready _ rfl, by decide +kernel, rfl⟩

/-- The small deck with a shadow whose window maximum is not above its minimum. -/
def inconsistent : Part := { deck with cfg := { deck.cfg with
  shadow := { bank with profile := (bank.profile.set 10 10) } } }

/-- No address of the small deck's bank is held twice: entries 0, 1 and 96 alone are enabled. -/
theorem bank_repeats (x : Fin 104) : ¬ bank.Repeats x := by
  have h : ∀ x, bank.addressAt x
      = if x = 0 then some 1 else if x = 1 then some 2 else if x = 96 then some 97 else none := by decide +kernel
  rintro ⟨a, ha, y, hy, hb⟩
  rw [h] at ha hb
  revert hy
  revert ha hb
  split_ifs <;> simp_all <;> rintro rfl <;> decide

theorem bank_configured (k : SectorId) : bank.Configured k ↔ k = 0 ∨ k = 1 := by
  revert k
  unfold Bank.Configured
  decide +kernel

theorem bank_feeds (f : FeedId) : ¬ bank.FeedAstray f := by
  rintro ⟨on, h⟩
  have e : f = 0 := by
    clear h
    revert f
    decide +kernel
  subst e
  rcases h with h | ⟨k, a, c⟩
  · exact absurd (h 0) (by decide +kernel)
  · have : k = 0 := by
      clear c
      revert k
      decide +kernel
    exact c ((bank_configured k).2 (.inl this))

/-- With the small deck's bank as shadow the seven checks that read nothing else pass. -/
theorem bank_passes {p : Part} (h : p.cfg.shadow = bank) {n t i : Nat} (six : n ≠ 6) (eight : n ≠ 8) :
    ¬ p.CheckFails n t i := by
  intro c
  unfold Part.CheckFails at c
  rw [h] at c
  match n with
  | 0 => exact c
  | 1 => exact absurd c.2 (by decide +kernel)
  | 2 =>
    obtain ⟨m, e, c, o⟩ := c
    clear e o
    revert m
    decide +kernel
  | 3 =>
    obtain ⟨x, _, c, _⟩ := c
    exact bank_repeats x c
  | 4 =>
    obtain ⟨j, e, ⟨on, c⟩, o⟩ := c
    clear e o
    rw [bank_configured] at c
    revert j
    decide +kernel
  | 5 => exact absurd c.2 (by decide +kernel)
  | 6 => exact six rfl
  | 7 => exact absurd c.2 (by decide +kernel)
  | 8 => exact eight rfl
  | 9 =>
    obtain ⟨f, _, c, _⟩ := c
    exact bank_feeds f c
  | n + 10 => exact c

/-- No jack is in SPLICE: the live checks pass too. -/
theorem consistent {p : Part} (h : p.cfg.shadow = bank) (s : p.spliceCount = 0)
    (live : ∀ j, (p.jack j).state ≠ .splice) (n t i : Nat) : ¬ p.CheckFails n t i := by
  by_cases six : n = 6
  · subst six
    rintro ⟨_, c⟩
    rw [s] at c
    exact absurd c (Nat.not_lt_zero _)
  · by_cases eight : n = 8
    · subst eight
      rintro ⟨j, _, ⟨c, _⟩, _⟩
      exact live j c
    · exact bank_passes h six eight

/-- The small deck with one command open, the last before a pending commit. -/
def lastOpen (c : Command) : Part := { withOpen c slip with cfg := { slip.cfg with commit := .pending 3 86370 } }

/-- The LIFT in flight, being stilled. -/
def stilled : Command := { lifting with ending := some .stilled }

/-- A deck LIFT of jack 0 in RESEND. -/
def resending : Command := { lifting with phase := .resend, sent := 86398 }

/-- A LIFT of two strokes that has used its 16 seconds. -/
def late : Command := { lifting with sent := 86384 }

/-- Two jacks in SPLICE, and a shadow that allows one. -/
def spliced (p : Part) : Part := { p with
  cfg := { p.cfg with shadow := { bank with profile := bank.profile.set 16 1 } }
  jacks := (p.jacks.set 2 { p.jack 2 with state := .splice }).set 3 { p.jack 3 with state := .splice } }

/-- Jack 1 in SPLICE, and a shadow that disables its entry. -/
def unspliced (p : Part) : Part := { p with
  cfg := { p.cfg with shadow := { bank with jacks := bank.jacks.set 1 ⟨false, 2, 1, 0⟩ } }
  jacks := p.jacks.set 1 { p.jack 1 with state := .splice } }

/-- Jack 0 has one strike; a second faults it. -/
def struck (p : Part) : Part := p.setJack 0 { p.jack 0 with strikes := 1 }

/-- What CommitDecided asks of a part whose last command a row closes. -/
def closesLast (p : Part) (c : Command) (i : Instr) : Prop :=
  (dueRow i = true → p.resetWait ≠ some 0) ∧ (dueRow i = false → p.Ready) ∧ p.commitPending = true
    ∧ p.xt.table = [c] ∧ p.Closes c i ∧ p.DeferredLaw ∧ p.OpenLaw ∧ p.LayerLaw

theorem deferred (p : Part) (h : p.adm.queue = []) : p.DeferredLaw := by
  refine ⟨?_, ?_, fun _ => h⟩ <;> simp [h]

/-- The law of the transaction table for a part with one command open and none deferred. -/
theorem open_one (p : Part) (c : Command) (t : p.xt.table = [c]) (q : p.adm.queue = []) : p.OpenLaw := by
  constructor
  · simp [Part.openCount, t, Config.maxOpen]
  · cases e : c.liftJack <;> simp [Part.lifted, t, q, e]

theorem closesLast_of {p : Part} {c : Command} {i : Instr} (x : p.xt.table = [c])
    (r : (p.resetWait, p.resetLine, p.cfg.commit, p.adm.queue) = (none, false, .pending 3 86370, []))
    (o : dueRow i = false → p.owed = []) (h : p.Closes c i) (l : p.sectors = slip.sectors) : closesLast p c i := by
  simp only [Prod.mk.injEq] at r
  obtain ⟨w, n, m, q⟩ := r
  refine ⟨fun _ => by simp [w], fun d => ⟨⟨fun y m => (by simp [o d] at m), w, fun _ => by simp [x]⟩, n⟩, ?_, x, h,
    deferred _ q, open_one _ _ x q, ?_⟩
  · simp [Part.commitPending, m, CommitState.isPending]
  · have a : slip.LayerLaw := layers _ (by decide +kernel)
    simpa only [Part.LayerLaw, Part.sector, l] using a

theorem test_hyps_CommitDecided :
    (committing.Ready ∧ committing.acceptAny.commitPending = true)
      ∧ (deck.Ready ∧ deck.acceptAny.commitPending = false ∧ (1 : BitVec 16) ≠ deck.acceptAny.cfg.shadow.tableSum)
      ∧ (inconsistent.Ready ∧ inconsistent.acceptAny.commitPending = false
        ∧ inconsistent.acceptAny.CheckFails 5 0 0)
      ∧ ((withOpen lifting slip).Ready ∧ (∀ n t i, ¬ (withOpen lifting slip).acceptAny.CheckFails n t i)
        ∧ (withOpen lifting slip).acceptAny.xt.table ≠ [])
      ∧ ((∀ n t i, ¬ deck.acceptAny.CheckFails n t i) ∧ deck.acceptAny.xt.table = [] ∧ deck.acceptAny.DeferredLaw
        ∧ deck.acceptAny.LayerLaw) :=
  ⟨⟨ready_committing, by decide +kernel⟩, ⟨ready _ rfl, by decide +kernel⟩,
    ⟨ready _ rfl, by decide +kernel, rfl, by decide +kernel⟩,
    ⟨ready _ rfl, consistent rfl (by decide +kernel) (by decide +kernel), by decide +kernel⟩,
    consistent rfl (by decide +kernel) (by decide +kernel), by decide +kernel, deferred _ (by decide +kernel),
    layers _ (by decide +kernel)⟩

/-- Check 1 comes first, so nothing comes before it. -/
theorem test_hyps_CommitDecided_first :
    let p : Part := { deck with cfg := { deck.cfg with shadow := { bank with profile := bank.profile.set 4 2 } } }
    p.Ready ∧ p.CheckFails 1 0 0 ∧ ∀ m x y, m < 1 → ¬ p.CheckFails m x y :=
  ⟨ready _ rfl, ⟨rfl, by decide +kernel⟩, fun m _ _ h c => by
    have e : m = 0 := by omega
    subst e
    exact c⟩

/-- A LIFTED that is short closes the last command, one that is not goes on, and one that faults its jack closes it. -/
theorem test_ends :
    let p := lastOpen lifting
    p.Ends lifting p (.lifted 1 1 1 0 0) ∧ ¬ p.Ends lifting p (.lifted 1 1 2 0 451)
      ∧ (struck p).Ends lifting (struck p) (.lifted 1 1 2 0 451) := by
  refine ⟨.inr (.inl (by decide)), ?_, .inr (.inr (.inr (.inr ⟨0, rfl, .inl (by decide +kernel)⟩)))⟩
  rintro (h | h | h | h | ⟨j, e, h⟩)
  · exact absurd h (by decide)
  · exact absurd h (by decide)
  · exact absurd h (by decide)
  · exact absurd h (by decide +kernel)
  · cases e
    exact absurd h (by decide +kernel)

/-- One witness for each row that may close the last command, and for each outcome of the live checks. -/
theorem test_hyps_CommitDecided_last :
    closesLast (lastOpen lifting) lifting (.lifted 1 1 1 0 0)
      ∧ closesLast (lastOpen lifting) lifting (.lifted 1 1 2 0 0)
      ∧ closesLast (struck (lastOpen lifting)) lifting (.lifted 1 1 2 0 451)
      ∧ closesLast (lastOpen pouring) pouring (.poured 97 1 0 20 0)
      ∧ closesLast (lastOpen stilled) stilled (.wait 1 1)
      ∧ closesLast (owing .transactions (lastOpen late)) late (.subTransactionTimeout 1)
      ∧ closesLast (lastOpen lifting) lifting (.unclaimedLiftPour .lift 1 1)
      ∧ closesLast (lastOpen resending) resending (.still 1 0 [])
      ∧ closesLast (lastOpen resending) resending (.still 127 0 [])
      ∧ closesLast (lastOpen resending) resending (.isolate 0 1)
      ∧ closesLast (lastOpen resending) resending (.trouble 1 0 0) :=
  ⟨closesLast_of rfl rfl (fun _ => rfl) (by unfold Part.Closes; decide +kernel) rfl,
    closesLast_of rfl rfl (fun _ => rfl) (by unfold Part.Closes; decide +kernel) rfl,
    closesLast_of rfl rfl (fun _ => rfl) (by unfold Part.Closes; decide +kernel) rfl,
    closesLast_of rfl rfl (fun _ => rfl) (by unfold Part.Closes; decide +kernel) rfl,
    closesLast_of rfl rfl (fun _ => rfl) (by unfold Part.Closes; decide +kernel) rfl,
    closesLast_of rfl rfl (fun h => by cases h)
      ⟨by decide +kernel, by decide +kernel, by decide +kernel, by decide +kernel⟩ rfl,
    closesLast_of rfl rfl (fun _ => rfl) (by unfold Part.Closes; decide +kernel) rfl,
    closesLast_of rfl rfl (fun _ => rfl) (by unfold Part.Closes; decide +kernel) rfl,
    closesLast_of rfl rfl (fun _ => rfl) (by unfold Part.Closes; decide +kernel) rfl,
    closesLast_of rfl rfl (fun _ => rfl) ⟨by decide, rfl, 0, rfl, by decide +kernel⟩ rfl,
    closesLast_of rfl rfl (fun _ => rfl) ⟨by decide, rfl, 0, rfl, by decide +kernel⟩ rfl⟩

theorem test_hyps_CommitDecided_checks :
    (∀ n t i, ¬ (lastOpen stilled).CheckFails n t i)
      ∧ (closesLast (spliced (lastOpen stilled)) stilled (.wait 1 1) ∧ (spliced (lastOpen stilled)).CheckFails 6 0 0)
      ∧ (closesLast (unspliced (lastOpen stilled)) stilled (.wait 1 1)
        ∧ ¬ (unspliced (lastOpen stilled)).CheckFails 6 0 0 ∧ (unspliced (lastOpen stilled)).CheckFails 8 1 1) := by
  refine ⟨consistent rfl (by decide +kernel) (by decide +kernel),
    ⟨closesLast_of rfl rfl (fun _ => rfl) (by unfold Part.Closes; decide +kernel) rfl, rfl, by decide +kernel⟩,
    closesLast_of rfl rfl (fun _ => rfl) (by unfold Part.Closes; decide +kernel) rfl,
    fun c => absurd c.2 (by decide +kernel), 1, rfl, ⟨by decide +kernel, by decide +kernel⟩, fun i h c => ?_⟩
  have e : i = 0 := by
    clear c
    revert i
    decide +kernel
  subst e
  exact absurd c.1 (by decide +kernel)

/-- While a commit is pending the statements whose conclusion speaks of the end of the event have their hypotheses too. -/
theorem test_hyps_commit_pending :
    committing.Ready ∧ committing.acceptAny = committing ∧ committing.LayerLaw ∧ committing.OpenLaw
      ∧ committing.DeferredLaw ∧ committing.mode.mode = .slip ∧ committing.stopIn = false
      ∧ (committing.pair .stopin).state = .notPresent ∧ committing.openAt 1 = some lifting
      ∧ committing.openOf (.jack 1) = none ∧ committing.findJack 2 = some 1 ∧ (committing.jack 1).state = .active :=
  ⟨ready_committing, rfl, layers _ (by decide +kernel), open_one _ _ rfl rfl, deferred _ rfl, by decide +kernel⟩

/-- Sixteen frames passed through wait for the ring. -/
def crowded (p : Part) : Part := { p with ringQueue := List.replicate 16 ⟨⟨1, 0, .ask, 0, 0, []⟩, true⟩ }

/-- The small deck with the LIFT of jack 0 in RESEND and one of jack 1 in SENT. -/
def mixed : Part := { withOpen resending slip with xt.table := [resending, { lifting with task := .lift 1 }] }

theorem test_hyps_AskAndStillPassToRing :
    slip.Ready ∧ (∀ c ∈ (withOpen lifting slip).xt.table, c.phase = .sent) ∧ [(1 : Byte)] ≠ []
      ∧ ((crowded slip).Ready ∧ 16 ≤ (crowded slip).passedWaiting)
      ∧ (let p := withOpen resending slip
        p.Ready ∧ p.OpenLaw ∧ (1 : Byte).toNat ≠ 127 ∧ p.openAt 1 = some resending
          ∧ resending.phase = .resend ∧ (p.xt.table.map Command.subject).Nodup)
      ∧ (1 ≤ (1 : Byte).toNat ∧ (1 : Byte).toNat ≤ 126) ∧ (1 ≤ (126 : Byte).toNat ∧ (126 : Byte).toNat ≤ 126)
      ∧ (127 : Byte).toNat = 127
      ∧ (mixed.Ready ∧ mixed.openAt 1 = some resending ∧ mixed.openAt 2 = some { lifting with task := .lift 1 }
        ∧ mixed.openAt 3 = none ∧ (mixed.xt.table.map Command.subject).Nodup)
      ∧ (0 : Byte).toNat = 0 ∧ 127 < (128 : Byte).toNat :=
  ⟨ready _ rfl, by decide +kernel, by decide, ⟨ready _ rfl, by decide +kernel⟩,
    ⟨ready _ rfl, open_one _ _ rfl rfl, by decide +kernel⟩, by decide, by decide, by decide,
    ⟨ready _ rfl, by decide +kernel⟩, by decide⟩

def leased (l : Lease) (p : Part) : Part := { p with mode := { p.mode with lease := l } }

theorem test_hyps_NodesetNeedsLease :
    slip.Ready ∧ (1 ≤ (1 : Byte).toNat ∧ (1 : Byte).toNat ≤ 126) ∧ (1 ≤ (126 : Byte).toNat ∧ (126 : Byte).toNat ≤ 126)
      ∧ (127 : Byte).toNat = 127
      ∧ (let p := leased (.held 9 86400) hold
        p.Ready ∧ p.mode.lease.code = 2 ∧ p.passedWaiting < 16)
      ∧ let p := crowded (leased (.held 9 86400) hold)
        p.Ready ∧ p.mode.lease.code = 2 ∧ 16 ≤ p.passedWaiting :=
  ⟨ready _ rfl, by decide, by decide, by decide, ⟨ready _ rfl, by decide +kernel⟩, ready _ rfl, by decide +kernel⟩

/-! LIFT and POUR. -/

/-- The reason checks 1 to 7 of R43 give, as the statement LiftRefusedAtOnce spells it. -/
def liftReason (p : Part) (dest strokes : Byte) : Option Reason :=
  if strokes.toNat < 1 ∨ 8 < strokes.toNat then some Reason.range
  else match p.findJack dest with
    | none => some (if (p.findFeed dest).isSome then .wrongKind else .noNode)
    | some j =>
      if p.mode.mode ≠ .slip then some .mode
      else if (p.jack j).state ≠ .active ∧ (p.jack j).state ≠ .catchup then some .jackState
      else if p.sectorStopped (p.sectorOf j) then some .sectorStopped
      else if (p.openOf (.jack j)).isSome ∨ (p.entryOf j).isSome then some .busy
      else if (p.jack j).rod < strokes.toNat then some .rod
      else none

theorem test_hyps_LiftRefusedAtOnce :
    slip.Ready ∧ [(1 : Byte), 2].length ≠ 1 ∧ ([] : List Byte).length ≠ 1
      ∧ liftReason slip 1 0 = some .range ∧ liftReason slip 1 9 = some .range ∧ liftReason slip 97 1 = some .wrongKind
      ∧ liftReason slip 3 1 = some .noNode ∧ liftReason deck 1 1 = some .mode
      ∧ liftReason (slip.setJack 0 { slip.jack 0 with state := .splice }) 1 1 = some .jackState
      ∧ liftReason (slip.setPair (.silent 0) ⟨.notPresent, true, false⟩) 1 1 = some .sectorStopped
      ∧ liftReason (withOpen lifting slip) 1 1 = some .busy
      ∧ liftReason (slip.setJack 0 { slip.jack 0 with rod := 7 }) 1 8 = some .rod
      ∧ liftReason (slip.setJack 0 { slip.jack 0 with rod := 8 }) 1 8 = none :=
  ⟨ready _ rfl, by decide +kernel⟩

/-- The premises of LiftDeferredOrAdmitted for node 1 and jack 0. -/
def liftable (p : Part) (strokes : Byte) : Prop :=
  1 ≤ strokes.toNat ∧ strokes.toNat ≤ 8 ∧ p.findJack 1 = some 0 ∧ p.mode.mode = .slip
    ∧ ((p.jack 0).state = .active ∨ (p.jack 0).state = .catchup) ∧ p.sectorStopped (p.sectorOf 0) = false
    ∧ p.openOf (.jack 0) = none ∧ p.entryOf 0 = none ∧ strokes.toNat ≤ (p.jack 0).rod

/-- One stroke more of jack 0 stands at 275 mm: concrete up to 575 mm suffices, 574 mm do not; two hours old is not
young, a minute is; two strokes more is within the spread admit limit, three are not. -/
theorem test_hyps_LiftDeferredOrAdmitted :
    (slip.Ready ∧ liftable slip 1 ∧ slip.transientCheck 0 1 = none)
      ∧ (committing.transientCheck 1 1 = some .commit)
      ∧ (let p : Part := { slip with adm := ⟨[], slip.adm.occupancy.set 0 2⟩ }
        p.Ready ∧ liftable p 8 ∧ p.transientCheck 0 8 = some .group)
      ∧ (liftable slip 3 ∧ slip.transientCheck 0 3 = some .spread ∧ slip.transientCheck 0 2 = none)
      ∧ (let p := slip.setSector 0 ⟨0, [⟨0, 575, 0, 79200, 79200, .entered⟩]⟩
        p.Ready ∧ liftable p 1 ∧ p.transientCheck 0 1 = none)
      ∧ (let p := slip.setSector 0 ⟨0, [⟨0, 574, 0, 79200, 79200, .entered⟩]⟩
        p.Ready ∧ liftable p 1 ∧ p.transientCheck 0 1 = some .fill)
      ∧ (let p := slip.setSector 0 ⟨0, [⟨0, 600, 0, 86340, 86340, .entered⟩]⟩
        p.Ready ∧ liftable p 1 ∧ p.transientCheck 0 1 = some .young)
      ∧ (let p : Part := { slip with
          adm := ⟨List.replicate 32 entry, slip.adm.occupancy.set 0 2⟩ }
        p.Ready ∧ liftable p 1 ∧ p.transientCheck 0 1 = some .group) := by
  unfold liftable
  exact ⟨⟨ready _ rfl, by decide +kernel⟩, by decide +kernel, ⟨ready _ rfl, by decide +kernel⟩, by decide +kernel,
    ⟨ready _ rfl, by decide +kernel⟩, ⟨ready _ rfl, by decide +kernel⟩, ⟨ready _ rfl, by decide +kernel⟩,
    ready _ rfl, by decide +kernel⟩

theorem test_hyps_PourRefusedOrAdmitted :
    slip.Ready ∧ [(0 : Byte)].length ≠ 3 ∧ (24 ≤ (24 : Byte).toNat ∧ (23 : Byte).toNat < 24)
      ∧ ((ofBe16 0 0).toNat < 1 ∧ (ofBe16 0 1).toNat = 1 ∧ (ofBe16 15 160).toNat = 4000 ∧ 4000 < (ofBe16 15 161).toNat)
      ∧ (slip.findFeed 1 = none ∧ slip.findFeed 97 = some 0 ∧ slip.openOf (.feed 0) = none)
      ∧ slip.pourCheck 0 0 1 = none ∧ (stopped .hold).pourCheck 0 0 1 = some .mode
      ∧ (withOpen pouring slip).pourCheck 0 0 1 = some .busy
      ∧ (slip.setFeed 0 ⟨.faulted, none⟩).pourCheck 0 0 1 = some .nodeState
      ∧ slip.pourCheck 0 1 1 = some .notAllowed
      ∧ (slip.setPair (.silent 0) ⟨.notPresent, true, false⟩).pourCheck 0 0 1 = some .sectorStopped
      ∧ committing.pourCheck 0 0 1 = some .commit
      ∧ slip.pourCheck 0 0 170 = none ∧ slip.pourCheck 0 0 171 = some .noRoom :=
  ⟨ready _ rfl, by decide +kernel⟩

/-! Supervision and modes. -/

/-- The small deck in SLIP under supervision of kind ANY. -/
def slipAny (lost : Bool) : Part := { slip with
  cfg := { slip.cfg with active := { bank with profile := bank.profile.set 9 1 } }
  sup := ⟨true, 0, 86400, 86400, 2, lost⟩ }

/-- The small deck in SLIP at the end of a window of the length given, counting from the violations given. -/
def windowed (since violations : Nat) (lost : Bool) : Part := { slip with
  sup := ⟨true, 0, 86400 - BitVec.ofNat 32 since, 86400 - BitVec.ofNat 32 since, violations, lost⟩ }

theorem test_hyps_AnyRequestIsAHeartbeat :
    ((slipAny true).sup.active = true ∧ (slipAny true).bank.supKind = .any ∧ (slipAny true).sup.deckLost = true)
      ∧ (slipAny false).sup.deckLost = false ∧ deck.sup.active = false ∧ slip.bank.supKind = .token := by
  decide +kernel

/-- Window minimum 1, maximum 10, strikes 3. -/
theorem test_hyps_HeartbeatsAndWindowsJudged :
    let judged (p : Part) (early right below : Bool) : Prop :=
      p.Ready ∧ p.sup.active = true ∧ p.bank.supKind = .token
        ∧ decide (age p.clock p.sup.lastAccepted < p.bank.windowMin) = early
        ∧ decide ((0 : Byte).toNat = p.sup.expected.toNat) = right
        ∧ decide (min (p.sup.violations + 1) 255 < p.bank.strikes) = below
    judged (windowed 0 0 false) true true true ∧ judged (windowed 0 255 true) true true false
      ∧ ((1 : Byte).toNat ≠ slip.sup.expected.toNat)
      ∧ judged (windowed 1 1 false) false true true
      ∧ (judged (windowed 1 2 true) false true false ∧ (windowed 1 2 true).sup.deckLost = true)
      ∧ (windowed 1 1 false).sup.deckLost = false
      ∧ ((slipAny false).Ready ∧ (slipAny false).sup.active = true ∧ (slipAny false).bank.supKind = .any)
      ∧ (slip.resetWait ≠ some 0 ∧ slip.CommitLaw ∧ Share.window ∉ slip.owed)
      ∧ (let p := owing .window (windowed 9 0 false)
        p.CommitLaw ∧ Share.window ∈ p.owed ∧ age p.clock p.sup.windowStart < p.bank.windowMax)
      ∧ (let p := owing .window (windowed 10 1 false)
        p.CommitLaw ∧ Share.window ∈ p.owed ∧ p.sup.active = true ∧ p.bank.windowMax ≤ age p.clock p.sup.windowStart
          ∧ min (p.sup.violations + 1) 255 < p.bank.strikes)
      ∧ let p := owing .window (windowed 10 2 true)
        p.CommitLaw ∧ Share.window ∈ p.owed ∧ p.sup.active = true ∧ p.bank.windowMax ≤ age p.clock p.sup.windowStart
          ∧ p.sup.deckLost = true := by
  exact ⟨⟨ready _ rfl, by decide +kernel⟩, ⟨ready _ rfl, by decide +kernel⟩, by decide +kernel,
    ⟨ready _ rfl, by decide +kernel⟩, ⟨⟨ready _ rfl, by decide +kernel⟩, rfl⟩, rfl, ⟨ready _ rfl, by decide +kernel⟩,
    ⟨by decide, idle _ rfl, by decide +kernel⟩, ⟨idle _ rfl, by decide +kernel⟩, ⟨idle _ rfl, by decide +kernel⟩,
    idle _ rfl, by decide +kernel⟩

/-- STOPPED with the deck lost. -/
def stoppedLost : Part :=
  ({ stopped .slip with sup := ⟨false, 0, 86400, 86400, 3, true⟩ } : Part).setPair .deck ⟨.present .warn, false, false⟩

theorem test_hyps_HeartbeatWhileInactive :
    (deck.Ready ∧ deck.sup.active = false ∧ deck.mode.mode.isStopped = false)
      ∧ ((stopped .setup).Ready ∧ (stopped .setup).sup.active = false ∧ (stopped .setup).sup.deckLost = false)
      ∧ stoppedLost.Ready ∧ stoppedLost.sup.active = false ∧ stoppedLost.mode.mode.isStopped = true
      ∧ stoppedLost.sup.deckLost = true :=
  ⟨⟨ready _ rfl, rfl, rfl⟩, ⟨ready _ rfl, rfl, rfl⟩, ready _ rfl, rfl, rfl, rfl⟩

theorem test_hyps_ControlRefused :
    (slip.Ready ∧ slip.acceptAny.mode.mode ≠ .setup ∧ slip.acceptAny.mode.mode.isHold = false)
      ∧ (let p := deck.setPair .stopin ⟨.notPresent, false, true⟩
        p.Ready ∧ p.acceptAny.mode.mode = .setup ∧ (p.acceptAny.pair .stopin).stopsRing = true)
      ∧ (State.reset.part.acceptAny.mode.mode = .setup ∧ (∀ q, (State.reset.part.acceptAny.pair q).stopsRing = false)
        ∧ ∀ j, (State.reset.part.acceptAny.jack j).state ≠ .active)
      ∧ (let p := leased (.pending 1) deck
        p.Ready ∧ p.acceptAny.mode.mode = .setup ∧ (∀ q, (p.acceptAny.pair q).stopsRing = false)
          ∧ (∃ j, (p.acceptAny.jack j).state = .active) ∧ p.acceptAny.mode.lease ≠ .none)
      ∧ (hold.Ready ∧ hold.acceptAny.mode.mode ≠ .slip)
      ∧ (let p : Part := { hold with sup := { hold.sup with violations := 1 } }
        p.Ready ∧ p.acceptAny.mode.mode.isHold = true ∧ p.acceptAny.sup.violations ≠ 0)
      ∧ (let p : Part := { hold with mode := { hold.mode with heartbeatSinceHold := false } }
        p.Ready ∧ p.acceptAny.mode.mode.isHold = true ∧ p.acceptAny.mode.heartbeatSinceHold = false)
      ∧ let p := leased (.held 1 86400) hold
        p.Ready ∧ p.acceptAny.mode.mode.isHold = true ∧ p.acceptAny.sup.violations = 0
          ∧ p.acceptAny.mode.heartbeatSinceHold = true ∧ p.acceptAny.mode.lease ≠ .none := by
  refine ⟨⟨ready _ rfl, by decide +kernel⟩, ⟨ready _ rfl, by decide +kernel⟩,
    ⟨rfl, fun q => by rw [pairs_of rfl], by decide +kernel⟩, ⟨ready _ rfl, rfl, fun q => by rw [pairs_of rfl], ⟨0, by decide +kernel⟩, by decide +kernel⟩,
    ⟨ready _ rfl, by decide +kernel⟩, ⟨ready _ rfl, by decide +kernel⟩, ⟨ready _ rfl, by decide +kernel⟩,
    ready _ rfl, by decide +kernel⟩

/-- Resume blanking is 30 by default; no sector is stopped. -/
theorem test_hyps_StartAndResumeEnterSlip :
    (deck.Ready ∧ deck.commitPending = false ∧ deck.acceptAny.mode.mode = .setup
        ∧ (∀ q, (deck.acceptAny.pair q).stopsRing = false) ∧ (∃ j, (deck.acceptAny.jack j).state = .active)
        ∧ deck.acceptAny.mode.lease = .none ∧ deck.acceptAny.bank.resumeBlanking ≠ 0
        ∧ deck.acceptAny.stoppedSectors ≤ deck.acceptAny.bank.sectorStopLimit)
      ∧ hold.Ready ∧ hold.commitPending = false ∧ hold.acceptAny.mode.mode.isHold = true
      ∧ hold.acceptAny.sup.violations = 0 ∧ hold.acceptAny.mode.heartbeatSinceHold = true
      ∧ hold.acceptAny.mode.lease = .none ∧ hold.acceptAny.bank.resumeBlanking ≠ 0
      ∧ hold.acceptAny.stoppedSectors ≤ hold.acceptAny.bank.sectorStopLimit :=
  ⟨⟨ready _ rfl, rfl, rfl, fun q => by rw [pairs_of rfl], ⟨0, by decide +kernel⟩, by decide +kernel⟩, ready _ rfl,
    by decide +kernel⟩

theorem test_hyps_ControlHoldEntersHold :
    slip.Ready ∧ slip.commitPending = false ∧ slip.acceptAny.mode.mode = .slip
      ∧ slip.acceptAny.bank.condMode .spread ≠ .ring ∧ slip.acceptAny.bank.condMode (.starve 0) ≠ .sector
      ∧ slip.acceptAny.bank.condMode (.starve 0) ≠ .ring
      ∧ slip.acceptAny.stoppedSectors ≤ slip.acceptAny.bank.sectorStopLimit :=
  ⟨ready _ rfl, by decide +kernel⟩

theorem test_hyps_ControlStopStopsRing :
    (slip.Ready ∧ slip.commitPending = false ∧ slip.DeferredLaw ∧ slip.acceptAny.mode.mode.isStopped = false)
      ∧ (stopped .hold).Ready ∧ (stopped .hold).commitPending = false ∧ (stopped .hold).DeferredLaw
      ∧ (stopped .hold).acceptAny.mode.mode.isStopped = true :=
  ⟨⟨ready _ rfl, by decide +kernel, deferred _ rfl, by decide +kernel⟩, ready _ rfl, by decide +kernel,
    deferred _ rfl, by decide +kernel⟩

/-- The log with n records of sector stops that stand, and those given. -/
def logging (n : Nat) (l : List LogRecord) (p : Part) : Part := { p with mon := { p.mon with
  log := List.replicate n ⟨.rod 23, .sector, none, 1, 1, 1, true⟩ ++ l } }

/-- A log that can take an assertion of REQUEST, STOPIN, DECK or FEED, by its length or by the pair's own record, and one
that can not. -/
theorem test_hyps_LogRoom :
    (slip.Ready ∧ (logging 32 [] slip).Ready ∧ (logging 32 [] slip).DeferredLaw)
      ∧ ∀ q ∈ [Pair.request, .stopin, .deck, .feed 0], slip.LogRoom q ∧ ¬ (logging 32 [] slip).LogRoom q
        ∧ (logging 31 [⟨q, .ring, none, 1, 1, 1, true⟩] slip).LogRoom q := by
  refine ⟨⟨ready _ rfl, ready _ rfl, deferred _ rfl⟩, ?_⟩
  unfold Part.LogRoom
  decide +kernel

theorem test_hyps_StopInLineJudged :
    (slip.Settled ∧ slip.commitPending = false ∧ slip.DeferredLaw ∧ slip.resetLine = false ∧ slip.stopIn = false
        ∧ (slip.pair .stopin).state = .notPresent ∧ slip.mode.mode.isStopped = false)
      ∧ ((stopped .slip).Settled ∧ (stopped .slip).DeferredLaw ∧ (stopped .slip).stopIn = false
        ∧ ((stopped .slip).pair .stopin).state = .notPresent ∧ (stopped .slip).mode.mode.isStopped = true)
      ∧ (let p := ({ stopped .slip with stopIn := true } : Part).setPair .stopin ⟨.present .ring, false, true⟩
        p.Settled ∧ p.DeferredLaw ∧ p.resetLine = false ∧ p.stopIn = true
          ∧ (p.pair .stopin).state.isPresent = true)
      ∧ held.Settled ∧ held.commitPending = false ∧ held.DeferredLaw ∧ held.resetLine = true :=
  ⟨⟨(ready _ rfl).1, rfl, deferred _ rfl, by decide +kernel⟩, ⟨(ready _ rfl).1, deferred _ rfl, by decide +kernel⟩,
    ⟨(ready _ rfl).1, deferred _ rfl, by decide +kernel⟩, settled_held, rfl, deferred _ rfl, rfl⟩

/-- The ring stop cause set is that of the small deck with one pair set. -/
theorem ring_of {p : Part} {q : Pair} {r : PairRecord} (h : p.mon.pairs = (deck.setPair q r).mon.pairs) {x : Pair}
    (c : (p.pair x).stopsRing = true) : x = q := by
  by_cases e : x = q
  · exact e
  · have : p.pair x = (deck.setPair q r).pair x := by simp [Part.pair, h]
    rw [this, Part.pair_setPair_ne _ _ e, pairs_of (p := deck) rfl] at c
    cases c

theorem test_hyps_ClearForgetsWhatCeased :
    let p (left : StoppedFrom) := (stopped left).setPair .request ⟨.notPresent, false, true⟩
    let q := (stopped .slip).setPair .stopin ⟨.present .ring, false, true⟩
    let above (p : Part) : Bool := decide (p.bank.sectorStopLimit < sectorIds.countP fun k =>
      (sectorPairs k).any fun q => (p.pair q).stopsSector && (p.pair q).state.isPresent)
    (slip.Ready ∧ slip.commitPending = false ∧ above slip.acceptAny = false
        ∧ slip.acceptAny.mode.mode.isStopped = false)
      ∧ (q.Ready ∧ above q.acceptAny = false ∧ (q.acceptAny.pair .stopin).stopsRing = true
        ∧ (q.acceptAny.pair .stopin).state.isPresent = true)
      ∧ (∀ left, (p left).Ready ∧ (p left).commitPending = false ∧ above (p left).acceptAny = false
        ∧ (p left).acceptAny.mode.mode = .stopped left
        ∧ (∀ x, ((p left).acceptAny.pair x).stopsRing = true → ((p left).acceptAny.pair x).state.isPresent = false)
        ∧ (p left).acceptAny.mode.mode.isStopped = true ∧ (p left).acceptAny.bank.deglitchSpread ≠ 0
        ∧ (p left).acceptAny.bank.deglitchStarve ≠ 0)
      ∧ slip.acceptAny.bank.condMode .spread ≠ .ring ∧ slip.acceptAny.bank.condMode (.starve 0) ≠ .sector
      ∧ slip.acceptAny.bank.condMode (.starve 0) ≠ .ring := by
  refine ⟨⟨ready _ rfl, by decide +kernel⟩, ⟨ready _ rfl, by decide +kernel⟩, fun left => ?_, by decide +kernel⟩
  refine ⟨ready _ rfl, rfl, ?_, ?_, fun x c => ?_, ?_⟩
  · cases left <;> decide +kernel
  · cases left <;> decide +kernel
  rotate_left
  · cases left <;> decide +kernel
  · have e : x = .request := by
      cases left <;> exact ring_of (q := .request) (r := ⟨.notPresent, false, true⟩) rfl c
    subst e
    cases left <;> decide +kernel

theorem test_hyps_LeaseAskDecided :
    (slip.Ready ∧ slip.acceptAny.mode.mode = .slip)
      ∧ ((leased (.pending 1) hold).Ready ∧ (leased (.pending 1) hold).acceptAny.mode.mode ≠ .slip
        ∧ (leased (.pending 1) hold).acceptAny.mode.lease ≠ .none)
      ∧ (hold.Ready ∧ hold.acceptAny.mode.mode ≠ .slip ∧ hold.acceptAny.mode.lease = .none
        ∧ hold.acceptAny.mode.roundInProgress = false ∧ hold.acceptAny.mode.roundCommands = 0)
      ∧ let p : Part := { hold with mode := { hold.mode with roundInProgress := true, roundCommands := 1 } }
        p.Ready ∧ p.acceptAny.mode.mode ≠ .slip ∧ p.acceptAny.mode.lease = .none
          ∧ p.acceptAny.mode.roundInProgress = true ∧ p.acceptAny.mode.roundCommands ≠ 0 :=
  ⟨⟨ready _ rfl, by decide +kernel⟩, ⟨ready _ rfl, by decide +kernel⟩, ⟨ready _ rfl, by decide +kernel⟩,
    ready _ rfl, by decide +kernel⟩

/-- A lease held for the seconds given, its limit 300, and perhaps a round owed. -/
def leaseFor (since : Nat) (round : Bool) : Part :=
  { leased (.held 9 (86400 - BitVec.ofNat 32 since)) hold with
    mode := { (leased (.held 9 (86400 - BitVec.ofNat 32 since)) hold).mode with roundOwed := round } }

theorem test_hyps_LeaseEnds :
    (slip.Ready ∧ slip.acceptAny.mode.lease = .none)
      ∧ ((leaseFor 0 false).Ready ∧ (leaseFor 0 false).acceptAny.mode.lease ≠ .none
        ∧ (leaseFor 0 false).acceptAny.mode.roundOwed = false)
      ∧ ((leaseFor 0 true).Ready ∧ (leaseFor 0 true).acceptAny.mode.lease ≠ .none
        ∧ (leaseFor 0 true).acceptAny.mode.mode.isHold = true ∧ (leaseFor 0 true).acceptAny.mode.roundOwed = true)
      ∧ (slip.resetWait ≠ some 0 ∧ slip.CommitLaw ∧ Share.lease ∉ slip.owed)
      ∧ (∀ since round, (owing .lease (leaseFor since round)).CommitLaw
        ∧ Share.lease ∈ (owing .lease (leaseFor since round)).owed)
      ∧ age (leaseFor 299 false).clock (86400 - 299) < (leaseFor 299 false).bank.leaseLimit
      ∧ (leaseFor 300 false).mode.lease = .held 9 (86400 - 300)
      ∧ (leaseFor 300 false).bank.leaseLimit ≤ age (leaseFor 300 false).clock (86400 - 300)
      ∧ (leaseFor 300 false).mode.roundOwed = false
      ∧ (leaseFor 300 true).mode.mode.isHold = true ∧ (leaseFor 300 true).mode.roundOwed = true :=
  ⟨⟨ready _ rfl, by decide +kernel⟩, ⟨ready _ rfl, by decide +kernel⟩, ⟨ready _ rfl, by decide +kernel⟩,
    ⟨by decide, idle _ rfl, by decide +kernel⟩, fun _ _ => ⟨idle _ rfl, List.mem_singleton.2 rfl⟩, by decide +kernel⟩

theorem test_hyps_CreepTimerExpires :
    let due (l : Lease) (n : Nat) (b : Bool) : Part := owing .creep { hold with
      mode := { hold.mode with creepTimer := some n, lease := l, roundInProgress := b } }
    (hold.resetWait ≠ some 0 ∧ hold.CommitLaw ∧ Share.creep ∉ hold.owed)
      ∧ (∀ l n b, (due l n b).resetWait ≠ some 0 ∧ (due l n b).CommitLaw ∧ Share.creep ∈ (due l n b).owed)
      ∧ (due .none 1 false).mode.creepTimer ≠ some 0 ∧ (due .none 0 false).mode.creepTimer = some 0
      ∧ (due (.held 1 0) 0 false).mode.lease.code = 2 ∧ (due (.pending 1) 0 true).mode.lease.code = 1
      ∧ ((due .none 0 true).mode.lease = .none ∧ (due .none 0 true).mode.roundInProgress = true)
      ∧ (due .none 0 false).mode.lease = .none ∧ (due .none 0 false).mode.roundInProgress = false :=
  ⟨⟨by decide, idle _ rfl, by decide +kernel⟩, fun _ _ _ => ⟨fun h => (by cases h), idle _ rfl, List.mem_singleton.2 rfl⟩,
    by decide +kernel⟩

/-! The slip clock. -/

/-- Jack 0 at 1250 mm; the concrete over the sector bottom is younger than 14 400 s, but after the next second. -/
def aging (s : PairState) : Part := ({ slip with
  jacks := slip.jacks.set 0 { slip.jack 0 with position := 10 }
  sectors := slip.sectors.set 0 ⟨0, [⟨0, 600, 0, 86400 - 14400, 86400 - 14400, .entered⟩]⟩ } : Part).setPair
    (.bond 0) ⟨s, false, false⟩

/-- The small deck with the blocks given taking the second early. -/
def timely (early : List Share) (p : Part) : Part := { p with order := { resetOrder with early := early } }

/-- The part at the next second, once the blocks that take it early have done so. -/
def ticked (p : Part) : Part := p.order.early.foldl Part.takeShare { p with
  clock := p.clock + 1
  mode := { p.mode with creepTimer := p.mode.creepTimer.map (· - 1) }
  mon := { p.mon with blanking := p.mon.blanking.map (· - 1) }
  owed := allShares }

theorem test_hyps_SecondAdvances :
    let old (p : Part) (k : SectorId) : Bool := jackIds.any (fun j => (p.jackEntry j).enabled && p.sectorOf j == k)
      && (p.sector k).layers.any fun l => decide (p.sectorBottom k < l.base + l.depth)
        && decide ((p.mixEntry l.mix).maxExit < age p.clock l.first)
    let quiet (p : Part) : Prop :=
      p.Ready ∧ p.owed = [] ∧ p.commitPending = false ∧ (∀ k, old (ticked p) k = false)
        ∧ (∀ k, ((ticked p).pair (.bond k)).state = .notPresent) ∧ ((ticked p).pair .compound).state = .notPresent
        ∧ (ticked p).stoppedSectors ≤ (ticked p).bank.sectorStopLimit ∧ (ticked p).OpenLaw
    let waits (since : Nat) : Part := { slip with
      adm := ⟨[{ entry with deferred := 86401 - BitVec.ofNat 32 since }], slip.adm.occupancy⟩ }
    quiet slip
      ∧ (quiet (timely [.window] slip) ∧ Share.window ∉ (ticked (timely [.window] slip)).owed)
      ∧ (quiet (waits 120) ∧ ∀ e ∈ (ticked (waits 120)).adm.queue,
        age (ticked (waits 120)).clock e.deferred ≤ (ticked (waits 120)).bank.deferLimit)
      ∧ (quiet (waits 121) ∧ ∃ e ∈ (ticked (waits 121)).adm.queue,
        (ticked (waits 121)).bank.deferLimit < age (ticked (waits 121)).clock e.deferred)
      ∧ ((aging .notPresent).Ready ∧ (aging .notPresent).owed = [] ∧ old (ticked (aging .notPresent)) 0 = true
        ∧ (aging .notPresent).bank.deglitchBond ≠ 0 ∧ ((aging .notPresent).pair (.bond 0)).state = .notPresent)
      ∧ ((aging (.pending 86399)).Ready ∧ (aging (.pending 86399)).owed = []
        ∧ old (ticked (aging (.pending 86399))) 0 = true
        ∧ ((aging (.pending 86399)).pair (.bond 0)).state ≠ .notPresent)
      ∧ (committing.Ready ∧ committing.owed = [] ∧ (ticked committing).commitPending = true
        ∧ (ticked committing).openOf (.jack 0) = some lifting ∧ lifting.phase = .sent) := by
  intro old quiet waits
  have law (p : Part) (h : p.xt.table = [] ∧ (p.adm.queue.map (·.jack)).Nodup) : p.OpenLaw := by
    constructor
    · simp [Part.openCount, h.1]
    · simpa [Part.lifted, h.1] using h.2
  have quiets (p : Part) (r : p.Ready) (o : p.owed = []) (c : p.commitPending = false)
      (h : (∀ k, old (ticked p) k = false)
        ∧ (∀ k, ((ticked p).pair (.bond k)).state = .notPresent) ∧ ((ticked p).pair .compound).state = .notPresent
        ∧ (ticked p).stoppedSectors ≤ (ticked p).bank.sectorStopLimit)
      (l : (ticked p).xt.table = [] ∧ ((ticked p).adm.queue.map (·.jack)).Nodup) : quiet p :=
    ⟨r, o, c, h.1, h.2.1, h.2.2.1, h.2.2.2, law _ l⟩
  exact ⟨quiets _ (ready _ rfl) rfl rfl (by decide +kernel) (by decide +kernel),
    ⟨quiets _ (ready _ rfl) rfl rfl (by decide +kernel) (by decide +kernel), by decide +kernel⟩,
    ⟨quiets _ (ready _ rfl) rfl rfl (by decide +kernel) (by decide +kernel), by decide +kernel⟩,
    ⟨quiets _ (ready _ rfl) rfl rfl (by decide +kernel) (by decide +kernel), by decide +kernel⟩,
    ⟨ready _ rfl, by decide +kernel⟩, ⟨ready _ rfl, by decide +kernel⟩, ready_committing, by decide +kernel⟩

/-! Shares of an advance. -/

/-- The law of the transaction table for a part that holds nothing open. -/
theorem open_of (p : Part) (t : p.xt.table = []) (q : p.adm.queue = []) : p.OpenLaw := by
  constructor <;> simp [Part.openCount, Part.lifted, t, q]

/-- A deferred LIFT of jack 1, waiting for the seconds given; the defer limit is 120. -/
def waiting (since : Nat) : Part := owing .deferred { slip with
  adm := ⟨[{ entry with deferred := 86400 - BitVec.ofNat 32 since }], slip.adm.occupancy⟩ }

/-- A LIFT of jack 1 that is overdue, and one of jack 0 that is not. -/
def queueing : Part := owing .deferred { slip with
  adm := ⟨[{ entry with deferred := 86400 - 121 }, ⟨0, 1, 1, 6, 86399, .group⟩], slip.adm.occupancy⟩ }

theorem test_hyps_DeferredEntriesExpire :
    (slip.resetWait ≠ some 0 ∧ slip.CommitLaw ∧ Share.deferred ∉ slip.owed)
      ∧ ((owing .deferred slip).CommitLaw ∧ Share.deferred ∈ (owing .deferred slip).owed ∧ slip.adm.queue = [])
      ∧ ((waiting 121).CommitLaw ∧ Share.deferred ∈ (waiting 121).owed ∧ (waiting 121).entryStands entry = true
        ∧ (waiting 121).bank.deferLimit < age 86400 (86400 - 121))
      ∧ (waiting 120).OpenLaw ∧ age 86400 (86400 - 120) ≤ (waiting 120).bank.deferLimit
      ∧ (queueing.CommitLaw ∧ Share.deferred ∈ queueing.owed ∧ queueing.OpenLaw) :=
  ⟨⟨by decide, idle _ rfl, by decide +kernel⟩, ⟨idle _ rfl, by decide +kernel⟩, ⟨idle _ rfl, by decide +kernel⟩,
    by unfold Part.OpenLaw; decide +kernel, by decide +kernel,
    idle _ rfl, by decide +kernel, by unfold Part.OpenLaw; decide +kernel⟩

/-- Of the two the overdue LIFT is refused EXPIRED, and the other, which nothing holds any more, is admitted. -/
theorem test_queue_examined :
    let p : Part := Part.repassed true queueing
    p.adm.queue = [] ∧ p.sendQueue.map (·.payload) = [[2, 1, 7, 16]] ∧ p.xt.table.map (·.task) = [.lift 0] := by
  decide +kernel

theorem test_hyps_StrikesDeclareDeckLost :
    let strikes (p : Part) : Prop :=
      p.sup.active = true ∧ p.bank.supKind = .token ∧ p.sup.deckLost = false
        ∧ p.bank.strikes ≤ min (p.sup.violations + 1) 255 ∧ (p.pair .deck).state = .notPresent
        ∧ p.bank.condMode .deck ≠ .ring ∧ p.bank.condMode .spread ≠ .ring ∧ p.bank.condMode (.starve 0) ≠ .sector
        ∧ p.bank.condMode (.starve 0) ≠ .ring ∧ p.stoppedSectors ≤ p.bank.sectorStopLimit
    let held : Part := { hold with sup := ⟨true, 0, 86399, 86399, 2, false⟩ }
    ((windowed 0 2 false).Ready ∧ strikes (windowed 0 2 false) ∧ (windowed 0 2 false).mode.mode = .slip
        ∧ age (windowed 0 2 false).clock (windowed 0 2 false).sup.lastAccepted < (windowed 0 2 false).bank.windowMin)
      ∧ (held.Ready ∧ strikes held ∧ held.mode.mode.isHold = true ∧ (1 : Byte).toNat ≠ held.sup.expected.toNat
        ∧ held.bank.windowMin ≤ age held.clock held.sup.lastAccepted)
      ∧ (owing .window (windowed 10 2 false)).resetWait ≠ some 0
      ∧ Share.window ∈ (owing .window (windowed 10 2 false)).owed ∧ strikes (windowed 10 2 false)
      ∧ (windowed 10 2 false).bank.windowMax ≤ age (windowed 10 2 false).clock (windowed 10 2 false).sup.windowStart :=
  ⟨⟨ready _ rfl, by decide +kernel⟩, ⟨ready _ rfl, by decide +kernel⟩, by decide +kernel⟩

/-- A commit pending for the seconds given; the commit wait is 30. -/
def commitFor (since : Nat) : Part := owing .commitWait { withOpen lifting slip with
  cfg := { slip.cfg with commit := .pending 3 (86400 - BitVec.ofNat 32 since) } }

theorem test_hyps_CommitWaitCancels :
    (slip.resetWait ≠ some 0 ∧ slip.CommitLaw ∧ Share.commitWait ∉ slip.owed)
      ∧ (∀ n, (commitFor n).resetWait ≠ some 0 ∧ (commitFor n).CommitLaw ∧ Share.commitWait ∈ (commitFor n).owed
        ∧ (commitFor n).adm.queue = [] ∧ (commitFor n).mode.roundList = []
        ∧ (commitFor n).cfg.commit = .pending 3 (86400 - BitVec.ofNat 32 n))
      ∧ age (commitFor 29).clock (86400 - 29) ≠ (commitFor 29).bank.commitWait
      ∧ age (commitFor 30).clock (86400 - 30) = (commitFor 30).bank.commitWait
      ∧ (let p : Part := { commitFor 30 with
          adm := ⟨[entry], (commitFor 30).adm.occupancy⟩, mode := { (commitFor 30).mode with roundList := [1] } }
        p.CommitLaw ∧ p.OpenLaw ∧ p.adm.queue ≠ [] ∧ p.mode.roundList ≠ []) :=
  ⟨⟨by decide, idle _ rfl, by decide +kernel⟩,
    fun _ => ⟨fun h => (by cases h), fun _ h => (by cases h), List.mem_singleton.2 rfl, rfl, rfl, rfl⟩,
    by decide +kernel, by decide +kernel, fun _ h => (by cases h), by unfold Part.OpenLaw; decide +kernel,
    by decide +kernel⟩

/-- SPREAD, under the mode given, PENDING for the seconds given; its deglitch time is 10. -/
def pendingSpread (mode since : Nat) : Part :=
  (owing .deglitch { slip with
    cfg := { slip.cfg with active := { bank with profile := bank.profile.set 26 mode } } }).setPair .spread
    ⟨.pending (86400 - BitVec.ofNat 32 since), false, false⟩

/-- BOND of sector 0, under SECTOR, PENDING for 30 seconds, its deglitch time. -/
def pendingBond : Part :=
  (owing .deglitch { slip with
    cfg := { slip.cfg with active := { bank with profile := bank.profile.set 27 2 } } }).setPair (.bond 0)
    ⟨.pending (86400 - 30), false, false⟩

theorem test_hyps_DeglitchedPairAsserts :
    (slip.resetWait ≠ some 0 ∧ slip.CommitLaw ∧ slip.DeferredLaw ∧ Share.deglitch ∉ slip.owed
        ∧ slip.stoppedSectors ≤ slip.bank.sectorStopLimit)
      ∧ (∀ m n, (pendingSpread m n).resetWait ≠ some 0 ∧ (pendingSpread m n).CommitLaw
        ∧ (pendingSpread m n).DeferredLaw ∧ Share.deglitch ∈ (pendingSpread m n).owed
        ∧ ((pendingSpread m n).pair .spread).state = .pending (86400 - BitVec.ofNat 32 n)
        ∧ (pendingSpread m n).mon.log.length + 3 ≤ 32 ∧ ((pendingSpread m n).pair .compound).state = .notPresent)
      ∧ age (pendingSpread 1 9).clock (86400 - 9) < (pendingSpread 1 9).bank.deglitch .spread
      ∧ (pendingSpread 1 10).bank.deglitch .spread ≤ age (pendingSpread 1 10).clock (86400 - 10)
      ∧ (pendingSpread 0 10).bank.condMode .spread = .ignore ∧ (pendingSpread 1 10).bank.condMode .spread = .warn
      ∧ (pendingSpread 3 10).bank.condMode .spread = .ring
      ∧ (pendingSpread 3 10).mode.mode.isStopped = false
      ∧ (pendingSpread 3 10).stoppedSectors ≤ (pendingSpread 3 10).bank.sectorStopLimit
      ∧ (pendingBond.resetWait ≠ some 0 ∧ pendingBond.CommitLaw ∧ pendingBond.DeferredLaw
        ∧ Share.deglitch ∈ pendingBond.owed ∧ (pendingBond.pair (.bond 0)).state = .pending (86400 - 30)
        ∧ pendingBond.bank.deglitch (.bond 0) ≤ age pendingBond.clock (86400 - 30)
        ∧ pendingBond.bank.condMode (.bond 0) = .sector ∧ pairSector (.bond 0) = some 0
        ∧ pendingBond.sectorStopped 0 = false) := by
  refine ⟨⟨by decide +kernel, idle _ rfl, deferred _ rfl, by decide +kernel⟩, fun m n => ?_, by decide +kernel,
    by decide +kernel, by decide +kernel, by decide +kernel, by decide +kernel, by decide +kernel, by decide +kernel,
    by decide +kernel, idle _ rfl, deferred _ rfl, by decide +kernel⟩
  exact ⟨fun h => (by cases h), idle _ rfl, deferred _ rfl, List.mem_singleton.2 rfl,
    congrArg PairRecord.state (Part.pair_setPair _ _ _), Nat.le_of_ble_eq_true rfl,
    (congrArg PairRecord.state (Part.pair_setPair_ne _ _ (by decide))).trans
      (congrArg PairRecord.state (pairs_of (p := slip) rfl .compound))⟩

/-- STARVE of sector 0, under RING, PENDING for 30 seconds, its deglitch time. -/
def pendingStarve : Part :=
  (owing .deglitch { slip with
    cfg := { slip.cfg with active := { bank with profile := bank.profile.set 28 3 } } }).setPair (.starve 0)
    ⟨.pending (86400 - 30), false, false⟩

/-- A full log without room, one with a record of the pair, one with a record that has ceased, one with a WARN record; and
a pair that its own ring stop makes cease. -/
theorem test_hyps_DeglitchedPairAsserts_log :
    let room (p : Part) : Prop := p.LogRoom (.bond 0)
    ¬ room (logging 32 [] pendingBond)
      ∧ room (logging 31 [⟨.bond 0, .ring, none, 1, 1, 1, true⟩] pendingBond)
      ∧ room (logging 31 [⟨.deck, .ring, none, 1, 1, 1, false⟩] pendingBond)
      ∧ room (logging 31 [⟨.deck, .warn, none, 1, 1, 1, true⟩] pendingBond)
      ∧ (pendingStarve.resetWait ≠ some 0 ∧ pendingStarve.CommitLaw ∧ pendingStarve.DeferredLaw
        ∧ Share.deglitch ∈ pendingStarve.owed ∧ (pendingStarve.pair (.starve 0)).state = .pending (86400 - 30)
        ∧ pendingStarve.bank.deglitch (.starve 0) ≤ age pendingStarve.clock (86400 - 30)
        ∧ pendingStarve.bank.condMode (.starve 0) = .ring ∧ pendingStarve.mode.mode.isStopped = false
        ∧ pendingStarve.stoppedSectors ≤ pendingStarve.bank.sectorStopLimit) :=
  ⟨by unfold Part.LogRoom; decide +kernel, by unfold Part.LogRoom; decide +kernel, by unfold Part.LogRoom; decide +kernel,
    by unfold Part.LogRoom; decide +kernel, by decide +kernel, idle _ rfl, deferred _ rfl, by decide +kernel⟩

/-- Resume blanking at the count given. -/
def blanked (n : Nat) (p : Part) : Part := owing .blanking { p with mon := { p.mon with blanking := some n } }

theorem test_hyps_ResumeBlankingEnds :
    (slip.resetWait ≠ some 0 ∧ slip.CommitLaw ∧ Share.blanking ∉ slip.owed)
      ∧ ((blanked 1 slip).CommitLaw ∧ Share.blanking ∈ (blanked 1 slip).owed ∧ (blanked 1 slip).mon.blanking ≠ some 0)
      ∧ let p := blanked 0 slip
        p.CommitLaw ∧ Share.blanking ∈ p.owed ∧ p.mon.blanking = some 0 ∧ p.bank.deglitchSpread ≠ 0
          ∧ p.bank.deglitchStarve ≠ 0 ∧ p.stoppedSectors ≤ p.bank.sectorStopLimit ∧ p.mode.mode = .slip
          ∧ p.spread ≤ p.bank.spreadAlarm
          ∧ (∃ k j, (p.jackEntry j).enabled = true ∧ p.sectorOf j = k
            ∧ (p.sector k).top < p.sectorBottom k + p.bank.minFill)
          ∧ (let q := blanked 0 (slip.setJack 0 { slip.jack 0 with position := 15 })
            q.mode.mode ≠ .setup ∧ q.bank.spreadAlarm < q.spread ∧ (q.pair .spread).state = .notPresent) :=
  ⟨⟨by decide, idle _ rfl, by decide +kernel⟩, ⟨idle _ rfl, by decide +kernel⟩, idle _ rfl, by decide +kernel,
    by decide +kernel, by decide +kernel, by decide +kernel, by decide +kernel, by decide +kernel, by decide +kernel,
    ⟨1, 1, by decide +kernel⟩, by decide +kernel⟩

/-! Jacks and layers. -/

/-- Jack 0 far above jack 1: the spread is above the alarm limit. -/
def far (p : Part) : Part := p.setJack 0 { p.jack 0 with position := 17 }

/-- SPREAD is judged outside SETUP, STARVE in SLIP and HOLD, neither while blanking runs; BOND always (R119, R120). -/
theorem test_inputs :
    let old := ticked (aging .notPresent)
    (slip.InputTrue (far slip) .spread ∧ ¬ slip.InputTrue slip .spread ∧ ¬ deck.InputTrue (far deck) .spread
        ∧ ¬ (blanked 5 slip).InputTrue (far slip) .spread ∧ (stopped .slip).InputTrue (far slip) .spread)
      ∧ (slip.InputTrue slip (.starve 1) ∧ ¬ slip.InputTrue slip (.starve 0)
        ∧ ¬ (stopped .slip).InputTrue slip (.starve 1) ∧ ¬ (blanked 5 slip).InputTrue slip (.starve 1))
      ∧ old.InputTrue old (.bond 0) ∧ ¬ slip.InputTrue slip (.bond 0) ∧ ¬ slip.InputTrue slip (.bond 2) := by
  simp only [Part.InputTrue, Part.InUse]
  refine ⟨⟨?_, ?_, ?_, ?_, ?_⟩, ⟨?_, ?_, ?_, ?_⟩, ?_, ?_, ?_⟩ <;> decide +kernel

/-- What a jack's report has MON judge last: SPREAD waits, or asserts where it has no deglitch time (R119, R125). -/
theorem test_spread_judged :
    let at0 : Part := { slip with cfg := { slip.cfg with active := { bank with profile := bank.profile.set 23 0 } } }
    let told (p : Part) : Part := (far p).event [metJudging p 0, spreadJudging, compoundJudging]
    ((told slip).pair .spread).state = .pending 86400 ∧ ((told at0).pair .spread).state = .present .warn
      ∧ (told at0).mon.log.map (·.pair) = [.spread] := by decide +kernel

/-- The small deck with jack 0 in a state. -/
def jackIn (x : JackState) (p : Part) : Part := p.setJack 0 { p.jack 0 with state := x }

/-- What the statements about jacks ask of a part beside their own checks. -/
def accepts (p : Part) : Prop := p.Ready ∧ p.acceptAny.LayerLaw ∧ p.acceptAny.Calm

theorem accepts_of (p : Part) (h : (p.owed, p.resetWait, p.cfg.commit, p.resetLine) = ([], none, .idle, false))
    (e : p.acceptAny = p) (a : p.cfg.active = bank)
    (l : ∀ k : SectorId, (p.sector k).layers.length ≤ Config.maxLayers
      ∧ isStacked (p.sector k).floor (p.sector k).layers = true)
    (r : p.adm.queue = [] ∧ p.mode.roundInProgress = false ∧ p.mode.roundList = []
      ∧ p.stoppedSectors ≤ p.bank.sectorStopLimit) : accepts p := by
  refine ⟨ready p h, ?_, ?_⟩
  · rw [e]; exact layers p l
  · rw [e]; exact calm p a r

theorem accepts_slip (x : JackState) : accepts (jackIn x slip) :=
  accepts_of _ rfl rfl rfl (by cases x <;> (try rename FaultCause => c; cases c) <;> decide +kernel)
    (by cases x <;> (try rename FaultCause => c; cases c) <;> decide +kernel)

theorem accepts_deck (x : JackState) : accepts (jackIn x deck) :=
  accepts_of _ rfl rfl rfl (by cases x <;> (try rename FaultCause => c; cases c) <;> decide +kernel)
    (by cases x <;> (try rename FaultCause => c; cases c) <;> decide +kernel)

/-- At most 4 jacks in SPLICE by default; jack 95 is ABSENT. -/
theorem test_hyps_SpliceBeginAndEnd :
    96 ≤ (96 : Byte).toNat ∧ (95 : Byte).toNat < 96 ∧ (0 : BitVec 16).toNat < 1 ∧ 2000 < (2001 : BitVec 16).toNat
      ∧ (1 ≤ (2000 : BitVec 16).toNat ∧ (2000 : BitVec 16).toNat ≤ 2000) ∧ 1 ≤ (1 : BitVec 16).toNat
      ∧ (slip.jack 95).state = .absent
      ∧ (accepts (jackIn .active slip) ∧ (slip.jack 0).state = .active ∧ slip.openOf (.jack 0) = none
        ∧ slip.entryOf 0 = none ∧ slip.spliceCount ≠ slip.bank.spliceLimit
        ∧ ∀ i : JackId, (slip.jack i).state ≠ .splice)
      ∧ ((withOpen lifting slip).openOf (.jack 0)).isSome = true
      ∧ (accepts (jackIn .splice slip) ∧ ((jackIn .splice slip).jack 0).state = .splice) := by
  exact ⟨by decide, by decide, by decide, by decide, by decide, by decide, by decide +kernel,
    ⟨accepts_slip _, by decide +kernel⟩, by decide +kernel, accepts_slip _, by decide +kernel⟩

theorem test_hyps_RodAndPositionSet :
    96 ≤ (96 : Byte).toNat ∧ 2000 < (2001 : BitVec 16).toNat ∧ (0 : BitVec 16).toNat ≤ 2000
      ∧ (2000 : BitVec 16).toNat ≤ 2000 ∧ slip.acceptAny.mode.mode = .slip
      ∧ (accepts (jackIn .active deck) ∧ ((jackIn .active deck).acceptAny.jack 0).state ≠ .absent
        ∧ (jackIn .active deck).acceptAny.mode.mode = .setup ∧ (jackIn .active deck).acceptAny.openOf (.jack 0) = none)
      ∧ ((jackIn .absent deck).acceptAny.jack 0).state = .absent
      ∧ ((withOpen lifting hold).acceptAny.openOf (.jack 0)).isSome = true ∧ hold.acceptAny.mode.mode.isHold = true :=
  ⟨by decide, by decide, by decide, by decide, by decide +kernel, ⟨accepts_deck _, by decide +kernel⟩, by decide +kernel⟩

/-- What IsolateStillsJack and NodeStateAndTrouble ask of a calm part with a deck LIFT in RESEND. -/
def inResend : Prop :=
  let p := withOpen resending slip
  p.Ready ∧ p.OpenLaw ∧ p.LayerLaw ∧ p.Calm ∧ p.findJack 1 = some 0 ∧ (p.jack 0).state = .active
    ∧ p.openOf (.jack 0) = some resending ∧ resending.phase = .resend ∧ resending.origin = .deck 5

theorem inResend_holds : inResend :=
  ⟨ready _ rfl, open_one _ _ rfl rfl, layers _ (by decide +kernel), calm _ rfl (by decide +kernel), by decide +kernel⟩

theorem test_hyps_IsolateStillsJack :
    (0 : Byte).toNat < 1 ∧ 126 < (127 : Byte).toNat ∧ (slip.findJack 97 = none ∧ (slip.findFeed 97).isSome = true)
      ∧ (slip.findJack 126 = none ∧ slip.findFeed 126 = none)
      ∧ (slip.findJack 1 = some 0 ∧ ((jackIn .isolated slip).jack 0).state = .isolated)
      ∧ (accepts (jackIn .active slip) ∧ (jackIn .active slip).findJack 1 = some 0
        ∧ (jackIn .active slip).openOf (.jack 0) = none)
      ∧ ((withOpen lifting slip).openOf (.jack 0) = some lifting ∧ lifting.phase = .sent)
      ∧ ((withOpen lifting slip).OpenLaw ∧ (withOpen lifting slip).LayerLaw) ∧ inResend :=
  ⟨by decide, by decide, by decide +kernel, by decide +kernel, by decide +kernel, ⟨accepts_slip _, by decide +kernel⟩,
    by decide +kernel, ⟨open_one _ _ rfl rfl, layers _ (by decide +kernel)⟩, inResend_holds⟩

theorem test_hyps_RestoreReturnsNode :
    (slip.Ready ∧ slip.findJack 126 = none ∧ slip.findFeed 126 = none)
      ∧ (slip.findJack 1 = some 0 ∧ (slip.jack 0).state = .active)
      ∧ (accepts (jackIn (.faulted .silent) slip) ∧ (jackIn (.faulted .silent) slip).findJack 1 = some 0
        ∧ ((jackIn (.faulted .silent) slip).jack 0).state = .faulted .silent
        ∧ (jackIn (.faulted .silent) slip).openOf (.jack 0) = none)
      ∧ (withOpen lifting slip).openOf (.jack 0) ≠ none
      ∧ (slip.findJack 97 = none ∧ slip.findFeed 97 = some 0 ∧ (slip.feed 0).state ≠ .faulted)
      ∧ ((slip.setFeed 0 ⟨.faulted, none⟩).Ready ∧ ((slip.setFeed 0 ⟨.faulted, none⟩).feed 0).state = .faulted
        ∧ (slip.setFeed 0 ⟨.faulted, none⟩).openOf (.feed 0) = none)
      ∧ (withOpen pouring slip).openOf (.feed 0) ≠ none :=
  ⟨⟨ready _ rfl, by decide +kernel⟩, by decide +kernel, ⟨accepts_slip _, by decide +kernel⟩, by decide +kernel,
    by decide +kernel, ⟨ready _ rfl, by decide +kernel⟩, by decide +kernel⟩

theorem test_hyps_LayerEnterAppends :
    24 ≤ (24 : Byte).toNat ∧ (23 : Byte).toNat < 24 ∧ (0 : BitVec 16).toNat < 1 ∧ 2000 < (2001 : BitVec 16).toNat
      ∧ (1 ≤ (2000 : BitVec 16).toNat ∧ (2000 : BitVec 16).toNat ≤ 2000) ∧ 8 ≤ (8 : Byte).toNat
      ∧ (7 : Byte).toNat < 8 ∧ deck.acceptAny.clock.toNat < (86401 : BitVec 24).toNat
      ∧ (86400 : BitVec 24).toNat ≤ deck.acceptAny.clock.toNat
      ∧ (slip.acceptAny.mode.mode ≠ .setup ∧ slip.acceptAny.mode.mode.isHold = false)
      ∧ (accepts (jackIn .active deck) ∧ (jackIn .active deck).acceptAny.mode.mode = .setup
        ∧ ((jackIn .active deck).acceptAny.sector 0).layers.length < 16
        ∧ (jackIn .active deck).acceptAny.formTop 0 < ((jackIn .active deck).acceptAny.sector 0).top + 2000
        ∧ ¬ (jackIn .active deck).acceptAny.formTop 0 < ((jackIn .active deck).acceptAny.sector 0).top + 1)
      ∧ 16 ≤ ((deck.setSector 0 ⟨0, List.replicate 16 ⟨0, 1, 0, 0, 0, .entered⟩⟩).acceptAny.sector 0).layers.length := by
  exact ⟨by decide, by decide, by decide, by decide, by decide, by decide, by decide, by decide +kernel,
    by decide +kernel, by decide +kernel, ⟨accepts_deck _, by decide +kernel⟩, by decide +kernel⟩

/-! Node replies. -/

theorem layers_withOpen : (withOpen lifting slip).LayerLaw := layers _ (by decide +kernel)

/-- The pressure limit is 450 bar, two strikes fault, the rod warns at 40. -/
theorem test_hyps_LiftedMovesJack :
    let p := withOpen lifting slip
    p.Ready ∧ p.LayerLaw ∧ p.openAt 1 = some lifting ∧ lifting.task = .lift 0
      ∧ lifting.tag = 1 ∧ (p.jack 0).state ≠ .absent ∧ ((1 : Byte).toNat = 1 ∧ (126 : Byte).toNat ≤ 126)
      ∧ (let q := withOpen lifting (slip.setJack 0 { slip.jack 0 with rod := 41 })
        q.Ready ∧ q.openAt 1 = some lifting ∧ 0 < (q.jack 0).rod ∧ (q.jack 0).rod - 1 ≤ q.bank.rodWarn
          ∧ (q.jack 0).rodLow = false)
      ∧ ((withOpen lifting (jackIn .absent slip)).Ready ∧ ((withOpen lifting (jackIn .absent slip)).jack 0).state = .absent) :=
  ⟨ready _ rfl, layers_withOpen, by decide +kernel, rfl, rfl, by decide +kernel, by decide,
    ⟨ready _ rfl, by decide +kernel⟩, ready _ rfl, by decide +kernel⟩

/-- A device LIFT of jack 0 in flight. -/
def device : Command := ⟨.lift 0, .device, 1, 0, 1, 1, .sent, 86400, 0, none, none⟩

/-- The small deck in HOLD, the round's one command open, a lease asked for. -/
def round : Part := { withOpen device hold with
  mode := { hold.mode with roundInProgress := true, roundCommands := 1, lease := .pending 9 } }

/-- What LiftedClosesOrContinues asks of a part that holds one LIFT of jack 0. -/
def lifts (p : Part) (c : Command) : Prop :=
  p.Ready ∧ p.OpenLaw ∧ p.Soft ∧ p.adm.queue = [] ∧ p.LayerLaw ∧ p.openAt 1 = some c
    ∧ c.task = .lift 0 ∧ c.tag = 1 ∧ 0 ∉ p.mode.roundList
    ∧ ¬(p.mode.roundInProgress = true ∧ p.mode.roundList = [] ∧ p.mode.roundCommands = 0)

theorem lifts_of (c : Command) (h : c.task = .lift 0 ∧ c.tag = 1) : lifts (withOpen c slip) c := by
  obtain ⟨t, g⟩ := h
  refine ⟨ready _ rfl, open_one _ c rfl rfl, soft _ rfl (show slip.stoppedSectors ≤ slip.bank.sectorStopLimit by decide +kernel), rfl,
    layers slip (by decide +kernel), ?_, t, g, (fun h => (by cases h)), fun h => (by cases h.1)⟩
  have a : ((withOpen c slip).addrOf c.subject).val = 1 := by
    rw [Command.subject, t]
    exact (show (slip.addrOf (.jack 0)).val = 1 by decide +kernel)
  simp only [Part.openAt, show (withOpen c slip).xt.table = [c] from rfl, List.find?_cons, a]
  rfl

/-- Of the LIFT's three strokes two are asked of the node: 2 done continue, 1 is short; the last of three completes; one
that is being stilled, or whose jack the second strike faults, ends. A device LIFT of one stroke completes. -/
theorem test_hyps_LiftedClosesOrContinues :
    let last : Command := { lifting with done := 2, size := 1 }
    lifts (withOpen lifting slip) lifting
      ∧ (lifting.done + min 2 lifting.size ≠ lifting.asked ∧ min 2 lifting.size = lifting.size ∧ lifting.ending = none)
      ∧ (lifting.done + min 1 lifting.size ≠ lifting.asked ∧ min 1 lifting.size < lifting.size)
      ∧ (lifts (withOpen last slip) last ∧ last.done + min 1 last.size = last.asked)
      ∧ lifts (withOpen stilled slip) stilled
      ∧ (let p := slip.setJack 0 { slip.jack 0 with strikes := 1 }
        p.bank.pressureStrikes ≤ min ((p.jack 0).strikes + 1) 4 ∧ p.bank.pressureLimit < (451 : BitVec 16).toNat)
      ∧ (lifts round device ∧ device.done + min 1 device.size = device.asked)
      ∧ (let p : Part := { withOpen last slip with adm := ⟨[entry], (withOpen last slip).adm.occupancy⟩ }
        p.Ready ∧ p.OpenLaw ∧ p.LayerLaw ∧ p.openAt 1 = some last ∧ p.adm.queue ≠ []) :=
  ⟨lifts_of _ ⟨rfl, rfl⟩, by decide, by decide, ⟨lifts_of _ ⟨rfl, rfl⟩, by decide⟩, lifts_of _ ⟨rfl, rfl⟩, by decide +kernel,
    ⟨⟨ready _ rfl, open_one _ _ rfl rfl,
      soft _ rfl (show hold.stoppedSectors ≤ hold.bank.sectorStopLimit by decide +kernel), rfl,
      layers _ (by decide +kernel), by decide +kernel⟩, by decide⟩, ready _ rfl, by unfold Part.OpenLaw; decide +kernel,
    layers _ (by decide +kernel), by decide +kernel⟩

/-- The close of a round's last command ends the round, and the end of the event grants the lease (R114, R115, R148). -/
theorem test_round_ends :
    let t := round.leaseGranted (round.closeTold .device)
    t.mode.roundInProgress = false ∧ t.mode.lease = .held 9 86400 ∧ t.sendQueue.map (·.payload) = [[20, 5]] := by
  decide +kernel

/-- A ring stop that closes a DEVICE LIFT and, after it in the table, a DECK POUR: LEASE-GRANTED follows the POUR's ENDED
(R148, log 39). A stop that ends a round with no command open grants as well (log 11). -/
theorem test_lease_follows_answers :
    let both : Part := { round with xt := { round.xt with
      table := [{ device with phase := .resend }, { pouring with phase := .resend }] } }
    let ended : Part := { round with
      xt := { round.xt with table := [] }
      mode := { round.mode with roundCommands := 0, roundList := [1] } }
    let stop (p : Part) : Part := p.finish (p.event [assertion .request none])
    (stop both).sendQueue.map (·.payload) = [[97, 6, 0, 0, 18], [20, 5]]
      ∧ (stop both).mode.lease = .held 9 86400
      ∧ (stop ended).mode.roundInProgress = false ∧ (stop ended).mode.lease = .held 9 86400 := by decide +kernel

/-- The small deck with tag 7 of node n abandoned for the subject given. -/
def abandoned (n : Addr) (x : Subject) : Part := { slip with
  xt := ⟨[], slip.xt.nodes.set n ⟨7, some ⟨7, x⟩⟩⟩ }

theorem test_hyps_LateAndUnsolicitedReplies :
    ((1 : Addr).val = (1 : Byte).toNat ∧ (1 : Addr) ≠ 0 ∧ (126 : Addr).val = (126 : Byte).toNat)
      ∧ (slip.Ready ∧ slip.openAt 1 = none ∧ (slip.nodeTags 1).abandoned = none)
      ∧ ((abandoned 1 (.jack 0)).Ready ∧ (abandoned 1 (.jack 0)).openAt 1 = none
        ∧ ((abandoned 1 (.jack 0)).nodeTags 1).abandoned = some ⟨7, .jack 0⟩
        ∧ (abandoned 1 (.jack 0)).LayerLaw)
      ∧ (abandoned 97 (.feed 0)).Ready ∧ (abandoned 97 (.feed 0)).openAt 97 = none
      ∧ ((abandoned 97 (.feed 0)).nodeTags 97).abandoned = some ⟨7, .feed 0⟩
      ∧ (abandoned 97 (.feed 0)).openOf (.feed 0) = none
      ∧ 24 ≤ (24 : Byte).toNat ∧ 8 ≤ (8 : Byte).toNat
      ∧ ((abandoned 97 (.feed 0)).bank.deglitchBond ≠ 0 ∧ (abandoned 97 (.feed 0)).bank.deglitchStarve ≠ 0
        ∧ (abandoned 97 (.feed 0)).stoppedSectors ≤ (abandoned 97 (.feed 0)).bank.sectorStopLimit)
      ∧ (abandoned 97 (.feed 0)).OpenLaw ∧ ((abandoned 97 (.feed 0)).sectorEntry 0).configured = true :=
  ⟨by decide, ⟨ready _ rfl, by decide +kernel⟩, ⟨ready _ rfl, by decide +kernel, by decide +kernel,
    layers _ (by decide +kernel)⟩, ready _ rfl, by decide +kernel, by decide +kernel, by decide +kernel,
    by decide, by decide, by decide +kernel, open_of _ rfl rfl, by decide +kernel⟩

theorem test_hyps_PouredPlacesAndCloses :
    let p := withOpen pouring slip
    p.Ready ∧ p.OpenLaw ∧ p.openAt 97 = some pouring ∧ pouring.task = .pour 0 0 ∧ pouring.tag = 1
      ∧ pouring.origin = .deck 6 ∧ (p.feed 0).state = .pouring ∧ 24 ≤ (24 : Byte).toNat ∧ 8 ≤ (8 : Byte).toNat
      ∧ (0 : SectorId).val ≠ (1 : Byte).toNat ∧ pouring.asked < (21 : BitVec 16).toNat
      ∧ ({ p with adm := ⟨[entry], p.adm.occupancy⟩ } : Part).OpenLaw
      ∧ (p.bank.deglitchBond ≠ 0 ∧ p.bank.deglitchStarve ≠ 0 ∧ p.stoppedSectors ≤ p.bank.sectorStopLimit
        ∧ (p.sectorEntry 0).configured = true ∧ (0 : BitVec 16).toNat = 0) :=
  ⟨ready _ rfl, open_one _ _ rfl rfl, by decide +kernel, rfl, rfl, rfl, by decide +kernel, by decide, by decide,
    by decide, by decide, by unfold Part.OpenLaw; decide +kernel, by decide +kernel⟩

/-- The sector's 600 mm may grow within 60 s and up to 65 535 mm. -/
theorem test_hyps_PlacementsGrowOrAppend :
    (bank.sectors[0]).configured = true ∧ (⟨0, []⟩ : Sector).layers = []
      ∧ (let l : Layer := ⟨0, 600, 0, 100, 100, .entered⟩
        (160 - l.last).toNat ≤ bank.mergeInterval ∧ ¬ (161 - l.last).toNat ≤ bank.mergeInterval
          ∧ l.depth + 64935 ≤ 65535 ∧ ¬ l.depth + 64936 ≤ 65535 ∧ ([] : List Layer).length + 1 < 16
          ∧ 16 ≤ (List.replicate 15 l).length + 1 ∧ (List.replicate 14 l).length + 1 < 16)
      ∧ (let x : Sector := ⟨400, [⟨400, 600, 0, 100, 100, .entered⟩, ⟨1000, 1, 0, 100, 100, .entered⟩]⟩
        x.Lawful ∧ 400 ≤ x.floor ∧ x.top < 1002 ∧ x.exitLayer 1001 = some ⟨1000, 1, 0, 100, 100, .entered⟩) := by
  refine ⟨by decide +kernel, by decide +kernel, by decide +kernel,
    ⟨by decide +kernel, stacked_of _ _ (by decide +kernel)⟩, by decide +kernel⟩

/-- The retry limit is 3. -/
theorem test_hyps_WaitResendsOrCloses :
    let at3 : Command := { lifting with retries := 3 }
    let two : Command := { lifting with retries := 2 }
    let pourAt3 : Command := { pouring with retries := 3 }
    ((withOpen lifting slip).Ready ∧ lifting.tag ≠ 2 ∧ (withOpen lifting slip).openAt 1 = some lifting)
      ∧ ((withOpen resending slip).Ready ∧ (withOpen resending slip).openAt 1 = some resending
        ∧ resending.phase = .resend)
      ∧ ((withOpen two slip).Ready ∧ (withOpen two slip).openAt 1 = some two ∧ two.ending = none
        ∧ two.retries < (withOpen two slip).bank.retryLimit)
      ∧ ((withOpen at3 slip).Ready ∧ (withOpen at3 slip).openAt 1 = some at3
        ∧ (withOpen at3 slip).bank.retryLimit ≤ at3.retries ∧ (withOpen at3 slip).OpenLaw)
      ∧ ((withOpen stilled slip).Ready ∧ (withOpen stilled slip).openAt 1 = some stilled
        ∧ stilled.ending.map Ending.reason = some .stilled)
      ∧ ((withOpen pourAt3 slip).Ready ∧ (withOpen pourAt3 slip).openAt 97 = some pourAt3)
      ∧ (slip.resetWait ≠ some 0 ∧ slip.CommitLaw ∧ Share.transactions ∉ slip.owed)
      ∧ (owing .transactions (withOpen resending slip)).CommitLaw
      ∧ Share.transactions ∈ (owing .transactions (withOpen resending slip)).owed
      ∧ age 86400 resending.sent = 2 :=
  ⟨⟨ready _ rfl, by decide +kernel⟩, ⟨ready _ rfl, by decide +kernel⟩, ⟨ready _ rfl, by decide +kernel⟩,
    ⟨ready _ rfl, by decide +kernel, by decide +kernel, open_one _ _ rfl rfl⟩, ⟨ready _ rfl, by decide +kernel⟩,
    ⟨ready _ rfl, by decide +kernel⟩, ⟨by decide, idle _ rfl, by decide +kernel⟩, idle _ rfl, by decide +kernel⟩

/-- FEED under RING. -/
def feedRing (p : Part) : Part :=
  { p with cfg := { p.cfg with active := { bank with profile := bank.profile.set 33 3 } } }

theorem test_hyps_NodeStateAndTrouble :
    (slip.Ready ∧ slip.findJack 1 = some 0 ∧ (slip.jack 0).state = .active ∧ slip.OpenLaw
        ∧ slip.LayerLaw ∧ (1 ≤ (4 : Byte).toNat ∧ (4 : Byte).toNat ≤ 4) ∧ ¬ (5 : Byte).toNat ≤ 4)
      ∧ ((jackIn .splice slip).Ready ∧ (jackIn .splice slip).findJack 1 = some 0
        ∧ ((jackIn .splice slip).jack 0).state = .splice)
      ∧ (slip.findJack 97 = none ∧ slip.findFeed 97 = some 0 ∧ (slip.feed 0).state ≠ .faulted
        ∧ slip.bank.condMode (.feed 0) ≠ .ring ∧ (slip.pair (.feed 0)).state = .notPresent)
      ∧ ((withOpen lifting slip).OpenLaw ∧ (withOpen lifting slip).openOf (.jack 0) = some lifting ∧ lifting.phase = .sent)
      ∧ (let p := feedRing slip
        p.Ready ∧ p.DeferredLaw ∧ p.findJack 97 = none ∧ p.findFeed 97 = some 0 ∧ p.mode.mode.isStopped = false
          ∧ p.bank.condMode (.feed 0) = .ring ∧ (p.pair (.feed 0)).state = .notPresent)
      ∧ inResend :=
  ⟨⟨ready _ rfl, by decide +kernel, by decide +kernel, open_of _ rfl rfl, layers _ (by decide +kernel), by decide⟩,
    ⟨ready _ rfl, by decide +kernel⟩, by decide +kernel, ⟨open_one _ _ rfl rfl, by decide +kernel⟩,
    ⟨ready _ rfl, deferred _ rfl, by decide +kernel⟩, inResend_holds⟩

/-- Jack 0 has come to meet TROUBLE, under WARN: PRESENT, WARNED, and a record with detail jack 0. -/
theorem test_fault_judged :
    let p := jackIn (.faulted .trouble) slip
    let t := p.event [assertion (.trouble 0) (some 0)]
    slip.meets 0 = none ∧ p.meets 0 = some (.trouble 0) ∧ t.pair (.trouble 0) = ⟨.present .warn, false, false⟩
      ∧ t.hasEvent .warned = true ∧ t.mon.log = [⟨.trouble 0, .warn, some 0, 86400, 86400, 1, true⟩] := by decide +kernel

/-- The late LIFT open, and a disabled entry that holds its node's address. -/
def shared : Part := { owing .transactions (withOpen late slip) with
  cfg := { slip.cfg with active := { bank with jacks := bank.jacks.set 2 ⟨false, 1, 0, 0⟩ } } }

/-- Two strokes have 16 seconds, a POUR 180. -/
theorem test_hyps_SilentNodesTimeOut :
    let latePour : Command := { pouring with sent := 86220 }
    let p := owing .transactions (withOpen late slip)
    let q := owing .transactions (withOpen latePour slip)
    (slip.resetWait ≠ some 0 ∧ slip.CommitLaw ∧ Share.transactions ∉ slip.owed)
      ∧ (p.OpenLaw ∧ p.LayerLaw ∧ Share.transactions ∈ p.owed ∧ p.openAt 1 = some late
        ∧ late.phase = .sent ∧ age p.clock late.sent = p.bank.strokeTime * late.size)
      ∧ (q.OpenLaw ∧ q.LayerLaw ∧ Share.transactions ∈ q.owed ∧ q.openAt 97 = some latePour
        ∧ age q.clock latePour.sent = q.bank.feedTime)
      ∧ age 86400 lifting.sent ≠ slip.bank.strokeTime * lifting.size
      ∧ (p.Soft ∧ p.adm.queue = [] ∧ 0 ∉ p.mode.roundList ∧ p.mode.roundInProgress = false)
      ∧ (∀ j : JackId, .jack j ≠ lifting.subject → (shared.jack j).state = .active ∨ (shared.jack j).state = .catchup →
        (shared.jackEntry j).node ≠ shared.addrOf lifting.subject)
      ∧ (shared.jackEntry 2).node = shared.addrOf lifting.subject
      ∧ ((feedRing q).bank.condMode (.feed 0) = .ring ∧ (feedRing q).mode.mode.isStopped = false
        ∧ ((feedRing q).feed 0).state ≠ .faulted)
      ∧ (slip.Ready ∧ slip.openAt 1 = none)
      ∧ (withOpen lifting slip).Ready ∧ (withOpen lifting slip).openAt 1 = some lifting ∧ lifting.kind = .lift :=
  ⟨⟨by decide, idle _ rfl, by decide +kernel⟩, ⟨open_one _ _ rfl rfl, layers _ (by decide +kernel), by decide +kernel⟩,
    ⟨open_one _ _ rfl rfl, layers _ (by decide +kernel), by decide +kernel⟩, by decide +kernel,
    ⟨soft _ rfl (show slip.stoppedSectors ≤ slip.bank.sectorStopLimit by decide +kernel), rfl, by decide +kernel, rfl⟩,
    by decide +kernel, by decide +kernel, by decide +kernel, ⟨ready _ rfl, by decide +kernel⟩, ready _ rfl, by decide +kernel⟩

/-! The laws: a part in SLIP with a LIFT open meets them together. -/

theorem test_hyps_StepKeepsStopOutAndAlert :
    let s := on (withOpen lifting slip)
    s.part.HeldLaw ∧ s.part.StopOutLaw ∧ s.part.AlertLaw ∧ held.HeldLaw ∧ step s = .next s :=
  ⟨fun h => (by cases h), rfl, by unfold Part.AlertLaw; decide +kernel, fun _ => ⟨.power, rfl⟩, rfl⟩

theorem test_hyps_StepKeepsRecordLaws :
    let s := on (withOpen lifting slip)
    s.part.PortLaw ∧ s.part.EventLaw ∧ s.part.LogLaw ∧ s.part.SumLaw ∧ s.part.LeaseLaw ∧ logged.LogLaw
      ∧ round.LeaseLaw ∧ round.mode.lease = .pending 9 := by
  unfold Part.PortLaw Part.EventLaw Part.LogLaw LogLawful Part.SumLaw Part.LeaseLaw
  decide +kernel

theorem test_hyps_StepKeepsTableLaws :
    (withOpen lifting slip).LayerLaw ∧ (withOpen lifting slip).JackLaw ∧ (withOpen lifting slip).SpliceLaw
      ∧ (jackIn .splice slip).SpliceLaw := by
  refine ⟨layers_withOpen, ?_⟩
  unfold Part.JackLaw Jack.InRange Part.SpliceLaw
  decide +kernel

theorem test_hyps_StepKeepsAdmissionLaws :
    let p : Part := { withOpen lifting slip with adm := ⟨[entry], (withOpen lifting slip).adm.occupancy⟩ }
    (p.DeferredLaw ∧ p.OpenLaw ∧ p.GroupLaw ∧ p.FeedLaw ∧ p.RoundLaw) ∧ (withOpen pouring slip).FeedLaw
      ∧ round.RoundLaw := by
  have lift (c : Command) (h : c.task = .lift 0) : ∃ j, c.task = .lift j := ⟨0, h⟩
  unfold Part.DeferredLaw Part.OpenLaw Part.GroupLaw Part.FeedLaw Part.RoundLaw
  refine ⟨⟨by decide +kernel, by decide +kernel, by decide +kernel, by decide +kernel, by decide +kernel, ?_⟩,
    by decide +kernel, by decide +kernel, ?_⟩ <;>
  · intro c m _
    simp only [withOpen, round, List.mem_singleton] at m
    exact lift c (by rw [m]; rfl)

end Sys2Proof.Tests
end

section
/-! SUPPORT. Every Turn keeps the law of the layer table (R24) and the ranges of the jack records (R1). -/

namespace Sys2Proof.Machine

/-! ### The laws read one table each -/

/-- The law of the layer table reads the layer table alone (R24). -/
theorem Part.LayerLaw.of_sectors {p q : Part} (e : q.sectors = p.sectors) (h : p.LayerLaw) : q.LayerLaw := fun k => by
  unfold Part.sector
  rw [e]
  exact h k

/-- The ranges of the jack records are read from the jack table alone (R1). -/
theorem Part.JackLaw.of_jacks {p q : Part} (e : q.jacks = p.jacks) (h : p.JackLaw) : q.JackLaw := fun j => by
  unfold Part.jack
  rw [e]
  exact h j

/-- One sector replaced keeps the law of the layer table if the new one is lawful. -/
theorem Part.setSector_layerLaw {p : Part} {k : SectorId} {x : Sector} (h : p.LayerLaw) (hx : x.Lawful) :
    (p.setSector k x).LayerLaw := by
  intro i
  by_cases e : i = k
  · subst e
    simpa using hx
  · rw [Part.sector_setSector_ne p _ e]
    exact h i

theorem Part.releaseOf_sectors (c : Command) (q : Part) : (q.releaseOf c).sectors = q.sectors := by
  unfold Part.releaseOf
  split <;> rfl

theorem Part.releaseOf_jacks (c : Command) (q : Part) : (q.releaseOf c).jacks = q.jacks := by
  unfold Part.releaseOf
  split <;> rfl

/-! ### Between two commits -/

theorem Course.layerLaw {p q : Part} (h : Course p q) : p.LayerLaw → q.LayerLaw := by
  induction h with
  | loud h => exact .of_sectors h.keeps.sectors
  | trans _ _ a b => exact b ∘ a
  | close p q c _ _ ih => exact fun hp => .of_sectors (q.releaseOf_sectors c) (ih hp)
  | sector p k x ok => exact fun hp => Part.setSector_layerLaw hp (ok (hp k))
  | climb p q m _ _ inner _ => exact .of_sectors inner.keeps.sectors
  | causes p q _ ih => exact ih
  | _ => exact id

theorem Course.jackLaw {p q : Part} (h : Course p q) : p.JackLaw → q.JackLaw := by
  induction h with
  | loud h => exact .of_jacks h.keeps.jacks
  | trans _ _ a b => exact b ∘ a
  | close p q c _ _ ih => exact fun hp => .of_jacks (q.releaseOf_jacks c) (ih hp)
  | jacks p v ok => exact ok
  | climb p q m _ _ inner _ => exact .of_jacks inner.keeps.jacks
  | causes p q _ ih => exact ih
  | _ => exact id

/-! ### Reset -/

/-- After reset every sector is empty at floor 0 (R26). -/
theorem sector_reset (k : SectorId) : (Vector.replicate 24 (⟨0, []⟩ : Sector))[k] = ⟨0, []⟩ := by simp

/-- After reset every jack is ABSENT (R2). -/
theorem jack_reset (j : JackId) : (Vector.replicate 96 resetJack)[j] = resetJack := by simp

theorem Part.layerLaw_of_reset {p : Part} (e : p.sectors = Vector.replicate 24 ⟨0, []⟩) : p.LayerLaw := fun k => by
  unfold Part.sector
  rw [e, sector_reset]
  exact ⟨Nat.zero_le _, trivial⟩

theorem Part.jackLaw_of_reset {p : Part} (e : p.jacks = Vector.replicate 96 resetJack) : p.JackLaw := fun j => by
  unfold Part.jack
  rw [e, jack_reset]
  exact ⟨by decide, by decide, by decide, by decide, by decide⟩

/-- What the release event leaves as it was (R181). -/
theorem Part.releaseEvent_loud (p : Part) :
    Loud ({ p with stopOut := p.stopIn }.ringOut false .still 127 0 []) p.releaseEvent := by
  unfold Part.releaseEvent
  dsimp only
  split
  · exact Part.judge_loud _ _ _
  · exact .refl _

theorem Part.releaseEvent_sectors (p : Part) : p.releaseEvent.sectors = p.sectors := p.releaseEvent_loud.keeps.sectors

theorem Part.releaseEvent_jacks (p : Part) : p.releaseEvent.jacks = p.jacks := p.releaseEvent_loud.keeps.jacks

/-! ### Whole steps -/

/-- A law that reads the jack table and the layer table alone, that courses keep and that the reset values meet, is
kept by every Turn. -/
theorem Turn.tables {P : Part → Prop} (course : ∀ {p q : Part}, Course p q → P p → P q)
    (same : ∀ {p q : Part}, q.jacks = p.jacks → q.sectors = p.sectors → P p → P q)
    (reset : ∀ {p : Part}, p.jacks = Vector.replicate 96 resetJack →
      p.sectors = Vector.replicate 24 ⟨0, []⟩ → P p) {p q : Part} (h : Turn p q) : P p → P q := by
  have released : ∀ c p, P (Part.resetEvent c p).releaseEvent := fun c p =>
    reset (Part.releaseEvent_jacks _) (Part.releaseEvent_sectors _)
  induction h with
  | course h => exact course h
  | trans _ _ a b => exact b ∘ a
  | shadow p b | pending p t _ | idle p | bank p _ | owed p l _ | count p | await p n _ | level p b =>
    exact same rfl rfl
  | sendDeck p =>
    unfold Part.sendDeck
    split
    · exact id
    · split <;> exact same rfl rfl
  | sendRing p =>
    unfold Part.sendRing
    split <;> exact same rfl rfl
  | request p _ => exact fun _ => released _ _
  | power p =>
    unfold Part.powerUp
    dsimp only
    split
    · exact fun _ => reset rfl rfl
    · exact fun _ => released _ _
  | hold p =>
    unfold Part.holdReset
    split
    · exact id
    · exact fun _ => reset rfl rfl
  | release p =>
    unfold Part.releaseReset
    split
    · exact same (Part.releaseEvent_jacks _) (Part.releaseEvent_sectors _)
    · exact id

theorem Turn.layerLaw {p q : Part} (h : Turn p q) : p.LayerLaw → q.LayerLaw :=
  h.tables Course.layerLaw (fun _ e => .of_sectors e) fun _ e => Part.layerLaw_of_reset e

theorem Turn.jackLaw {p q : Part} (h : Turn p q) : p.JackLaw → q.JackLaw :=
  h.tables Course.jackLaw (fun e _ => .of_jacks e) fun e _ => Part.jackLaw_of_reset e

end Sys2Proof.Machine
end
section
/-! SUPPORT. The law of splices (R15): what it reads, and what the part's small operations do to it. -/

namespace Sys2Proof.Machine

/-- The subjects of the open commands (R65). -/
def Part.subjects (p : Part) : List Subject := p.xt.table.map Command.subject

/-- The jacks of the deferred entries (R53). -/
def Part.waiting (p : Part) : List JackId := p.adm.queue.map (·.jack)

theorem Part.openOf_eq_none {p : Part} {x : Subject} : p.openOf x = none ↔ x ∉ p.subjects := by
  simp [Part.openOf, Part.subjects]

theorem Part.entryOf_eq_none {p : Part} {j : JackId} : p.entryOf j = none ↔ j ∉ p.waiting := by
  simp [Part.entryOf, Part.waiting]

/-- A jack in SPLICE or ABSENT does not climb (R43 check 4). -/
theorem JackState.climbs_of_splice {x : JackState} (h : x = .splice ∨ x = .absent) : x.climbs = false := by
  rcases h with rfl | rfl <;> rfl

/-- Every splice of q is one of p's, in the sector it had, and q's limit allows as many as p has. -/
structure Part.SplicesOf (p q : Part) : Prop where
  old : ∀ j, (q.jack j).state = .splice → (p.jack j).state = .splice
  sector : ∀ j, (q.jack j).state = .splice → q.sectorOf j = p.sectorOf j
  limit : p.spliceCount ≤ q.bank.spliceLimit

/-! ### What keeps the law -/

section
variable {p q : Part}

theorem Part.jack_congr (e : q.jacks = p.jacks) (j : JackId) : q.jack j = p.jack j := by simp only [Part.jack, e]

theorem Part.sectorOf_congr (e : q.cfg.active = p.cfg.active) (j : JackId) : q.sectorOf j = p.sectorOf j := by
  simp only [Part.sectorOf, Part.jackEntry, Part.bank, e]

theorem Part.SpliceLaw.splices (h : p.SpliceLaw) : p.SplicesOf p := ⟨fun _ => id, fun _ _ => rfl, h.2.1⟩

theorem Part.SplicesOf.mono {r : Part} (h : p.SplicesOf q) (bank : r.cfg.active = q.cfg.active)
    (old : ∀ j, (r.jack j).state = .splice → (q.jack j).state = .splice) : p.SplicesOf r where
  old j hj := h.old j (old j hj)
  sector j hj := (Part.sectorOf_congr bank j).trans (h.sector j (old j hj))
  limit := by simpa only [Part.bank, bank] using h.limit

/-- The law passes on where the splices are old ones within the limit, and jacks in SPLICE or ABSENT have no LIFT. -/
theorem Part.SpliceLaw.transfer (h : p.SpliceLaw) (splices : p.SplicesOf q)
    (free : ∀ j, (q.jack j).state = .splice ∨ (q.jack j).state = .absent →
      .jack j ∉ q.subjects ∧ j ∉ q.waiting) : q.SpliceLaw := by
  obtain ⟨old, sector, limit⟩ := splices
  refine ⟨fun i j hi hj e => ?_, le_trans ?_ limit, fun j hj => ?_⟩
  · exact h.1 i j (old i hi) (old j hj) ((sector i hi).symm.trans (e.trans (sector j hj)))
  · exact List.countP_mono_left fun j _ hj => by simpa using old j (by simpa using hj)
  · exact ⟨Part.openOf_eq_none.2 (free j hj).1, Part.entryOf_eq_none.2 (free j hj).2⟩

/-- A jack in SPLICE or ABSENT has no LIFT. -/
theorem Part.SpliceLaw.free (h : p.SpliceLaw) {j : JackId}
    (hj : (p.jack j).state = .splice ∨ (p.jack j).state = .absent) : .jack j ∉ p.subjects ∧ j ∉ p.waiting :=
  ⟨Part.openOf_eq_none.1 (h.2.2 j hj).1, Part.entryOf_eq_none.1 (h.2.2 j hj).2⟩

/-- With the jack table and the bank as they were, the law passes on where only jacks that climb come to have a LIFT. -/
theorem Part.SpliceLaw.lifting (h : p.SpliceLaw) (jacks : q.jacks = p.jacks) (bank : q.cfg.active = p.cfg.active)
    (table : ∀ j, .jack j ∈ q.subjects → .jack j ∈ p.subjects ∨ (p.jack j).state.climbs = true)
    (queue : ∀ j ∈ q.waiting, j ∈ p.waiting ∨ (p.jack j).state.climbs = true) : q.SpliceLaw := by
  have same := Part.jack_congr jacks
  refine h.transfer (h.splices.mono bank fun j hj => same j ▸ hj) fun j hj => ?_
  · rw [same j] at hj
    have still := JackState.climbs_of_splice hj
    obtain ⟨closed, fresh⟩ := h.free hj
    refine ⟨fun m => ?_, fun m => ?_⟩
    · exact (table j m).elim closed fun c => by simp [still] at c
    · exact (queue j m).elim fresh fun c => by simp [still] at c

/-- With the jack table and the bank as they were, the law passes on where no jack comes to have a LIFT. -/
theorem Part.SpliceLaw.fewer (h : p.SpliceLaw) (jacks : q.jacks = p.jacks) (bank : q.cfg.active = p.cfg.active)
    (table : q.subjects ⊆ p.subjects) (queue : q.waiting ⊆ p.waiting) : q.SpliceLaw :=
  h.lifting jacks bank (fun _ m => .inl (table m)) fun _ m => .inl (queue m)

/-- The law reads the jack table, the bank, the transaction table and the deferred queue. -/
theorem Part.SpliceLaw.congr (jacks : q.jacks = p.jacks) (bank : q.cfg.active = p.cfg.active)
    (table : q.xt.table = p.xt.table) (queue : q.adm.queue = p.adm.queue) : q.SpliceLaw ↔ p.SpliceLaw := by
  have s : q.subjects = p.subjects := by simp only [Part.subjects, table]
  have w : q.waiting = p.waiting := by simp only [Part.waiting, queue]
  exact ⟨fun h => h.fewer jacks.symm bank.symm (by rw [s]; exact fun _ m => m) (by rw [w]; exact fun _ m => m),
    fun h => h.fewer jacks bank (by rw [s]; exact fun _ m => m) (by rw [w]; exact fun _ m => m)⟩

/-- A jack's record replaced by one that is in SPLICE or ABSENT only if the old one was in that state. -/
theorem Part.setJack_spliceLaw {j : JackId} {x : Jack} (h : p.SpliceLaw)
    (keep : x.state = (p.jack j).state ∨ x.state ≠ .splice ∧ x.state ≠ .absent) : (p.setJack j x).SpliceLaw := by
  have old : ∀ i (y : JackState), y = .splice ∨ y = .absent → ((p.setJack j x).jack i).state = y →
      (p.jack i).state = y := by
    intro i y hy hi
    by_cases e : i = j
    · subst e
      rw [Part.jack_setJack] at hi
      rcases keep with k | ⟨k, l⟩
      · exact k ▸ hi
      · rcases hy with rfl | rfl <;> contradiction
    · rwa [Part.jack_setJack_ne p _ e] at hi
  refine h.transfer (h.splices.mono rfl fun i => old i _ (.inl rfl)) fun i hi => ?_
  exact h.free (hi.imp (old i _ (.inl rfl)) (old i _ (.inr rfl)))

/-! ### Registers that the law does not read -/

@[simp] theorem Part.raise_spliceLaw (e : EventKind) : (p.raise e).SpliceLaw ↔ p.SpliceLaw := .rfl
@[simp] theorem Part.setMode_spliceLaw (m : ModeRecord) : (p.setMode m).SpliceLaw ↔ p.SpliceLaw := .rfl
@[simp] theorem Part.setPair_spliceLaw (x : Pair) (r : PairRecord) : (p.setPair x r).SpliceLaw ↔ p.SpliceLaw := .rfl
@[simp] theorem Part.setPairState_spliceLaw (x : Pair) (r : PairState) :
    (p.setPairState x r).SpliceLaw ↔ p.SpliceLaw := .rfl
@[simp] theorem Part.setLog_spliceLaw (l : List LogRecord) : (p.setLog l).SpliceLaw ↔ p.SpliceLaw := .rfl
@[simp] theorem Part.setFeed_spliceLaw (f : FeedId) (x : Feed) : (p.setFeed f x).SpliceLaw ↔ p.SpliceLaw := .rfl
@[simp] theorem Part.setSector_spliceLaw (k : SectorId) (x : Sector) :
    (p.setSector k x).SpliceLaw ↔ p.SpliceLaw := .rfl
@[simp] theorem Part.setOccupancy_spliceLaw (g : GroupId) (n : Nat) :
    (p.setOccupancy g n).SpliceLaw ↔ p.SpliceLaw := .rfl
@[simp] theorem Part.release_spliceLaw (g : GroupId) : (p.release g).SpliceLaw ↔ p.SpliceLaw := .rfl
@[simp] theorem Part.setNodeTags_spliceLaw (a : Addr) (t : NodeTags) :
    (p.setNodeTags a t).SpliceLaw ↔ p.SpliceLaw := .rfl
@[simp] theorem Part.setAbandoned_spliceLaw (a : Addr) (x : Option Abandoned) :
    (p.setAbandoned a x).SpliceLaw ↔ p.SpliceLaw := .rfl
@[simp] theorem Part.setCounter_spliceLaw (a : Addr) (t : Tag) : (p.setCounter a t).SpliceLaw ↔ p.SpliceLaw := .rfl
@[simp] theorem Part.setSup_spliceLaw (x : Supervision) : (p.setSup x).SpliceLaw ↔ p.SpliceLaw := .rfl
@[simp] theorem Part.setShadow_spliceLaw (b : Bank) : (p.setShadow b).SpliceLaw ↔ p.SpliceLaw := .rfl
@[simp] theorem Part.setCommit_spliceLaw (c : CommitState) : (p.setCommit c).SpliceLaw ↔ p.SpliceLaw := .rfl
@[simp] theorem Part.setLease_spliceLaw (l : Lease) : (p.setLease l).SpliceLaw ↔ p.SpliceLaw := .rfl
@[simp] theorem Part.updateAlert_spliceLaw : p.updateAlert.SpliceLaw ↔ p.SpliceLaw := .rfl
@[simp] theorem Part.ringOut_spliceLaw (b : Bool) (k : Kind) (d : Byte) (t : Tag) (l : List Byte) :
    (p.ringOut b k d t l).SpliceLaw ↔ p.SpliceLaw := .rfl
@[simp] theorem Part.stillNode_spliceLaw (c : Command) : (p.stillNode c).SpliceLaw ↔ p.SpliceLaw := .rfl
@[simp] theorem Part.cease_spliceLaw (x : Pair) : (p.cease x).SpliceLaw ↔ p.SpliceLaw := .rfl
@[simp] theorem Part.addSectorCause_spliceLaw (x : Pair) : (p.addSectorCause x).SpliceLaw ↔ p.SpliceLaw := .rfl
@[simp] theorem Part.addRingCause_spliceLaw (x : Pair) : (p.addRingCause x).SpliceLaw ↔ p.SpliceLaw := .rfl
@[simp] theorem Part.startSupervision_spliceLaw (b : Bool) : (p.startSupervision b).SpliceLaw ↔ p.SpliceLaw := .rfl
@[simp] theorem Part.startBlanking_spliceLaw : p.startBlanking.SpliceLaw ↔ p.SpliceLaw := .rfl
@[simp] theorem Part.endBlanking_spliceLaw : p.endBlanking.SpliceLaw ↔ p.SpliceLaw := .rfl
@[simp] theorem Part.emptyEvents_spliceLaw : p.emptyEvents.SpliceLaw ↔ p.SpliceLaw := .rfl
@[simp] theorem Part.clearSectorCauses_spliceLaw : p.clearSectorCauses.SpliceLaw ↔ p.SpliceLaw := .rfl
@[simp] theorem Part.clearRingCauses_spliceLaw : p.clearRingCauses.SpliceLaw ↔ p.SpliceLaw := .rfl
@[simp] theorem Part.clearLog_spliceLaw : p.clearLog.SpliceLaw ↔ p.SpliceLaw := .rfl
@[simp] theorem Part.dropFromRound_spliceLaw (j : JackId) : (p.dropFromRound j).SpliceLaw ↔ p.SpliceLaw := .rfl
@[simp] theorem Part.dropShare_spliceLaw (x : Share) : (p.dropShare x).SpliceLaw ↔ p.SpliceLaw := .rfl
@[simp] theorem Part.countDown_spliceLaw : p.countDown.SpliceLaw ↔ p.SpliceLaw := .rfl

@[simp] theorem Part.raiseIf_spliceLaw (b : Bool) (e : EventKind) : (p.raiseIf b e).SpliceLaw ↔ p.SpliceLaw := by
  unfold Part.raiseIf
  split <;> rfl

@[simp] theorem Part.sendFrame_spliceLaw (c : Command) : (p.sendFrame c).SpliceLaw ↔ p.SpliceLaw := by
  unfold Part.sendFrame
  split <;> rfl

@[simp] theorem Part.releaseOf_spliceLaw (c : Command) : (p.releaseOf c).SpliceLaw ↔ p.SpliceLaw := by
  unfold Part.releaseOf
  split <;> rfl

@[simp] theorem Part.follow_spliceLaw (x : Pair) (b : Bool) : (p.follow x b).SpliceLaw ↔ p.SpliceLaw := by
  unfold Part.follow
  split <;> split <;> rfl

@[simp] theorem Part.logAssertion_spliceLaw (x : Pair) (m : CondMode) (d : Option JackId) :
    (p.logAssertion x m d).SpliceLaw ↔ p.SpliceLaw := by
  unfold Part.logAssertion
  split
  · rfl
  · split <;> rfl

@[simp] theorem Part.noteAssertion_spliceLaw (x : Pair) (d : Option JackId) :
    (p.noteAssertion x d).SpliceLaw ↔ p.SpliceLaw := by
  unfold Part.noteAssertion
  dsimp only
  split <;> simp

/-! ### Frames to the deck -/

@[simp] theorem Part.emit_spliceLaw (k : Kind) (s : Byte) (t : Tag) (l : List Byte) :
    (p.emit k s t l).SpliceLaw ↔ p.SpliceLaw := by
  unfold Part.emit
  split <;> rfl

@[simp] theorem Part.reply_spliceLaw (t : Tag) (c o : Byte) (l : List Byte) :
    (p.reply t c o l).SpliceLaw ↔ p.SpliceLaw := p.emit_spliceLaw ..
@[simp] theorem Part.ack_spliceLaw (t : Tag) (c : Byte) : (p.ack t c).SpliceLaw ↔ p.SpliceLaw := p.emit_spliceLaw ..
@[simp] theorem Part.data_spliceLaw (t : Tag) (c : Byte) (l : List Byte) :
    (p.data t c l).SpliceLaw ↔ p.SpliceLaw := p.emit_spliceLaw ..
@[simp] theorem Part.deny_spliceLaw (t : Tag) (c : Byte) (r : Reason) :
    (p.deny t c r).SpliceLaw ↔ p.SpliceLaw := p.emit_spliceLaw ..
@[simp] theorem Part.refuse_spliceLaw (d : Byte) (k : Kind) (t : Tag) (r : Reason) :
    (p.refuse d k t r).SpliceLaw ↔ p.SpliceLaw := p.emit_spliceLaw ..
@[simp] theorem Part.held_spliceLaw (a : Byte) (t : Tag) (r : Reason) :
    (p.held a t r).SpliceLaw ↔ p.SpliceLaw := p.emit_spliceLaw ..
@[simp] theorem Part.ended_spliceLaw (a : Byte) (t : Tag) (n : Nat) (r : Reason) :
    (p.ended a t n r).SpliceLaw ↔ p.SpliceLaw := p.emit_spliceLaw ..

@[simp] theorem Part.answerEnded_spliceLaw (c : Command) (r : Reason) :
    (p.answerEnded c r).SpliceLaw ↔ p.SpliceLaw := by
  unfold Part.answerEnded
  split <;> simp

@[simp] theorem Part.answerLifted_spliceLaw (c : Command) (r : LiftedReport) :
    (p.answerLifted c r).SpliceLaw ↔ p.SpliceLaw := by
  unfold Part.answerLifted
  split <;> simp

@[simp] theorem Part.answerPoured_spliceLaw (c : Command) (r : PouredReport) :
    (p.answerPoured c r).SpliceLaw ↔ p.SpliceLaw := by
  unfold Part.answerPoured
  split <;> simp

/-! ### The transaction table -/

@[simp] theorem Part.setCommand_subjects (c : Command) : (p.setCommand c).subjects = p.subjects := by
  simp only [Part.subjects, Part.setCommand, Part.setTable_xt, List.map_map]
  refine List.map_congr_left fun d _ => ?_
  by_cases h : d.subject = c.subject <;> simp [h]

@[simp] theorem Part.markAll_subjects (e : Ending) (which : Command → Bool) :
    (p.markAll e which).subjects = p.subjects := by
  simp only [Part.subjects, Part.markAll, Part.setTable_xt, List.map_map]
  refine List.map_congr_left fun d _ => ?_
  simp only [Function.comp]
  split <;> rfl

theorem Part.removeCommand_subjects (x : Subject) : (p.removeCommand x).subjects ⊆ p.subjects :=
  List.map_subset _ (List.filter_sublist (l := p.xt.table)).subset

/-- The opened command's subject joins the table (R68). -/
theorem Part.openCommand_subjects (task : Task) (o : Origin) (n : Nat) :
    (p.openCommand task o n).subjects = p.subjects ++ [task.subject] := by
  unfold Part.openCommand Part.sendSub
  dsimp only
  have sent : ∀ (r : Part) (c : Command), (r.sendFrame c).subjects = r.subjects := fun r c => by
    unfold Part.sendFrame
    split <;> rfl
  rw [sent, Part.setCommand_subjects]
  simp [Part.subjects, Part.setTable, Part.setCounter, Part.setAbandoned, Part.setNodeTags, Command.subject]

@[simp] theorem Part.setCommand_spliceLaw (c : Command) (h : p.SpliceLaw) : (p.setCommand c).SpliceLaw :=
  h.fewer rfl rfl (by simp) fun _ m => m

@[simp] theorem Part.markAll_spliceLaw (e : Ending) (which : Command → Bool) (h : p.SpliceLaw) :
    (p.markAll e which).SpliceLaw :=
  h.fewer rfl rfl (by simp) fun _ m => m

@[simp] theorem Part.markOf_spliceLaw (e : Ending) (x : Subject) (h : p.SpliceLaw) : (p.markOf e x).SpliceLaw :=
  Part.markAll_spliceLaw e _ h

@[simp] theorem Part.removeCommand_spliceLaw (x : Subject) (h : p.SpliceLaw) : (p.removeCommand x).SpliceLaw :=
  h.fewer rfl rfl (Part.removeCommand_subjects x) fun _ m => m

@[simp] theorem Part.sendSub_spliceLaw (c : Command) (h : p.SpliceLaw) : (p.sendSub c).SpliceLaw := by
  simp [Part.sendSub, h]

@[simp] theorem Part.resend_spliceLaw (c : Command) (h : p.SpliceLaw) : (p.resend c).SpliceLaw := by
  simp [Part.resend, h]

/-- What opening a command leaves: all that the law reads but for the table. -/
theorem Part.openCommand_rest (task : Task) (o : Origin) (n : Nat) :
    (p.openCommand task o n).jacks = p.jacks ∧ (p.openCommand task o n).cfg = p.cfg
      ∧ (p.openCommand task o n).adm = p.adm := by
  cases task <;> exact ⟨rfl, rfl, rfl⟩

/-- A POUR opened is no LIFT. -/
theorem Part.openPour_spliceLaw (f : FeedId) (k : SectorId) (o : Origin) (n : Nat) (h : p.SpliceLaw) :
    (p.openCommand (.pour f k) o n).SpliceLaw := by
  obtain ⟨jacks, cfg, adm⟩ := p.openCommand_rest (.pour f k) o n
  refine h.lifting jacks (by rw [cfg]) (fun j m => ?_) fun j m => ?_
  · rw [Part.openCommand_subjects] at m
    exact .inl (by simpa [Task.subject] using m)
  · rw [Part.waiting, adm] at m
    exact .inl m

/-- A LIFT admitted for a jack that climbs (R43 check 4, R50). -/
theorem Part.admitLift_spliceLaw {j : JackId} (n : Nat) (o : Origin) (h : p.SpliceLaw)
    (climbs : (p.jack j).state.climbs = true) : (p.admitLift j n o).SpliceLaw := by
  obtain ⟨jacks, cfg, adm⟩ :=
    (p.setOccupancy (p.groupOf j) (p.occupancy (p.groupOf j) + 1)).openCommand_rest (.lift j) o n
  refine h.lifting jacks (by rw [Part.admitLift, cfg]; rfl) (fun i m => ?_) fun i m => ?_
  · rw [Part.admitLift, Part.openCommand_subjects] at m
    rcases List.mem_append.1 m with m | m
    · exact .inl m
    · rw [List.mem_singleton] at m
      cases m
      exact .inr climbs
  · rw [Part.admitLift, Part.waiting, adm] at m
    exact .inl m

/-! ### The deferred queue -/

/-- A queue of fewer jacks. -/
theorem Part.setQueue_spliceLaw {l : List Entry} (h : p.SpliceLaw) (sub : l.map (·.jack) ⊆ p.waiting) :
    (p.setQueue l).SpliceLaw :=
  h.fewer rfl rfl (fun _ m => m) sub

@[simp] theorem Part.dropEntry_spliceLaw (j : JackId) (h : p.SpliceLaw) : (p.dropEntry j).SpliceLaw :=
  Part.setQueue_spliceLaw h (List.map_subset _ List.filter_sublist.subset)

@[simp] theorem Part.refuseEntry_spliceLaw (r : Reason) (e : Entry) (h : p.SpliceLaw) :
    (p.refuseEntry r e).SpliceLaw := by
  simp [Part.refuseEntry, h]

@[simp] theorem Part.removeEntries_spliceLaw (which : Entry → Bool) (r : Reason) (h : p.SpliceLaw) :
    (p.removeEntries which r).SpliceLaw :=
  foldl_law (P := Part.SpliceLaw) (fun _ e => Part.refuseEntry_spliceLaw r e) _ p h

@[simp] theorem Part.flush_spliceLaw (r : Reason) (h : p.SpliceLaw) : (p.flush r).SpliceLaw :=
  Part.removeEntries_spliceLaw _ r h

@[simp] theorem Part.rehold_spliceLaw (e : Entry) (r : Reason) (h : p.SpliceLaw) : (p.rehold e r).SpliceLaw := by
  unfold Part.rehold
  split
  · exact h
  · have same : (p.adm.queue.map fun d => if d.jack = e.jack then { d with reason := r } else d).map (·.jack)
        = p.waiting := by
      rw [List.map_map]
      refine List.map_congr_left fun d _ => ?_
      simp only [Function.comp]
      split <;> rfl
    exact (Part.held_spliceLaw ..).2 (Part.setQueue_spliceLaw h (by rw [same]; exact fun _ m => m))

/-- A LIFT deferred for a jack that climbs (R43 check 4, R49). -/
theorem Part.defer_spliceLaw {j : JackId} (d : Byte) (n : Nat) (t : Tag) (r : Reason) (h : p.SpliceLaw)
    (climbs : (p.jack j).state.climbs = true) : (p.defer j d n t r).SpliceLaw := by
  unfold Part.defer
  split
  · refine (Part.held_spliceLaw ..).2 (h.lifting rfl rfl (fun _ m => .inl m) fun i m => ?_)
    simp only [Part.waiting, Part.setQueue_adm, List.map_append, List.mem_append, List.map_cons, List.map_nil,
      List.mem_singleton] at m
    rcases m with m | rfl
    · exact .inl m
    · exact .inr climbs
  · simpa using h

/-! ### Re-examination (R55) -/

theorem Part.climbs_of_entryStands {e : Entry} (h : p.entryStands e = true) : (p.jack e.jack).state.climbs = true := by
  simp only [Part.entryStands, Bool.and_eq_true] at h
  exact h.1.1

@[simp] theorem Part.examineEntry_spliceLaw (b : Bool) (e : Entry) (h : p.SpliceLaw) :
    (p.examineEntry b e).SpliceLaw := by
  unfold Part.examineEntry
  split
  · exact h
  · next stands =>
    split
    · exact Part.refuseEntry_spliceLaw _ _ h
    split
    · exact Part.refuseEntry_spliceLaw _ _ h
    split
    · have climbs := Part.climbs_of_entryStands (by simpa using stands)
      exact Part.admitLift_spliceLaw _ _ (Part.dropEntry_spliceLaw _ h) climbs
    · exact Part.rehold_spliceLaw _ _ h

@[simp] theorem Part.examine_spliceLaw (b : Bool) (j : JackId) (h : p.SpliceLaw) : (p.examine b j).SpliceLaw := by
  unfold Part.examine
  split
  · exact Part.examineEntry_spliceLaw b _ h
  · exact h

@[simp] theorem Part.passWith_spliceLaw (b : Bool) (h : p.SpliceLaw) : (p.passWith b).SpliceLaw :=
  foldl_law (P := Part.SpliceLaw) (fun _ j => Part.examine_spliceLaw b j) _ p h

@[simp] theorem Part.admPass_spliceLaw (h : p.SpliceLaw) : p.admPass.SpliceLaw := Part.passWith_spliceLaw _ h

/-! ### Creep and the lease -/

@[simp] theorem Part.leaseTest_spliceLaw : p.leaseTest.SpliceLaw ↔ p.SpliceLaw := by
  unfold Part.leaseTest
  split
  · split <;> simp
  · rfl
  · rfl

@[simp] theorem Part.leaseSince_spliceLaw (pre : Part) : (pre.leaseSince p).SpliceLaw ↔ p.SpliceLaw := by
  unfold Part.leaseSince
  split <;> simp

theorem Part.climbs_of_jackCheck {j : JackId} {n : Nat} (h : p.jackCheck j n = none) :
    (p.jack j).state.climbs = true := by
  unfold Part.jackCheck at h
  split at h
  · contradiction
  · next c => simpa using c

theorem Part.climbs_of_deviceCheck {j : JackId} (h : p.deviceCheck j = none) : (p.jack j).state.climbs = true := by
  unfold Part.deviceCheck at h
  split at h
  · contradiction
  · next c => exact Part.climbs_of_jackCheck c

@[simp] theorem Part.offer_spliceLaw (j : JackId) (h : p.SpliceLaw) : (p.offer j).SpliceLaw := by
  unfold Part.offer
  split
  · next c => simpa using Part.admitLift_spliceLaw 1 .device h (Part.climbs_of_deviceCheck c)
  · split <;> simp [h]

@[simp] theorem Part.endRoundTest_spliceLaw : p.endRoundTest.SpliceLaw ↔ p.SpliceLaw := by
  unfold Part.endRoundTest
  split <;> rfl

@[simp] theorem Part.dropStuck_spliceLaw : p.dropStuck.SpliceLaw ↔ p.SpliceLaw := by
  unfold Part.dropStuck
  split <;> rfl

@[simp] theorem Part.creepPass_spliceLaw (h : p.SpliceLaw) : p.creepPass.SpliceLaw := by
  have offered := foldl_law (P := Part.SpliceLaw) (fun _ j => Part.offer_spliceLaw j) p.mode.roundList p h
  simpa [Part.creepPass] using offered

@[simp] theorem Part.creepPassIfWaiting_spliceLaw (h : p.SpliceLaw) : p.creepPassIfWaiting.SpliceLaw := by
  unfold Part.creepPassIfWaiting
  split <;> simp [h]

@[simp] theorem Part.startRound_spliceLaw (h : p.SpliceLaw) : p.startRound.SpliceLaw := by
  simp [Part.startRound, h]

@[simp] theorem Part.roundLoses_spliceLaw (j : JackId) : (p.roundLoses j).SpliceLaw ↔ p.SpliceLaw := by
  simp [Part.roundLoses]

@[simp] theorem Part.toldOfClose_spliceLaw (o : Origin) (h : p.SpliceLaw) : (p.toldOfClose o).SpliceLaw := by
  unfold Part.toldOfClose
  split <;> simp [h]

@[simp] theorem Part.owedRound_spliceLaw (h : p.SpliceLaw) : p.owedRound.SpliceLaw := by
  unfold Part.owedRound
  split <;> simp [h]

end

end Sys2Proof.Machine
end
section
/-! SUPPORT. Closes, assertions, the jack table's reports and the requests keep the law of splices (R15). -/

namespace Sys2Proof.Machine

/-- A test of MON's that keeps the law of splices. -/
def Judging.Fair (f : Judging) : Prop := ∀ p, p.SpliceLaw → (f p).1.SpliceLaw

section
variable {p : Part}

/-! ### Closing -/

/-- A close whose answer and fault keep the law (R72). -/
theorem Part.closeWith_spliceLaw {answer fault : Part → Part} (c : Command) (h : p.SpliceLaw)
    (ha : ∀ q, q.SpliceLaw → (answer q).SpliceLaw) (hf : ∀ q, q.SpliceLaw → (fault q).SpliceLaw) :
    (p.closeWith c answer fault).SpliceLaw := by
  have closed := (Part.releaseOf_spliceLaw c).2 (hf _ (ha _ (Part.removeCommand_spliceLaw c.subject h)))
  exact Part.toldOfClose_spliceLaw _ (Part.admPass_spliceLaw closed)

@[simp] theorem Part.feedReturn_spliceLaw (f : FeedId) : (p.feedReturn f).SpliceLaw ↔ p.SpliceLaw := by
  unfold Part.feedReturn
  split <;> rfl

@[simp] theorem Part.subjectReturn_spliceLaw (c : Command) : (p.subjectReturn c).SpliceLaw ↔ p.SpliceLaw := by
  unfold Part.subjectReturn
  split <;> simp

@[simp] theorem Part.closeEnded_spliceLaw (c : Command) (r : Reason) (h : p.SpliceLaw) :
    (p.closeEnded c r).SpliceLaw :=
  Part.closeWith_spliceLaw c h (by simp) (by simp)

@[simp] theorem Part.closeStopped_spliceLaw (x : Subject) (h : p.SpliceLaw) : (p.closeStopped x).SpliceLaw := by
  unfold Part.closeStopped
  split
  · split
    · exact Part.closeEnded_spliceLaw _ _ h
    · exact h
  · exact h

@[simp] theorem Part.closeAllStopped_spliceLaw (h : p.SpliceLaw) : p.closeAllStopped.SpliceLaw :=
  foldl_law (P := Part.SpliceLaw) (fun _ x => Part.closeStopped_spliceLaw x) _ p h

/-! ### Stops and assertions -/

@[simp] theorem Part.stopSector_spliceLaw (k : SectorId) (h : p.SpliceLaw) : (p.stopSector k).SpliceLaw := by
  have stills := foldl_law (P := Part.SpliceLaw) (f := Part.stillNode) (fun _ c hq => (Part.stillNode_spliceLaw c).2 hq)
    (p.xt.table.filter (p.liftsIn k)) _ (Part.markAll_spliceLaw .sectorStopped (p.liftsIn k) h)
  have closed := foldl_law (P := Part.SpliceLaw) (f := fun q x => Part.closeStopped x q)
    (fun _ x => Part.closeStopped_spliceLaw x) ((p.xt.table.filter (p.liftsIn k)).map Command.subject) _ stills
  exact Part.updateAlert_spliceLaw.2 (Part.removeEntries_spliceLaw _ _ closed)

@[simp] theorem Part.assertHere_spliceLaw (x : Pair) (d : Option JackId) (h : p.SpliceLaw) :
    (p.assertHere x d).SpliceLaw := by
  unfold Part.assertHere
  split
  · split <;> simp [h]
  · simpa using h

@[simp] theorem assertion_fair (x : Pair) (d : Option JackId) : (assertion x d).Fair :=
  fun _ h => Part.assertHere_spliceLaw x d h

@[simp] theorem judging_fair (x : Pair) (input : Part → Bool) : (judging x input).Fair := fun p h => by
  unfold judging
  split
  · exact assertion_fair x none p h
  · simpa using h

@[simp] theorem bondJudging_fair (k : SectorId) : (bondJudging k).Fair := judging_fair _ _
@[simp] theorem starveJudging_fair (k : SectorId) : (starveJudging k).Fair := judging_fair _ _
@[simp] theorem spreadJudging_fair : Judging.Fair spreadJudging := judging_fair _ _
@[simp] theorem compoundJudging_fair : Judging.Fair compoundJudging := judging_fair _ _

@[simp] theorem reasserting_fair (x : Pair) : (reasserting x).Fair := fun p h => by
  unfold reasserting
  split
  · exact assertion_fair x none p h
  · exact h

@[simp] theorem deglitchJudging_fair (x : Pair) : (deglitchJudging x).Fair := fun p h => by
  unfold deglitchJudging
  split
  · exact assertion_fair x none p h
  · exact h

@[simp] theorem metJudging_fair (pre : Part) (j : JackId) : (metJudging pre j).Fair := fun p h => by
  unfold metJudging
  split
  · split
    · exact h
    · exact assertion_fair _ _ p h
  · exact h

@[simp] theorem commitJudging_fair (pre : Part) (j : JackId) : (commitJudging pre j).Fair := fun p h => by
  unfold commitJudging
  split
  · split
    · split
      · exact h
      · exact reasserting_fair _ p h
    · exact assertion_fair _ _ p h
  · exact h

theorem judgeAll_fair {l : List Judging} (fair : ∀ f ∈ l, Judging.Fair f) : Judging.Fair (judgeAll l) := by
  induction l with
  | nil => exact fun _ h => h
  | cons f l ih =>
    exact fun p h => ih (fun g hg => fair g (List.mem_cons_of_mem _ hg)) _ (fair f List.mem_cons_self p h)

/-- MON told of STOPPED asserts at most SPREAD (R99, R105). -/
@[simp] theorem Part.toldOfStopped_spliceLaw (h : p.SpliceLaw) : p.toldOfStopped.SpliceLaw := by
  have quiet := foldl_law (P := Part.SpliceLaw) (f := fun q k => q.follow (.starve k) false)
    (fun _ k hq => (Part.follow_spliceLaw (.starve k) false).2 hq) sectorIds p.endBlanking.updateAlert h
  exact spreadJudging_fair _ quiet

@[simp] theorem Part.enterStopped_spliceLaw (h : p.SpliceLaw) : p.enterStopped.SpliceLaw := by
  unfold Part.enterStopped
  split
  · exact h
  · have flushed : (if p.mode.mode = .slip then (p.setMode p.stoppedRecord).flush .stopped
        else p.setMode p.stoppedRecord).SpliceLaw := by
      split
      · exact Part.flush_spliceLaw _ h
      · exact h
    have closed := Part.closeAllStopped_spliceLaw (Part.markAll_spliceLaw .stopped (fun _ => true) flushed)
    have halted := (Part.SpliceLaw.congr (q := { Part.ringOut false .still 127 0 [] _ with stopOut := true })
      rfl rfl rfl rfl).2 closed
    exact (Part.setSup_spliceLaw _).2 (Part.toldOfStopped_spliceLaw (Part.endRoundTest_spliceLaw.2 halted))

/-- An event of MON's whose tests keep the law (R127, R129). -/
theorem Part.event_spliceLaw {l : List Judging} (h : p.SpliceLaw) (fair : ∀ f ∈ l, Judging.Fair f) :
    (p.event l).SpliceLaw := by
  have judged := judgeAll_fair fair p h
  unfold Part.event
  dsimp only
  split
  · exact Part.enterStopped_spliceLaw judged
  · exact judged

theorem sectorJudgings_fair {k : SectorId} : ∀ f ∈ sectorJudgings k, Judging.Fair f := by simp [sectorJudgings]

@[simp] theorem Part.assertPair_spliceLaw (x : Pair) (d : Option JackId) (h : p.SpliceLaw) :
    (p.assertPair x d).SpliceLaw := Part.event_spliceLaw h (by simp)

@[simp] theorem Part.judge_spliceLaw (x : Pair) (b : Bool) (h : p.SpliceLaw) : (p.judge x b).SpliceLaw :=
  Part.event_spliceLaw h (by simp)

@[simp] theorem Part.judgeCompound_spliceLaw (h : p.SpliceLaw) : p.judgeCompound.SpliceLaw :=
  Part.event_spliceLaw h (by simp)

@[simp] theorem Part.judgeReported_spliceLaw (k : SectorId) (h : p.SpliceLaw) : (p.judgeReported k).SpliceLaw :=
  Part.event_spliceLaw h (List.forall_mem_append.2 ⟨sectorJudgings_fair, by simp⟩)

@[simp] theorem Part.judgeDeck_spliceLaw (h : p.SpliceLaw) : p.judgeDeck.SpliceLaw :=
  Part.event_spliceLaw h (List.forall_mem_append.2 ⟨List.forall_mem_map.2 fun k _ => starveJudging_fair k, by simp⟩)

@[simp] theorem Part.judgeBonds_spliceLaw (h : p.SpliceLaw) : p.judgeBonds.SpliceLaw :=
  Part.event_spliceLaw h (List.forall_mem_append.2 ⟨List.forall_mem_map.2 fun k _ => bondJudging_fair k, by simp⟩)

/-! ### The report (R6) -/

/-- The catch-up test puts no jack in SPLICE or ABSENT (R13). -/
@[simp] theorem Part.catchUp_spliceLaw (h : p.SpliceLaw) : p.catchUp.SpliceLaw :=
  foldl_law (P := Part.SpliceLaw) (f := fun q j => q.setJack j { q.jack j with state := .active })
    (fun _ _ hq => Part.setJack_spliceLaw hq (.inr ⟨nofun, nofun⟩)) _ p h

@[simp] theorem Part.retireFrom_spliceLaw (n : Nat) (k : SectorId) :
    (p.retireFrom n k).SpliceLaw ↔ p.SpliceLaw := by
  unfold Part.retireFrom
  split <;> simp

@[simp] theorem Part.reportBottom_spliceLaw (pre : Part) (k : SectorId) (h : p.SpliceLaw) :
    (pre.reportBottom p k).SpliceLaw := by
  unfold Part.reportBottom
  dsimp only
  split <;> simp [h]

@[simp] theorem Part.removeUnclimbing_spliceLaw (j : JackId) (h : p.SpliceLaw) :
    (p.removeUnclimbing j).SpliceLaw := by
  unfold Part.removeUnclimbing
  split <;> simp [h]

@[simp] theorem Part.tellAdm_spliceLaw (pre : Part) (j : JackId) (h : p.SpliceLaw) :
    (pre.tellAdm p j).SpliceLaw := by
  have moved : (if pre.moved p j then p.admPass else p).SpliceLaw := by split <;> simp [h]
  unfold Part.tellAdm
  dsimp only
  split
  · exact Part.admPass_spliceLaw (Part.removeUnclimbing_spliceLaw j moved)
  · exact moved

@[simp] theorem Part.tellMode_spliceLaw (pre : Part) (j : JackId) : (pre.tellMode p j).SpliceLaw ↔ p.SpliceLaw := by
  unfold Part.tellMode
  split <;> simp

@[simp] theorem Part.ceaseUnmet_spliceLaw (x : Pair) : (p.ceaseUnmet x).SpliceLaw ↔ p.SpliceLaw := by
  unfold Part.ceaseUnmet
  split <;> simp

@[simp] theorem Part.ceaseAllUnmet_spliceLaw (h : p.SpliceLaw) : p.ceaseAllUnmet.SpliceLaw :=
  foldl_law (P := Part.SpliceLaw) (fun _ x hq => (Part.ceaseUnmet_spliceLaw x).2 hq) _ p h

@[simp] theorem Part.tellMon_spliceLaw (pre : Part) (h : p.SpliceLaw) : (pre.tellMon p).SpliceLaw := by
  unfold Part.tellMon
  refine Part.event_spliceLaw (Part.ceaseAllUnmet_spliceLaw h) (List.forall_mem_append.2
    ⟨List.forall_mem_append.2 ⟨List.forall_mem_map.2 fun j _ => metJudging_fair pre j, ?_⟩, by simp⟩)
  exact List.forall_mem_flatMap.2 fun _ _ => sectorJudgings_fair

@[simp] theorem Part.jackReport_spliceLaw (pre : Part) (h : p.SpliceLaw) : (pre.jackReport p).SpliceLaw := by
  unfold Part.jackReport
  dsimp only
  have caught : (if pre.stirred p then p.catchUp else p).SpliceLaw := by split <;> simp [h]
  have bottoms := foldl_law (P := Part.SpliceLaw) (fun _ k => Part.reportBottom_spliceLaw pre k) sectorIds _ caught
  have adm := foldl_law (P := Part.SpliceLaw) (fun _ j => Part.tellAdm_spliceLaw pre j) jackIds _ bottoms
  have mode := foldl_law (P := Part.SpliceLaw) (fun _ j => (Part.tellMode_spliceLaw pre j).2) jackIds _ adm
  exact Part.tellMon_spliceLaw pre mode

@[simp] theorem Part.reportFaulting_spliceLaw (pre : Part) (j : JackId) (h : p.SpliceLaw) :
    (pre.reportFaulting j p).SpliceLaw := by
  unfold Part.reportFaulting
  split
  · exact Part.closeStopped_spliceLaw _ (Part.jackReport_spliceLaw pre (Part.markOf_spliceLaw _ _ h))
  · exact Part.jackReport_spliceLaw pre h

/-- A fault takes a jack out of ACTIVE or CATCHUP into FAULTED and changes no other (R21). -/
theorem Jack.fault_state (c : FaultCause) (x : Jack) :
    (x.fault c).state = x.state ∨ (x.fault c).state = .faulted c := by
  unfold Jack.fault
  split
  · exact .inr rfl
  · exact .inl rfl

/-- The pressure strike rule faults a jack or leaves its state (R10). -/
theorem Jack.strike_state (b : Bank) (n : Nat) (x : Jack) :
    (x.strike b n).state = x.state ∨ (x.strike b n).state = .faulted .pressure := by
  unfold Jack.strike
  split
  · split
    · dsimp only
      split
      · exact Jack.fault_state .pressure _
      · exact .inl rfl
    · exact .inl rfl
  · exact .inl rfl

/-- A record that keeps its state or turns FAULTED. -/
theorem Part.setFaulted_spliceLaw {j : JackId} {x : Jack} {c : FaultCause} (h : p.SpliceLaw)
    (hx : x.state = (p.jack j).state ∨ x.state = .faulted c) : (p.setJack j x).SpliceLaw :=
  Part.setJack_spliceLaw h (hx.imp id fun e => by simp [e])

@[simp] theorem Part.faultJack_spliceLaw (c : FaultCause) (j : JackId) (h : p.SpliceLaw) :
    (p.faultJack c j).SpliceLaw := by
  unfold Part.faultJack
  split
  · exact Part.reportFaulting_spliceLaw _ _ (Part.setFaulted_spliceLaw h (Jack.fault_state c _))
  · exact h

@[simp] theorem Part.applyDone_spliceLaw (j : JackId) (n peak : Nat) (h : p.SpliceLaw) :
    (p.applyDone j n peak).SpliceLaw := by
  unfold Part.applyDone
  dsimp only
  split
  · exact h
  · have counted := Part.setFaulted_spliceLaw (j := j) h (Jack.strike_state p.bank peak ((p.jack j).climb p.bank n))
    exact Part.reportFaulting_spliceLaw _ _ ((Part.raiseIf_spliceLaw ..).2 counted)

/-- A request that changes one jack's record (R14). -/
theorem Part.changeJack_spliceLaw {t : Tag} {code : Byte} {j : JackId} {x : Jack} (h : (p.setJack j x).SpliceLaw) :
    (p.changeJack t code j x).SpliceLaw := by
  simp [Part.changeJack, h]

/-! ### Feed nodes and placements -/

@[simp] theorem Part.feedFault_spliceLaw (f : FeedId) (h : p.SpliceLaw) : (p.feedFault f).SpliceLaw := by
  unfold Part.feedFault
  split <;> simp [h]

@[simp] theorem Part.subjectFault_spliceLaw (c : Command) (h : p.SpliceLaw) : (p.subjectFault c).SpliceLaw := by
  unfold Part.subjectFault
  split <;> simp [h]

@[simp] theorem Part.closeTimeout_spliceLaw (c : Command) (h : p.SpliceLaw) : (p.closeTimeout c).SpliceLaw :=
  Part.closeWith_spliceLaw c (p := p.setAbandoned _ _) h (by simp) fun _ => Part.subjectFault_spliceLaw c

@[simp] theorem Part.placeRecord_spliceLaw (k : SectorId) (n : Nat) (m : MixId) (f : FeedId) :
    (p.placeRecord k n m f).1.SpliceLaw ↔ p.SpliceLaw := by
  unfold Part.placeRecord
  split
  · rfl
  · split <;> simp

@[simp] theorem Part.place_spliceLaw (k : SectorId) (n : Nat) (m : MixId) (f : FeedId) (h : p.SpliceLaw) :
    (p.place k n m f).SpliceLaw := by
  unfold Part.place
  dsimp only
  split <;> simp [h]

@[simp] theorem Part.judgePoured_spliceLaw (f : FeedId) (a : Option SectorId) (n : Option Nat) (k : Byte) (l : Nat)
    (m : Byte) (h : p.SpliceLaw) : (p.judgePoured f a n k l m).SpliceLaw := by
  unfold Part.judgePoured
  dsimp only
  split <;> simp [h]

/-! ### LIFT and POUR from the deck -/

@[simp] theorem Part.deckLift_spliceLaw (d : Byte) (t : Tag) (n : Nat) (h : p.SpliceLaw) :
    (p.deckLift d t n).SpliceLaw := by
  have no : ∀ r, (p.refuse d .lift t r).SpliceLaw := fun r => (Part.refuse_spliceLaw ..).2 h
  unfold Part.deckLift
  split
  · exact no _
  split
  · exact no _
  split
  · exact no _
  split
  · exact no _
  · next c =>
    have climbs := Part.climbs_of_jackCheck c
    split
    · exact Part.defer_spliceLaw d n t _ h climbs
    · exact Part.admitLift_spliceLaw n _ h climbs

@[simp] theorem Part.admitPour_spliceLaw (f : FeedId) (k : SectorId) (n : Nat) (t : Tag) (h : p.SpliceLaw) :
    (p.admitPour f k n t).SpliceLaw :=
  (Part.cease_spliceLaw _).2 (Part.openPour_spliceLaw (p := p.setFeed f _) f k _ n h)

@[simp] theorem Part.deckPour_spliceLaw (d : Byte) (t : Tag) (k : Byte) (n : Nat) (h : p.SpliceLaw) :
    (p.deckPour d t k n).SpliceLaw := by
  have no : ∀ r, (p.refuse d .pour t r).SpliceLaw := fun r => (Part.refuse_spliceLaw ..).2 h
  unfold Part.deckPour
  split
  · exact no _
  split
  · exact no _
  split
  · exact no _
  split
  · exact no _
  · exact Part.admitPour_spliceLaw _ _ _ t h

/-! ### Frames from nodes -/

@[simp] theorem Part.lateTaken_spliceLaw (a : Addr) : (p.lateTaken a).SpliceLaw ↔ p.SpliceLaw := by
  simp [Part.lateTaken]

@[simp] theorem Part.decideLifted_spliceLaw (n : Nat) (r : LiftedReport) (c : Command) (h : p.SpliceLaw) :
    (p.decideLifted n r c).SpliceLaw := by
  unfold Part.decideLifted
  split
  · exact Part.closeWith_spliceLaw c h (by simp) fun _ => id
  split
  · exact Part.closeEnded_spliceLaw c _ h
  split
  · exact Part.closeEnded_spliceLaw c _ h
  · exact Part.sendSub_spliceLaw c h

@[simp] theorem Part.answeredLift_spliceLaw (j : JackId) (c : Command) (r : LiftedReport) (h : p.SpliceLaw) :
    (p.answeredLift j c r).SpliceLaw := by
  have applied := Part.applyDone_spliceLaw j (min r.done c.size) r.peak (Part.setCommand_spliceLaw (c.takeLifted r) h)
  unfold Part.answeredLift
  dsimp only
  split
  · exact Part.decideLifted_spliceLaw _ r _ applied
  · exact applied

@[simp] theorem Part.strayLifted_spliceLaw (t : Tag) (r : LiftedReport) (h : p.SpliceLaw) :
    (p.strayLifted t r).SpliceLaw := by
  unfold Part.strayLifted
  split
  · simpa using h
  · split <;> simp [h]

@[simp] theorem Part.takeLifted_spliceLaw (t : Tag) (r : LiftedReport) (h : p.SpliceLaw) :
    (p.takeLifted t r).SpliceLaw := by
  unfold Part.takeLifted
  split
  · split
    · split <;> simp [h]
    · exact Part.strayLifted_spliceLaw t r h
  · exact Part.strayLifted_spliceLaw t r h

@[simp] theorem Part.answeredPour_spliceLaw (f : FeedId) (k : SectorId) (c : Command) (r : PouredReport)
    (h : p.SpliceLaw) : (p.answeredPour f k c r).SpliceLaw :=
  Part.closeWith_spliceLaw _ (by simp [h]) (by simp) fun _ => id

@[simp] theorem Part.strayPoured_spliceLaw (t : Tag) (r : PouredReport) (h : p.SpliceLaw) :
    (p.strayPoured t r).SpliceLaw := by
  unfold Part.strayPoured
  split
  · simpa using h
  · split <;> simp [h]

@[simp] theorem Part.takePoured_spliceLaw (t : Tag) (r : PouredReport) (h : p.SpliceLaw) :
    (p.takePoured t r).SpliceLaw := by
  unfold Part.takePoured
  split
  · split
    · split <;> simp [h]
    · exact Part.strayPoured_spliceLaw t r h
  · exact Part.strayPoured_spliceLaw t r h

@[simp] theorem Part.answeredWait_spliceLaw (c : Command) (h : p.SpliceLaw) : (p.answeredWait c).SpliceLaw := by
  unfold Part.answeredWait
  split
  · exact Part.closeEnded_spliceLaw c _ h
  · split <;> simp [h]

@[simp] theorem Part.takeWait_spliceLaw (a : Byte) (t : Tag) (h : p.SpliceLaw) : (p.takeWait a t).SpliceLaw := by
  unfold Part.takeWait
  split
  · split <;> simp [h]
  · simpa using h

@[simp] theorem Part.learnDepth_spliceLaw (a d : Byte) (h : p.SpliceLaw) : (p.learnDepth a d).SpliceLaw := by
  unfold Part.learnDepth
  split
  · split
    · exact Part.setJack_spliceLaw h (.inl rfl)
    · exact h
  · exact h

@[simp] theorem Part.takeTrouble_spliceLaw (a : Byte) (h : p.SpliceLaw) : (p.takeTrouble a).SpliceLaw := by
  unfold Part.takeTrouble
  split <;> simp [h]

@[simp] theorem Part.unclaimed_spliceLaw (k : Kind) (d : Byte) (t : Tag) (h : p.SpliceLaw) :
    (p.unclaimed k d t).SpliceLaw := by
  unfold Part.unclaimed
  split
  · split <;> simp [h]
  · exact h

/-! ### Frames passed through -/

@[simp] theorem Part.stillFromDeck_spliceLaw (d : Byte) (h : p.SpliceLaw) : (p.stillFromDeck d).SpliceLaw := by
  unfold Part.stillFromDeck
  split
  · simp [h]
  · split <;> simp [h]

theorem Part.passThrough_spliceLaw (k : Kind) (d : Byte) (t : Tag) (l : List Byte) {before : Part → Part}
    (h : p.SpliceLaw) (hb : (before p).SpliceLaw) : (p.passThrough k d t l before).SpliceLaw := by
  unfold Part.passThrough
  split_ifs <;> simp [h, hb]

@[simp] theorem Part.nodeset_spliceLaw (d : Byte) (t : Tag) (l : List Byte) :
    (p.nodeset d t l).SpliceLaw ↔ p.SpliceLaw := by
  unfold Part.nodeset
  split
  · simp
  split
  · simp
  split
  · split <;> simp
  · simp
  · simp

/-! ### Modes and supervision -/

@[simp] theorem Part.tellMonMode_spliceLaw (h : p.SpliceLaw) : p.tellMonMode.SpliceLaw := by
  simp [Part.tellMonMode, h]

@[simp] theorem Part.startSlip_spliceLaw (t : Tag) (h : p.SpliceLaw) : (p.startSlip t).SpliceLaw := by
  simp [Part.startSlip, h]

theorem Part.enterHold_spliceLaw {cause : HoldCause} {answer : Part → Part} (h : p.SpliceLaw)
    (ha : ∀ q, q.SpliceLaw → (answer q).SpliceLaw) : (p.enterHold cause answer).SpliceLaw := by
  have answered := ha (p.setMode (p.holdRecord cause)) h
  simp [Part.enterHold, answered]

@[simp] theorem Part.resumeSlip_spliceLaw (t : Tag) (h : p.SpliceLaw) : (p.resumeSlip t).SpliceLaw := by
  simp [Part.resumeSlip, h]

@[simp] theorem Part.deckLostMove_spliceLaw (h : p.SpliceLaw) : p.deckLostMove.SpliceLaw := by
  unfold Part.deckLostMove
  split
  · exact Part.enterHold_spliceLaw h fun _ => id
  · exact h

@[simp] theorem Part.returnFromStopped_spliceLaw (h : p.SpliceLaw) : p.returnFromStopped.SpliceLaw := by
  unfold Part.returnFromStopped
  split
  · exact Part.tellMonMode_spliceLaw h
  · exact Part.tellMonMode_spliceLaw h
  · exact Part.tellMonMode_spliceLaw h
  all_goals exact h

@[simp] theorem Part.endDeckLost_spliceLaw (h : p.SpliceLaw) : p.endDeckLost.SpliceLaw := by
  unfold Part.endDeckLost
  split <;> simp [h]

@[simp] theorem Part.tellModeAccepted_spliceLaw : p.tellModeAccepted.SpliceLaw ↔ p.SpliceLaw := by
  unfold Part.tellModeAccepted
  split <;> simp

@[simp] theorem Part.accept_spliceLaw (h : p.SpliceLaw) : p.accept.SpliceLaw := by simp [Part.accept, h]

@[simp] theorem Part.declareLost_spliceLaw (h : p.SpliceLaw) : p.declareLost.SpliceLaw := by
  unfold Part.declareLost
  dsimp only
  split <;> simp [h]

@[simp] theorem Part.violation_spliceLaw (h : p.SpliceLaw) : p.violation.SpliceLaw := by
  unfold Part.violation
  dsimp only
  split <;> simp [h]

@[simp] theorem Part.expireWindow_spliceLaw (h : p.SpliceLaw) : p.expireWindow.SpliceLaw := by
  simp [Part.expireWindow, h]

@[simp] theorem Part.judgeToken_spliceLaw (t : Tag) (b : Byte) (h : p.SpliceLaw) : (p.judgeToken t b).SpliceLaw := by
  unfold Part.judgeToken
  split_ifs <;> simp [h]

@[simp] theorem Part.idleHeartbeat_spliceLaw (t : Tag) (h : p.SpliceLaw) : (p.idleHeartbeat t).SpliceLaw := by
  unfold Part.idleHeartbeat
  split <;> simp [h]

@[simp] theorem Part.heartbeat_spliceLaw (t : Tag) (b : Byte) (h : p.SpliceLaw) : (p.heartbeat t b).SpliceLaw := by
  unfold Part.heartbeat
  split
  · split <;> simp [h]
  · exact Part.idleHeartbeat_spliceLaw t h

@[simp] theorem Part.acceptAny_spliceLaw (h : p.SpliceLaw) : p.acceptAny.SpliceLaw := by
  unfold Part.acceptAny
  split <;> simp [h]

/-! ### CLEAR, CONTROL, the lease, reads -/

@[simp] theorem Part.clear_spliceLaw (t : Tag) (h : p.SpliceLaw) : (p.clear t).SpliceLaw := by
  unfold Part.clear
  dsimp only
  split <;> simp [h]

@[simp] theorem Part.controlStart_spliceLaw (t : Tag) (h : p.SpliceLaw) : (p.controlStart t).SpliceLaw := by
  unfold Part.controlStart
  split_ifs <;> simp [h]

@[simp] theorem Part.controlHold_spliceLaw (t : Tag) (h : p.SpliceLaw) : (p.controlHold t).SpliceLaw := by
  unfold Part.controlHold
  split
  · simpa using h
  · exact Part.enterHold_spliceLaw h (by simp)

@[simp] theorem Part.controlResume_spliceLaw (t : Tag) (h : p.SpliceLaw) : (p.controlResume t).SpliceLaw := by
  unfold Part.controlResume
  split_ifs <;> simp [h]

@[simp] theorem Part.controlStop_spliceLaw (t : Tag) (h : p.SpliceLaw) : (p.controlStop t).SpliceLaw := by
  simp [Part.controlStop, h]

@[simp] theorem Part.leaseAsk_spliceLaw (t : Tag) : (p.leaseAsk t).SpliceLaw ↔ p.SpliceLaw := by
  unfold Part.leaseAsk
  split_ifs <;> simp

@[simp] theorem Part.leaseEnd_spliceLaw (t : Tag) (h : p.SpliceLaw) : (p.leaseEnd t).SpliceLaw := by
  unfold Part.leaseEnd
  split <;> simp [h]

@[simp] theorem Part.status_spliceLaw (t : Tag) (n : Byte) : (p.status t n).SpliceLaw ↔ p.SpliceLaw := by
  unfold Part.status
  split <;> simp

@[simp] theorem Part.faults_spliceLaw (t : Tag) (n : Byte) : (p.faults t n).SpliceLaw ↔ p.SpliceLaw := by
  unfold Part.faults
  split <;> simp

@[simp] theorem Part.tableRead_spliceLaw (t : Tag) (b a i f : Nat) :
    (p.tableRead t b a i f).SpliceLaw ↔ p.SpliceLaw := by
  unfold Part.tableRead
  split <;> simp

@[simp] theorem Part.tableWrite_spliceLaw (t : Tag) (a i f v : Nat) :
    (p.tableWrite t a i f v).SpliceLaw ↔ p.SpliceLaw := by
  unfold Part.tableWrite
  split
  · simp
  · split <;> simp

@[simp] theorem Part.shadowLoad_spliceLaw (t : Tag) : (p.shadowLoad t).SpliceLaw ↔ p.SpliceLaw := by
  unfold Part.shadowLoad
  split <;> simp

/-! ### Jack requests -/

/-- Where at most one more element of a list without repetition passes a test, the count grows by at most one. -/
theorem countP_le_succ {α : Type} [DecidableEq α] {l : List α} (nd : l.Nodup) (a : α) {f g : α → Bool}
    (h : ∀ b, b ≠ a → f b = true → g b = true) : l.countP f ≤ l.countP g + 1 := by
  have drop : l.countP f ≤ (l.erase a).countP f + 1 := by
    rw [List.countP_erase]
    split <;> omega
  have rest : (l.erase a).countP f ≤ (l.erase a).countP g :=
    List.countP_mono_left fun b m => h b fun e => nd.not_mem_erase (e ▸ m)
  have back : (l.erase a).countP g ≤ l.countP g := List.erase_sublist.countP_le
  omega

/-- A jack that may enter SPLICE: it has no LIFT, no other of its sector is in SPLICE, and the limit is not reached
(R15). -/
theorem Part.enterSplice_spliceLaw {j : JackId} {x : Jack} (h : p.SpliceLaw)
    (free : p.openOf (.jack j) = none ∧ p.entryOf j = none)
    (alone : ∀ i, i ≠ j → p.sectorOf i = p.sectorOf j → (p.jack i).state ≠ .splice)
    (room : p.spliceCount < p.bank.spliceLimit) : (p.setJack j x).SpliceLaw := by
  have other : ∀ i, i ≠ j → (p.setJack j x).jack i = p.jack i := fun i e => Part.jack_setJack_ne p x e
  refine ⟨fun a b ha hb e => ?_, ?_, fun i hi => ?_⟩
  · by_cases ea : a = j
    · by_cases eb : b = j
      · exact ea.trans eb.symm
      · exact absurd (other b eb ▸ hb) (alone b eb (ea ▸ e.symm))
    · by_cases eb : b = j
      · exact absurd (other a ea ▸ ha) (alone a ea (eb ▸ e))
      · exact h.1 a b (other a ea ▸ ha) (other b eb ▸ hb) e
  · have one : (p.setJack j x).spliceCount ≤ p.spliceCount + 1 :=
      countP_le_succ (List.nodup_finRange 96) j fun i e hi => by rwa [other i e] at hi
    exact le_trans one room
  · by_cases e : i = j
    · exact e ▸ free
    · exact h.2.2 i (other i e ▸ hi)

@[simp] theorem Part.spliceBegin_spliceLaw (t : Tag) (j : JackId) (h : p.SpliceLaw) :
    (p.spliceBegin t j).SpliceLaw := by
  unfold Part.spliceBegin
  split
  · simpa using h
  split
  · simpa using h
  split
  · simpa using h
  split
  · simpa using h
  next lifts others full =>
  refine Part.changeJack_spliceLaw (Part.enterSplice_spliceLaw h ?_ ?_ (lt_of_le_of_ne h.2.1 full))
  · simpa [Part.lifting] using lifts
  · simp only [List.any_eq_true, not_exists, Bool.and_eq_true, bne_iff_ne, beq_iff_eq] at others
    exact fun i ne sector splice => others i ⟨mem_jackIds i, ⟨ne, sector⟩, splice⟩

@[simp] theorem Part.spliceEnd_spliceLaw (t : Tag) (j : JackId) (n : Nat) (h : p.SpliceLaw) :
    (p.spliceEnd t j n).SpliceLaw := by
  unfold Part.spliceEnd
  split
  · simpa using h
  split
  · simpa using h
  · exact Part.changeJack_spliceLaw (Part.setJack_spliceLaw h (.inr ⟨nofun, nofun⟩))

@[simp] theorem Part.rodSet_spliceLaw (t : Tag) (j : JackId) (n : Nat) (h : p.SpliceLaw) :
    (p.rodSet t j n).SpliceLaw := by
  have set : (p.changeJack t codeRodSet j ((p.jack j).setRod p.bank n)).SpliceLaw :=
    Part.changeJack_spliceLaw (Part.setJack_spliceLaw h (.inl rfl))
  unfold Part.rodSet
  split_ifs <;> simp [h, set]

@[simp] theorem Part.positionSet_spliceLaw (t : Tag) (j : JackId) (n : Nat) (h : p.SpliceLaw) :
    (p.positionSet t j n).SpliceLaw := by
  have set : (p.changeJack t codePositionSet j { p.jack j with position := n }).SpliceLaw :=
    Part.changeJack_spliceLaw (Part.setJack_spliceLaw h (.inl rfl))
  unfold Part.positionSet
  split_ifs <;> simp [h, set]

@[simp] theorem Part.stillOf_spliceLaw (j : JackId) : (p.stillOf j).SpliceLaw ↔ p.SpliceLaw := by
  unfold Part.stillOf
  split <;> simp

@[simp] theorem Part.isolateJack_spliceLaw (t : Tag) (j : JackId) (h : p.SpliceLaw) :
    (p.isolateJack t j).SpliceLaw := by
  have set : (p.setJack j { p.jack j with state := .isolated }).SpliceLaw :=
    Part.setJack_spliceLaw h (.inr ⟨nofun, nofun⟩)
  have marked := Part.markOf_spliceLaw .isolated (.jack j) ((Part.ack_spliceLaw t codeIsolate).2 set)
  have told := Part.jackReport_spliceLaw p ((Part.stillOf_spliceLaw j).2 marked)
  unfold Part.isolateJack
  dsimp only
  split <;> simp [h, told]

@[simp] theorem Part.isolate_spliceLaw (t : Tag) (a : Byte) (h : p.SpliceLaw) : (p.isolate t a).SpliceLaw := by
  unfold Part.isolate
  split
  · simpa using h
  · split <;> simp [h]

@[simp] theorem Part.restoreJack_spliceLaw (t : Tag) (j : JackId) (h : p.SpliceLaw) :
    (p.restoreJack t j).SpliceLaw := by
  have set : (p.setJack j (p.jack j).restore).SpliceLaw := Part.setJack_spliceLaw h (.inr ⟨nofun, nofun⟩)
  unfold Part.restoreJack
  dsimp only
  split
  · split <;> simp [h, set]
  · split <;> simp [h, set]
  all_goals simpa using h

@[simp] theorem Part.restoreFeed_spliceLaw (t : Tag) (f : FeedId) : (p.restoreFeed t f).SpliceLaw ↔ p.SpliceLaw := by
  unfold Part.restoreFeed
  split_ifs <;> simp

@[simp] theorem Part.restore_spliceLaw (t : Tag) (a : Byte) (h : p.SpliceLaw) : (p.restore t a).SpliceLaw := by
  unfold Part.restore
  split
  · simpa using h
  · split <;> simp [h]

@[simp] theorem Part.enterLayer_spliceLaw (t : Tag) (k : SectorId) (d : Nat) (a : Clock) (m : MixId)
    (h : p.SpliceLaw) : (p.enterLayer t k d a m).SpliceLaw := by
  simp [Part.enterLayer, h]

@[simp] theorem Part.layerEnter_spliceLaw (t : Tag) (k : Byte) (d : Nat) (a : Clock) (m : Byte)
    (h : p.SpliceLaw) : (p.layerEnter t k d a m).SpliceLaw := by
  unfold Part.layerEnter
  split
  · split_ifs <;> simp [h]
  · simpa using h

end

end Sys2Proof.Machine
end
section
/-! SUPPORT. A commit, a reset, the shares of an advance and so every step keep the law of splices (R15). -/

namespace Sys2Proof.Machine

section
variable {p : Part}

/-! ### COMMIT (R159 to R163) -/

/-- What the live checks say when none fails: the shadow allows the splices there are (checks 6 and 8). -/
theorem Part.liveFailing_eq_none :
    p.liveFailing = none ↔ p.spliceCount ≤ p.cfg.shadow.spliceLimit
      ∧ ∀ j, (p.jack j).state = .splice →
        p.cfg.shadow.jacks[j].enabled = true ∧ p.cfg.shadow.jacks[j].sector = p.sectorOf j := by
  simp [Part.liveFailing, failIf, firstFailing, Part.spliceLimitLow, Part.spliceMoved, mem_jackIds]

/-- A consistent shadow passes the live checks, which are among those of R159. -/
theorem Part.liveFailing_of_consistent (h : p.inconsistency = none) : p.liveFailing = none := by
  simp only [Part.inconsistency, Option.orElse_eq_orElse, Option.orElse_eq_or, Option.or_eq_none_iff] at h
  obtain ⟨-, -, -, -, -, limit, -, moved, -⟩ := h
  simp [Part.liveFailing, limit, moved]

/-- A commit's exits and entries put no jack in SPLICE (R12). -/
theorem Part.jackTransitions_splice (old : Bank) (j : JackId) :
    ((p.jackTransitions old).jack j).state = .splice → (p.jack j).state = .splice := by
  have set : ∀ (q : Part) (i : JackId) (x : Jack), (x.state = .splice → (q.jack i).state = .splice) →
      ((q.setJack i x).jack j).state = .splice → (q.jack j).state = .splice := by
    intro q i x hx h
    by_cases e : j = i
    · subst e
      exact hx (by simpa using h)
    · rwa [Part.jack_setJack_ne q x e] at h
  have exits : ∀ q i, ((exitJacks old.jacks p.bank.jacks q i).jack j).state = .splice → (q.jack j).state = .splice := by
    intro q i
    unfold exitJacks
    split
    · exact set q i _ nofun
    · exact id
  have enters : ∀ n q i,
      ((enterJacks old.jacks p.bank.jacks n q i).jack j).state = .splice → (q.jack j).state = .splice := by
    intro n q i
    unfold enterJacks
    split
    · exact set q i _ nofun
    · split
      · exact set q i _ id
      · exact id
  have exited := foldl_law (P := fun q => (q.jack j).state = .splice → (p.jack j).state = .splice)
    (fun q i h => h ∘ exits q i) jackIds p id
  exact foldl_law (P := fun q => (q.jack j).state = .splice → (p.jack j).state = .splice)
    (fun q i h => h ∘ enters _ q i) jackIds _ exited

/-- The catch-up test puts no jack in SPLICE (R13). -/
theorem Part.catchUp_splice (j : JackId) : (p.catchUp.jack j).state = .splice → (p.jack j).state = .splice := by
  rw [Part.catchUp_jack]
  split
  · exact nofun
  · exact id

/-- Retirements change the layer table alone (R31). -/
theorem Part.retires_rest (before : SectorId → Nat) (l : List SectorId) :
    (l.foldl (fun q k => q.retireFrom (before k) k) p).jacks = p.jacks
      ∧ (l.foldl (fun q k => q.retireFrom (before k) k) p).cfg = p.cfg
      ∧ (l.foldl (fun q k => q.retireFrom (before k) k) p).xt = p.xt := by
  refine foldl_law (P := fun q : Part => q.jacks = p.jacks ∧ q.cfg = p.cfg ∧ q.xt = p.xt) (fun q k h => ?_) l p
    ⟨rfl, rfl, rfl⟩
  unfold Part.retireFrom
  split <;> exact h

theorem Part.removeEntries_xt (which : Entry → Bool) (r : Reason) : (p.removeEntries which r).xt = p.xt :=
  foldl_law (P := fun q : Part => q.xt = p.xt) (fun q e h => by simp [Part.refuseEntry, Part.dropEntry, h]) _ p rfl

/-- Once the entries of jacks that do not climb are gone, every entry is of a jack that climbs (R59). -/
theorem Part.removeUnclimbing_waiting (r : Reason) {j : JackId}
    (m : j ∈ (p.removeEntries (fun e => !(p.jack e.jack).state.climbs) r).waiting) :
    (p.jack j).state.climbs = true := by
  rw [Part.waiting, Part.removeEntries_queue] at m
  obtain ⟨e, he, rfl⟩ := List.mem_map.1 m
  obtain ⟨here, kept⟩ := List.mem_filter.1 he
  by_contra still
  exact of_decide_eq_true (List.all_eq_true.1 kept e (List.mem_filter.2 ⟨here, by simpa using still⟩)) rfl

theorem JacksOnly.cfg {q : Part} (h : JacksOnly p q) : q.cfg = p.cfg := by rw [h]

theorem JacksOnly.xt {q : Part} (h : JacksOnly p q) : q.xt = p.xt := by rw [h]

/-- The removals of a commit restore the law, where no command is open and the splices are old ones within the limit
(R15, R59, R60). -/
theorem Part.commitRemovals_spliceLaw {q : Part} (h : p.SpliceLaw) (empty : q.xt.table = [])
    (splices : p.SplicesOf q) : q.commitRemovals.SpliceLaw := by
  have keeps := (q.removeEntries_quiet (fun e => !(q.jack e.jack).state.climbs) .jackState).keeps
  have same := Part.jack_congr keeps.jacks
  refine Part.removeEntries_spliceLaw _ _ (Part.removeEntries_spliceLaw _ _ (h.transfer ?_ fun j hj => ?_))
  · exact splices.mono (by rw [keeps.cfg]) fun j hj => same j ▸ hj
  · refine ⟨by simp [Part.subjects, Part.removeEntries_xt, empty], fun m => ?_⟩
    have climbs := Part.removeUnclimbing_waiting _ m
    rw [same j] at hj
    rw [JackState.climbs_of_splice hj] at climbs
    contradiction

/-- The jack table's report at a commit, of a part whose jacks and bank the commit has changed (R12). -/
theorem Part.commitJackReport_spliceLaw {q : Part} (h : p.SpliceLaw) (empty : q.xt.table = [])
    (splices : p.SplicesOf q) : (p.commitJackReport q).SpliceLaw := by
  have caught : p.SplicesOf q.catchUp := splices.mono (by rw [q.catchUp_only.cfg]) fun j => Part.catchUp_splice j
  obtain ⟨jacks, cfg, xt⟩ := q.catchUp.retires_rest p.sectorBottom sectorIds
  have removed := Part.commitRemovals_spliceLaw
    (q := sectorIds.foldl (fun q k => q.retireFrom (p.sectorBottom k) k) q.catchUp) h
    (by rw [xt, q.catchUp_only.xt, empty])
    (caught.mono (by rw [cfg]) fun j hj => Part.jack_congr jacks j ▸ hj)
  unfold Part.commitJackReport
  dsimp only
  refine foldl_law (P := Part.SpliceLaw) (fun _ j => (Part.tellMode_spliceLaw p j).2) jackIds _ ?_
  split
  · exact Part.admPass_spliceLaw removed
  · exact removed

@[simp] theorem Part.feedTransition_spliceLaw (old : Bank) (f : FeedId) :
    (p.feedTransition old f).SpliceLaw ↔ p.SpliceLaw := by
  unfold Part.feedTransition
  split <;> simp

@[simp] theorem Part.commitLayerReport_spliceLaw (pre : Part) (k : SectorId) (h : p.SpliceLaw) :
    (pre.commitLayerReport p k).SpliceLaw := by
  unfold Part.commitLayerReport
  split <;> simp [h]

@[simp] theorem Part.commitMon_spliceLaw (pre : Part) (h : p.SpliceLaw) : (pre.commitMon p).SpliceLaw := by
  unfold Part.commitMon
  refine Part.event_spliceLaw (Part.ceaseAllUnmet_spliceLaw h) (List.forall_mem_append.2 ⟨List.forall_mem_append.2
    ⟨List.forall_mem_append.2 ⟨List.forall_mem_map.2 fun j _ => commitJudging_fair pre j, ?_⟩, ?_⟩, by simp⟩)
  · exact List.forall_mem_flatMap.2 fun k _ => by simp
  · exact List.forall_mem_map.2 fun f _ => reasserting_fair _

/-- A commit applied with no command open, where the live checks pass (R161). -/
theorem Part.applyBank_spliceLaw (t : Tag) (h : p.SpliceLaw) (empty : p.xt.table = []) (live : p.liveFailing = none) :
    (p.applyBank t).SpliceLaw := by
  obtain ⟨limit, moved⟩ := Part.liveFailing_eq_none.1 live
  unfold Part.applyBank
  extract_lets pre banked replied reported feeds layers passed
  have only : JacksOnly replied (replied.jackTransitions pre.bank) := replied.jackTransitions_only _
  have shadowed : p.SplicesOf replied := by
    have same : ∀ j, replied.jack j = p.jack j := Part.jack_congr (banked.reply_jacks ..)
    have cfg : replied.cfg = banked.cfg := banked.reply_cfg ..
    refine ⟨fun j hj => same j ▸ hj, fun j hj => ?_, by rw [Part.bank, cfg]; exact limit⟩
    rw [same j] at hj
    rw [← (moved j hj).2, Part.sectorOf, Part.jackEntry, Part.bank, cfg]
  have first : reported.SpliceLaw := by
    refine Part.commitJackReport_spliceLaw h ?_ ?_
    · rw [only.xt, banked.reply_xt]
      exact empty
    · exact shadowed.mono (by rw [only.cfg]) (replied.jackTransitions_splice pre.bank)
  have fed : feeds.SpliceLaw :=
    foldl_law (P := Part.SpliceLaw) (fun _ f => (Part.feedTransition_spliceLaw pre.bank f).2) feedIds _ first
  have layered : layers.SpliceLaw :=
    foldl_law (P := Part.SpliceLaw) (fun _ k => Part.commitLayerReport_spliceLaw pre k) sectorIds _ fed
  exact Part.creepPassIfWaiting_spliceLaw (Part.commitMon_spliceLaw pre (Part.admPass_spliceLaw layered))

@[simp] theorem Part.cancelCommit_spliceLaw (t : Tag) (why : Option Failing) (h : p.SpliceLaw) :
    (p.cancelCommit t why).SpliceLaw := by
  simp [Part.cancelCommit, h]

theorem Part.applyPending_spliceLaw (t : Tag) (h : p.SpliceLaw) (empty : p.xt.table = []) :
    (p.applyPending t).SpliceLaw := by
  unfold Part.applyPending
  split
  · exact Part.cancelCommit_spliceLaw t _ h
  · next live => exact Part.applyBank_spliceLaw t h empty live

@[simp] theorem Part.decideCommit_spliceLaw (t : Tag) (n : BitVec 16) (h : p.SpliceLaw) :
    (p.decideCommit t n).SpliceLaw := by
  unfold Part.decideCommit
  split
  · simpa using h
  split
  · simpa using h
  split
  · simpa using h
  · next consistent =>
    split
    · next empty =>
      exact Part.applyBank_spliceLaw t h (List.isEmpty_iff.1 empty) (Part.liveFailing_of_consistent consistent)
    · simpa using h

/-! ### The end of an event -/

@[simp] theorem Part.quiesce_spliceLaw (h : p.SpliceLaw) : p.quiesce.SpliceLaw := by
  unfold Part.quiesce
  split
  · split
    · next empty =>
      exact (Part.leaseSince_spliceLaw p).2 (Part.applyPending_spliceLaw _ h (List.isEmpty_iff.1 empty))
    · exact h
  · exact h

@[simp] theorem Part.finish_spliceLaw (pre : Part) (h : p.SpliceLaw) : (pre.finish p).SpliceLaw :=
  Part.quiesce_spliceLaw ((Part.leaseSince_spliceLaw pre).2 h)

/-! ### Reset and the lines (R181 to R183) -/

/-- The law holds of the reset values: every jack is ABSENT, and no LIFT is open or deferred (R2, R42, R66). -/
theorem Part.spliceLaw_of_reset (jacks : p.jacks = Vector.replicate 96 resetJack) (table : p.xt.table = [])
    (queue : p.adm.queue = []) : p.SpliceLaw := by
  have absent : ∀ j, (p.jack j).state = .absent := fun j => by
    unfold Part.jack
    rw [jacks, jack_reset]
    rfl
  refine ⟨fun i j hi => ?_, ?_, fun j _ => ?_⟩
  · rw [absent i] at hi
    contradiction
  · have none : p.spliceCount = 0 := List.countP_eq_zero.2 fun j _ => by simp [absent j]
    rw [none]
    exact Nat.zero_le _
  · exact ⟨Part.openOf_eq_none.2 (by simp [Part.subjects, table]), Part.entryOf_eq_none.2 (by simp [Part.waiting, queue])⟩

theorem Part.resetEvent_spliceLaw (c : ResetCause) : (p.resetEvent c).SpliceLaw :=
  Part.spliceLaw_of_reset rfl rfl rfl

@[simp] theorem Part.releaseEvent_spliceLaw (h : p.SpliceLaw) : p.releaseEvent.SpliceLaw := by
  unfold Part.releaseEvent
  dsimp only
  split
  · exact Part.judge_spliceLaw _ _ h
  · exact h

@[simp] theorem Part.requestReset_spliceLaw : p.requestReset.SpliceLaw :=
  Part.releaseEvent_spliceLaw (Part.resetEvent_spliceLaw _)

@[simp] theorem Part.powerUp_spliceLaw : p.powerUp.SpliceLaw := by
  unfold Part.powerUp
  dsimp only
  split
  · exact Part.resetEvent_spliceLaw _
  · exact Part.releaseEvent_spliceLaw (Part.resetEvent_spliceLaw _)

@[simp] theorem Part.holdReset_spliceLaw (h : p.SpliceLaw) : p.holdReset.SpliceLaw := by
  unfold Part.holdReset
  split
  · exact h
  · exact Part.spliceLaw_of_reset rfl rfl rfl

@[simp] theorem Part.releaseReset_spliceLaw (h : p.SpliceLaw) : p.releaseReset.SpliceLaw := by
  unfold Part.releaseReset
  split
  · exact Part.releaseEvent_spliceLaw h
  · exact h

@[simp] theorem Part.askReset_spliceLaw (t : Tag) (h : p.SpliceLaw) : (p.askReset t).SpliceLaw := by
  unfold Part.askReset
  split
  · simpa using h
  split
  · exact (Part.ack_spliceLaw t codeReset).2 h
  · exact Part.requestReset_spliceLaw

@[simp] theorem Part.resetIfDue_spliceLaw (h : p.SpliceLaw) : p.resetIfDue.SpliceLaw := by
  unfold Part.resetIfDue
  split <;> simp [h]

@[simp] theorem Part.sendRing_spliceLaw : p.sendRing.SpliceLaw ↔ p.SpliceLaw := by
  unfold Part.sendRing
  split <;> rfl

@[simp] theorem Part.sendDeck_spliceLaw : p.sendDeck.SpliceLaw ↔ p.SpliceLaw := by
  unfold Part.sendDeck
  split
  · rfl
  · split <;> rfl

@[simp] theorem Part.stopInLevel_spliceLaw (b : Bool) (h : p.SpliceLaw) : (p.stopInLevel b).SpliceLaw := by
  unfold Part.stopInLevel
  dsimp only
  split
  · exact h
  · exact Part.judge_spliceLaw _ _ h

/-! ### Time (R184) -/

@[simp] theorem Part.dueCommand_spliceLaw (c : Command) (h : p.SpliceLaw) : (p.dueCommand c).SpliceLaw := by
  unfold Part.dueCommand
  split_ifs <;> simp [h]

theorem Part.shareTransactions_spliceLaw (h : p.SpliceLaw) : p.shareTransactions.SpliceLaw := by
  refine foldl_law (P := Part.SpliceLaw) (fun q x hq => ?_) _ p h
  split
  · exact Part.dueCommand_spliceLaw _ hq
  · exact hq

theorem Part.expireCreep_spliceLaw (h : p.SpliceLaw) : p.expireCreep.SpliceLaw := by
  unfold Part.expireCreep
  dsimp only
  split
  · simpa using h
  · simpa using h
  · split <;> simp [h]

theorem Part.shareLease_spliceLaw (h : p.SpliceLaw) : p.shareLease.SpliceLaw := by
  unfold Part.shareLease
  split
  · split <;> simp [h]
  all_goals exact h

theorem Part.shareCommitWait_spliceLaw (h : p.SpliceLaw) : p.shareCommitWait.SpliceLaw := by
  unfold Part.shareCommitWait
  split
  · split <;> simp [h]
  · exact h

theorem Part.shareDeglitch_spliceLaw (h : p.SpliceLaw) : p.shareDeglitch.SpliceLaw :=
  Part.event_spliceLaw h (List.forall_mem_append.2 ⟨List.forall_mem_map.2 fun x _ => deglitchJudging_fair x, by simp⟩)

theorem Part.shareBlanking_spliceLaw (h : p.SpliceLaw) : p.shareBlanking.SpliceLaw := by
  unfold Part.shareBlanking
  split <;> simp [h]

theorem Part.share_spliceLaw (x : Share) (h : p.SpliceLaw) : (p.share x).SpliceLaw := by
  cases x with
  | deferred => exact Part.passWith_spliceLaw true h
  | transactions => exact Part.shareTransactions_spliceLaw h
  | creep =>
    change (if p.creepDue then p.expireCreep else p).SpliceLaw
    split
    · exact Part.expireCreep_spliceLaw h
    · exact h
  | lease => exact Part.shareLease_spliceLaw h
  | window =>
    change (if p.windowDue then p.expireWindow else p).SpliceLaw
    split
    · exact Part.expireWindow_spliceLaw h
    · exact h
  | commitWait => exact Part.shareCommitWait_spliceLaw h
  | deglitch => exact Part.shareDeglitch_spliceLaw h
  | blanking => exact Part.shareBlanking_spliceLaw h

@[simp] theorem Part.takeShare_spliceLaw (x : Share) (h : p.SpliceLaw) : (p.takeShare x).SpliceLaw := by
  unfold Part.takeShare
  split
  · exact Part.finish_spliceLaw p ((Part.dropShare_spliceLaw x).2 (Part.share_spliceLaw x h))
  · exact h

theorem Part.takeShares_spliceLaw (l : List Share) (h : p.SpliceLaw) : (l.foldl Part.takeShare p).SpliceLaw :=
  foldl_law (P := Part.SpliceLaw) (fun _ x => Part.takeShare_spliceLaw x) l p h

theorem Part.settle_spliceLaw (h : p.SpliceLaw) : p.settle.SpliceLaw :=
  Part.takeShares_spliceLaw _ (Part.resetIfDue_spliceLaw h)

theorem Part.settleAll_spliceLaw (h : p.SpliceLaw) : p.settleAll.SpliceLaw :=
  Part.takeShares_spliceLaw _ (Part.resetIfDue_spliceLaw h)

@[simp] theorem Part.admAdvance_spliceLaw (h : p.SpliceLaw) : p.admAdvance.SpliceLaw := by
  unfold Part.admAdvance
  split <;> simp [h]

theorem Part.advance_spliceLaw (h : p.SpliceLaw) : p.advance.SpliceLaw := by
  unfold Part.advance
  dsimp only
  split
  · exact h
  · have early := Part.takeShares_spliceLaw p.order.early (p := { p.countDown with owed := allShares }) h
    exact Part.admAdvance_spliceLaw (Part.finish_spliceLaw _ (Part.judgeBonds_spliceLaw early))

theorem Part.nodeShare_spliceLaw (a : Byte) (due : Part → Command → Bool) (h : p.SpliceLaw) :
    (p.nodeShare a due).SpliceLaw := by
  unfold Part.nodeShare
  split
  · split
    · split <;> simp [h]
    · exact h
  · exact h

theorem Part.pairShare_spliceLaw (x : Pair) (h : p.SpliceLaw) : (p.pairShare x).SpliceLaw := by
  unfold Part.pairShare
  split
  · exact Part.event_spliceLaw h (by simp)
  · exact h

end

/-! ### Whole steps -/

section
variable {s t : State} {f : Part → Part}

theorem State.act_spliceLaw (h : s.part.SpliceLaw) (hf : ∀ p, p.SpliceLaw → (f p).SpliceLaw)
    (e : s.act f = .next t) : t.part.SpliceLaw := by
  cases e
  exact Part.finish_spliceLaw _ (hf _ (Part.settle_spliceLaw h))

theorem State.endSecond_spliceLaw (h : s.part.SpliceLaw) (hf : ∀ p, p.SpliceLaw → (f p).SpliceLaw)
    (e : s.endSecond f = .next t) : t.part.SpliceLaw := by
  cases e
  exact Part.finish_spliceLaw _ (hf _ (Part.settleAll_spliceLaw h))

theorem State.due_spliceLaw (h : s.part.SpliceLaw) (hf : ∀ p, p.SpliceLaw → (f p).SpliceLaw)
    (e : s.due f = .next t) : t.part.SpliceLaw := by
  cases e
  exact Part.finish_spliceLaw _ (hf _ (Part.resetIfDue_spliceLaw h))

theorem State.takeFrame_spliceLaw (h : s.part.SpliceLaw) (hf : ∀ p, p.SpliceLaw → (f p).SpliceLaw)
    (e : s.takeFrame f = .next t) : t.part.SpliceLaw := by
  refine State.act_spliceLaw h (fun p hp => ?_) e
  unfold Part.ifTaking
  split
  · exact hf p hp
  · exact hp

theorem State.takeRequest_spliceLaw (h : s.part.SpliceLaw) (hf : ∀ p, p.SpliceLaw → (f p).SpliceLaw)
    (e : s.takeRequest f = .next t) : t.part.SpliceLaw :=
  State.takeFrame_spliceLaw h (fun _ hp => hf _ (Part.acceptAny_spliceLaw hp)) e

/-- A frame of a node's (R172). -/
theorem State.fromNode_spliceLaw {a : Byte} (h : s.part.SpliceLaw) (hf : ∀ p, p.SpliceLaw → (f p).SpliceLaw)
    (e : s.takeFrame (Part.fromNode a f) = .next t) : t.part.SpliceLaw := by
  refine State.takeFrame_spliceLaw h (fun p hp => ?_) e
  unfold Part.fromNode
  split
  · exact hf p hp
  · exact hp

end

end Sys2Proof.Machine
end
section
/-! SUPPORT. Every command, and so every step, keeps the law of splices (R15). -/

namespace Sys2Proof.Machine

/-- Every command that ends in a next state keeps the law of splices. -/
theorem exec_spliceLaw (i : Instr) {s t : State} (h : s.part.SpliceLaw) : exec i s = .next t → t.part.SpliceLaw := by
  cases i with
  | lift d g l =>
    refine State.takeFrame_spliceLaw h fun p hp => ?_
    split
    · exact Part.deckLift_spliceLaw _ _ _ hp
    · simpa using hp
  | pour d g l =>
    refine State.takeFrame_spliceLaw h fun p hp => ?_
    split
    · exact Part.deckPour_spliceLaw _ _ _ _ hp
    · simpa using hp
  | ask d g l => exact State.takeFrame_spliceLaw h fun p hp => Part.passThrough_spliceLaw _ _ _ _ hp hp
  | still d g l =>
    exact State.takeFrame_spliceLaw h fun p hp =>
      Part.passThrough_spliceLaw _ _ _ _ hp (Part.stillFromDeck_spliceLaw d hp)
  | nodeset d g l => exact State.takeFrame_spliceLaw h fun p => (Part.nodeset_spliceLaw d g l).2
  | deckFrameWrongKind d k g => exact State.takeFrame_spliceLaw h fun p => (Part.refuse_spliceLaw ..).2
  | frameBadCheck x => exact State.takeFrame_spliceLaw h fun p => (Part.raise_spliceLaw _).2
  | unknownKindDropped x c => exact State.takeFrame_spliceLaw h fun p => (Part.raise_spliceLaw _).2
  | mgmtBadRequest g l =>
    simp only [exec, execMgmtBadRequest]
    split
    · exact State.takeRequest_spliceLaw h fun p => (Part.deny_spliceLaw ..).2
    · exact State.takeFrame_spliceLaw h fun p => (Part.deny_spliceLaw ..).2
  | heartbeat g b => exact State.takeRequest_spliceLaw h fun p => Part.heartbeat_spliceLaw g b
  | status g n => exact State.takeRequest_spliceLaw h fun p => (Part.status_spliceLaw g n).2
  | faults g n => exact State.takeRequest_spliceLaw h fun p => (Part.faults_spliceLaw g n).2
  | clear g => exact State.takeRequest_spliceLaw h fun p => Part.clear_spliceLaw g
  | tableWrite g a i f v => exact State.takeRequest_spliceLaw h fun p => (Part.tableWrite_spliceLaw ..).2
  | tableRead g b a i f => exact State.takeRequest_spliceLaw h fun p => (Part.tableRead_spliceLaw ..).2
  | shadowLoad g => exact State.takeRequest_spliceLaw h fun p => (Part.shadowLoad_spliceLaw g).2
  | commit g n => exact State.takeRequest_spliceLaw h fun p => Part.decideCommit_spliceLaw g n
  | controlStart g => exact State.takeRequest_spliceLaw h fun p => Part.controlStart_spliceLaw g
  | controlHold g => exact State.takeRequest_spliceLaw h fun p => Part.controlHold_spliceLaw g
  | controlResume g => exact State.takeRequest_spliceLaw h fun p => Part.controlResume_spliceLaw g
  | controlStop g => exact State.takeRequest_spliceLaw h fun p => Part.controlStop_spliceLaw g
  | spliceBegin g j =>
    simp only [exec, execSpliceBegin]
    refine State.takeRequest_spliceLaw h fun p hp => ?_
    split
    · exact Part.spliceBegin_spliceLaw g _ hp
    · simpa using hp
  | spliceEnd g j n =>
    simp only [exec, execSpliceEnd]
    refine State.takeRequest_spliceLaw h fun p hp => ?_
    split
    · exact Part.spliceEnd_spliceLaw g _ _ hp
    · simpa using hp
  | rodSet g j n =>
    simp only [exec, execRodSet]
    refine State.takeRequest_spliceLaw h fun p hp => ?_
    split
    · exact Part.rodSet_spliceLaw g _ _ hp
    · simpa using hp
  | positionSet g j n =>
    simp only [exec, execPositionSet]
    refine State.takeRequest_spliceLaw h fun p hp => ?_
    split
    · exact Part.positionSet_spliceLaw g _ _ hp
    · simpa using hp
  | isolate g a => exact State.takeRequest_spliceLaw h fun p => Part.isolate_spliceLaw g a
  | restore g a => exact State.takeRequest_spliceLaw h fun p => Part.restore_spliceLaw g a
  | jackRead g j =>
    simp only [exec, execJackRead]
    refine State.takeRequest_spliceLaw h fun p hp => ?_
    split <;> simp [hp]
  | sectorRead g k =>
    simp only [exec, execSectorRead]
    refine State.takeRequest_spliceLaw h fun p hp => ?_
    split <;> simp [hp]
  | layerRead g k n =>
    simp only [exec, execLayerRead]
    refine State.takeRequest_spliceLaw h fun p hp => ?_
    split <;> simp [hp]
  | layerEnter g k d a m => exact State.takeRequest_spliceLaw h fun p hp => Part.layerEnter_spliceLaw g k _ _ m hp
  | leaseAsk g => exact State.takeRequest_spliceLaw h fun p => (Part.leaseAsk_spliceLaw g).2
  | leaseEnd g => exact State.takeRequest_spliceLaw h fun p => Part.leaseEnd_spliceLaw g
  | reset g => exact State.takeRequest_spliceLaw h fun p => Part.askReset_spliceLaw g
  | ident g => exact State.takeRequest_spliceLaw h fun p => (Part.data_spliceLaw ..).2
  | lifted a g n e k => exact State.fromNode_spliceLaw h fun p => Part.takeLifted_spliceLaw _ _
  | poured a g k n m => exact State.fromNode_spliceLaw h fun p => Part.takePoured_spliceLaw _ _
  | wait a g => exact State.fromNode_spliceLaw h fun p => Part.takeWait_spliceLaw a g
  | nodeState a g e d k c =>
    exact State.fromNode_spliceLaw h fun p hp => (Part.emit_spliceLaw ..).2 (Part.learnDepth_spliceLaw a d hp)
  | trouble a g c =>
    exact State.fromNode_spliceLaw h fun p hp =>
      (Part.emit_spliceLaw ..).2 ((Part.leaseSince_spliceLaw p).2 (Part.takeTrouble_spliceLaw a hp))
  | unclaimedLiftPour k d g => exact State.takeFrame_spliceLaw h fun p => Part.unclaimed_spliceLaw k d g
  | unclaimedAskStill k d g =>
    refine State.takeFrame_spliceLaw h fun p hp => ?_
    split <;> simp [hp]
  | unclaimedNodeset d g =>
    refine State.takeFrame_spliceLaw h fun p hp => ?_
    split <;> simp [hp]
  | ringFrameDropped a d k n => exact State.takeFrame_spliceLaw h fun p => (Part.raise_spliceLaw _).2
  | ringOutSend => exact State.act_spliceLaw h fun p => Part.sendRing_spliceLaw.2
  | deckSend => exact State.act_spliceLaw h fun p => Part.sendDeck_spliceLaw.2
  | stopInAssert => exact State.act_spliceLaw h fun p => Part.stopInLevel_spliceLaw true
  | stopInRelease => exact State.act_spliceLaw h fun p => Part.stopInLevel_spliceLaw false
  | powerOn => exact State.act_spliceLaw h fun p _ => Part.powerUp_spliceLaw
  | resetLineAssert => exact State.act_spliceLaw h fun p => Part.holdReset_spliceLaw
  | resetLineRelease => exact State.act_spliceLaw h fun p => Part.releaseReset_spliceLaw
  | resetAfterAck => exact State.due_spliceLaw h fun p => id
  | slipClockAdvance => exact State.endSecond_spliceLaw h fun p => Part.advance_spliceLaw
  | subTransactionTimeout a => exact State.due_spliceLaw h fun p => Part.nodeShare_spliceLaw a _
  | resendDue a => exact State.due_spliceLaw h fun p => Part.nodeShare_spliceLaw a _
  | deglitchExpiry q => exact State.due_spliceLaw h fun p => Part.pairShare_spliceLaw q
  | deferredEntryExpiry | creepTimerExpiry | leaseLimit | windowExpiry | commitWaitCancel | resumeBlankingEnd =>
    exact State.due_spliceLaw h fun p => Part.takeShare_spliceLaw _

/-- Every step keeps the law of splices (R15). -/
theorem step_spliceLaw {s t : State} (h : s.part.SpliceLaw) (e : step s = .next t) : t.part.SpliceLaw := by
  unfold step at e
  split at e
  · exact State.endSecond_spliceLaw h (fun p => id) e
  · next i rest _ => exact exec_spliceLaw i (s := { s with pending := rest }) h e

/-- Settles O58: layers and records by what a Turn can do, splices command by command. -/
theorem stepKeepsTableLaws : Obligations.StepKeepsTableLaws := by
  unfold Obligations.StepKeepsTableLaws
  intro s t e
  exact ⟨(step_turn e).layerLaw, (step_turn e).jackLaw, fun h => step_spliceLaw h e⟩

end Sys2Proof.Machine
end
section
/-! SUPPORT. The machine right after reset: its values block by block, and the laws it meets. -/

namespace Sys2Proof.Machine

/-! ### The values (R2, R26, R42, R66, R86, R118) -/

theorem reset_jack (j : JackId) : State.reset.part.jack j = resetJack := jack_reset j

theorem reset_sector (k : SectorId) : State.reset.part.sector k = ⟨0, []⟩ := sector_reset k

theorem reset_occupancy (g : GroupId) : State.reset.part.occupancy g = 0 := by
  simp [Part.occupancy, State.reset]

theorem reset_nodeTags (a : Addr) : State.reset.part.nodeTags a = ⟨0, none⟩ := by
  simp [Part.nodeTags, State.reset]

theorem reset_feed (f : FeedId) : State.reset.part.feed f = ⟨.ready, none⟩ := by
  simp [Part.feed, State.reset]

theorem reset_pair (q : Pair) : State.reset.part.pair q = ⟨.notPresent, false, false⟩ := by
  simp [Part.pair, State.reset, resetMonitor]

/-- RESET alone is in the event set (R118). -/
theorem reset_hasEvent (e : EventKind) : State.reset.part.hasEvent e = true ↔ e = .reset := by
  cases e <;> decide

/-- No jack is ACTIVE, so that the deck has no positions (R3). -/
theorem reset_activePositions : State.reset.part.activePositions = [] := by
  simp [Part.activePositions, Part.isActive, reset_jack, resetJack]

theorem reset_spliceCount : State.reset.part.spliceCount = 0 := by
  simp [Part.spliceCount, reset_jack, resetJack]

/-- No jack counts in a sector bottom, so that it is the floor (R4). -/
theorem reset_sectorBottom (k : SectorId) : State.reset.part.sectorBottom k = 0 := by
  simp [Part.sectorBottom, reset_jack, resetJack, JackState.inBottom, reset_sector]

/-- The form height of the default profile is 1200 mm (R153). -/
theorem reset_formTop (k : SectorId) : State.reset.part.formTop k = 1200 := by
  rw [Part.formTop, reset_sectorBottom]
  decide +kernel

/-- No sector's stop cause set holds a condition (R118, R128). -/
theorem reset_sectorStopped (k : SectorId) : State.reset.part.sectorStopped k = false := by
  simp [Part.sectorStopped, reset_pair]

/-- The default bank's table sum (R152, R155). -/
theorem defaultBank_tableSum : defaultBank.tableSum = 21533 := by decide +kernel

/-- Settles O4: each block's values as the lemmas above give them. -/
theorem resetValues : Obligations.ResetValues := by
  unfold Obligations.ResetValues
  dsimp only
  refine ⟨reset_jack, ?_, ?_, ?_, reset_spliceCount, fun k => ⟨reset_sector k, reset_sectorBottom k, reset_formTop k⟩,
    rfl, reset_occupancy, rfl, reset_nodeTags, reset_feed, rfl, reset_pair, rfl, rfl, rfl, reset_hasEvent, rfl, rfl,
    rfl, rfl, rfl, rfl, rfl, rfl, rfl, rfl, rfl, rfl⟩
  · simp [Part.lowestActive, reset_activePositions]
  · simp [Part.highestActive, reset_activePositions]
  · simp [Part.spread, Part.lowestActive, reset_activePositions]

/-! ### The laws -/

theorem reset_alertLaw : State.reset.part.AlertLaw := by
  have calm : State.reset.part.alertDue = false := by
    have quiet : sectorIds.any State.reset.part.sectorStopped = false := by simp [reset_sectorStopped]
    rw [Part.alertDue, quiet]
    rfl
  rw [Part.AlertLaw, calm]
  rfl

theorem reset_groupLaw : State.reset.part.GroupLaw := fun g => by
  rw [reset_occupancy]
  exact ⟨rfl, Nat.zero_le _⟩

theorem reset_feedLaw : State.reset.part.FeedLaw := fun f => by
  rw [reset_feed]
  exact ⟨Nat.zero_le _, nofun, fun h => absurd rfl h⟩

/-- Settles O60: no LIFT, no POUR, no frame and no record is there to break a law. -/
theorem resetKeepsLaws : Obligations.ResetKeepsLaws := by
  unfold Obligations.ResetKeepsLaws
  dsimp only
  have held : State.reset.part.HeldLaw := nofun
  have port : State.reset.part.PortLaw := ⟨by decide, by decide⟩
  have event : State.reset.part.EventLaw := ⟨by decide, by decide⟩
  have log : State.reset.part.LogLaw := ⟨Nat.zero_le _, List.nodup_nil⟩
  have sum : State.reset.part.SumLaw := defaultBank_tableSum.symm
  have commit : State.reset.part.CommitLaw := nofun
  have deferred : State.reset.part.DeferredLaw := ⟨Nat.zero_le _, List.nodup_nil, fun _ => rfl⟩
  have opened : State.reset.part.OpenLaw := ⟨Nat.zero_le _, List.nodup_nil⟩
  have round : State.reset.part.RoundLaw := ⟨rfl, nofun⟩
  have lease : State.reset.part.LeaseLaw := ⟨nofun, nofun⟩
  exact ⟨held, rfl, reset_alertLaw, port, event, log, sum, commit, Part.layerLaw_of_reset rfl,
    Part.jackLaw_of_reset rfl, deferred, opened, reset_groupLaw, reset_feedLaw, round, lease,
    Part.spliceLaw_of_reset rfl rfl rfl⟩

end Sys2Proof.Machine
end
section
/-! SUPPORT. What the layer table's own work comes to, operation by operation: conversion (R27), placement (R28, R29),
retirement (R31), the exit layer (R35) and the young test (R36). -/

namespace Sys2Proof.Machine

/-! ### Conversion (R27) -/

/-- A sector with both dimensions in range has a cross-section above 0. -/
theorem SectorEntry.crossSection_pos {e : SectorEntry} (h : e.configured = true) : 0 < e.length * e.thickness := by
  simp only [SectorEntry.configured, inRange, Bool.and_eq_true, decide_eq_true_eq] at h
  obtain ⟨⟨long, -⟩, thick, -⟩ := h
  exact Nat.mul_pos (Nat.lt_of_lt_of_le (by decide) long) (Nat.lt_of_lt_of_le (by decide) thick)

/-- Rounding up: the depth covers the volume, and by less than one further mm. -/
theorem depthOf_rounds_up {e : SectorEntry} (litres : Nat) (h : 0 < e.length * e.thickness) :
    litres * 1000000 ≤ depthOf e litres * (e.length * e.thickness)
      ∧ depthOf e litres * (e.length * e.thickness) < litres * 1000000 + e.length * e.thickness := by
  have division := Nat.div_add_mod' (litres * 1000000 + (e.length * e.thickness - 1)) (e.length * e.thickness)
  have remainder := Nat.mod_lt (litres * 1000000 + (e.length * e.thickness - 1)) h
  unfold depthOf
  omega

/-! ### Placement (R28, R29) -/

theorem mergesInto_iff {now : Clock} {interval depth : Nat} {l : Layer} {mix : MixId} :
    mergesInto now interval l mix depth = true
      ↔ l.mix = mix ∧ (now - l.last).toNat ≤ interval ∧ l.depth + depth ≤ 65535 := by
  simp only [mergesInto, Bool.and_eq_true, beq_iff_eq, decide_eq_true_eq, and_assoc]
  rfl

section
variable {x : Sector} {rest : List Layer} {l : Layer}

theorem Sector.isFull_iff : x.isFull = true ↔ 16 ≤ x.layers.length := decide_eq_true_iff

theorem Sector.top_of_newest (h : x.layers = rest ++ [l]) : x.top = l.top := by
  simp [Sector.top, h]

theorem Sector.mapNewest_of_newest (g : Layer → Layer) (h : x.layers = rest ++ [l]) :
    x.mapNewest g = ⟨x.floor, rest ++ [g l]⟩ := by
  simp [Sector.mapNewest, h]

/-- Into an empty queue: a layer upon the floor. -/
theorem Sector.place_of_empty (now : Clock) (interval depth : Nat) (mix : MixId) (f : FeedId) (h : x.layers = []) :
    x.place now interval depth mix f = ⟨x.floor, [⟨x.floor, depth, mix, now, now, .feed f⟩]⟩ := by
  simp [Sector.place, Sector.append, Sector.top, h]

/-- With layers held, the full queue or the merge conditions decide between growing and appending. -/
theorem Sector.place_of_newest {now : Clock} {interval depth : Nat} {mix : MixId} {f : FeedId}
    (h : x.layers = rest ++ [l]) :
    x.place now interval depth mix f =
      if x.isFull || mergesInto now interval l mix depth then x.mapNewest (Layer.grow now depth)
      else x.append depth mix now (.feed f) := by
  simp [Sector.place, h]

theorem Sector.place_grows {now : Clock} {interval depth : Nat} {mix : MixId} (f : FeedId)
    (h : x.layers = rest ++ [l]) (c : mergesInto now interval l mix depth = true ∨ x.isFull = true) :
    x.place now interval depth mix f = ⟨x.floor, rest ++ [l.grow now depth]⟩ := by
  rw [Sector.place_of_newest h, if_pos (by simpa [or_comm] using c), Sector.mapNewest_of_newest _ h]

theorem Sector.place_appends {now : Clock} {interval depth : Nat} {mix : MixId} (f : FeedId)
    (h : x.layers = rest ++ [l]) (c : ¬ mergesInto now interval l mix depth = true) (room : ¬ x.isFull = true) :
    x.place now interval depth mix f = ⟨x.floor, x.layers ++ [⟨l.top, depth, mix, now, now, .feed f⟩]⟩ := by
  rw [Sector.place_of_newest h, if_neg (by simp [c, room]), Sector.append, Sector.top_of_newest h]

end

/-! ### Retirement (R31) -/

/-- A sector's queue parts at the first layer whose top is above the bottom: what stands before it has left, and the
floor is the height that this reached. -/
theorem Sector.retire_parts (x : Sector) (bottom : Nat) : ∃ gone kept : List Layer, x.layers = gone ++ kept
    ∧ (∀ l ∈ gone, l.top ≤ bottom) ∧ (∀ l, kept.head? = some l → bottom < l.top)
    ∧ x.retire bottom = ⟨if kept = [] then max (reach x.floor gone) bottom else reach x.floor gone, kept⟩ := by
  refine ⟨x.layers.takeWhile fun l => l.top ≤ bottom, x.layers.dropWhile fun l => l.top ≤ bottom,
    List.takeWhile_append_dropWhile.symm, fun l hl => ?_, fun l hl => ?_, ?_⟩
  · simpa using List.mem_takeWhile_imp hl
  · have stays := List.head?_dropWhile_not (fun l : Layer => decide (l.top ≤ bottom)) x.layers
    rw [hl] at stays
    simpa using stays
  · simp only [Sector.retire, List.isEmpty_iff]
    rfl

/-! ### The exit layer (R35) -/

/-- A stack reaches at least as high as its base. -/
theorem stacked_reach_le {base : Nat} {s : List Layer} (h : stacked base s) : base ≤ reach base s := by
  induction s generalizing base with
  | nil => exact le_rfl
  | cons lowest s ih =>
    obtain ⟨rfl, -, -, upper⟩ := h
    rw [reach_cons]
    exact (Nat.le_add_right lowest.base lowest.depth).trans (ih upper)

/-- The layers of a stack lie between its base and the height it reaches. -/
theorem stacked_bounds {base : Nat} {s : List Layer} (h : stacked base s) {l : Layer} (hl : l ∈ s) :
    base ≤ l.base ∧ l.top ≤ reach base s := by
  induction s generalizing base with
  | nil => nomatch hl
  | cons lowest s ih =>
    obtain ⟨rfl, -, -, upper⟩ := h
    have rises : lowest.base ≤ lowest.top := Nat.le_add_right ..
    have := stacked_reach_le upper
    rw [reach_cons]
    obtain rfl | hl := List.mem_cons.mp hl
    · exact ⟨le_rfl, this⟩
    · exact (ih upper hl).imp_left rises.trans

/-- Layers of a stack do not overlap, so a height is in at most one of them. -/
theorem stacked_covering_unique {base h : Nat} {s : List Layer} (stack : stacked base s) {l m : Layer}
    (hl : l ∈ s) (hm : m ∈ s) (inL : l.base < h ∧ h ≤ l.top) (inM : m.base < h ∧ h ≤ m.top) : l = m := by
  induction s generalizing base with
  | nil => nomatch hl
  | cons lowest s ih =>
    obtain ⟨-, -, -, upper⟩ := stack
    have apart {n : Layer} (hn : n ∈ s) : lowest.top ≤ n.base := (stacked_bounds upper hn).1
    obtain eL | hl := List.mem_cons.mp hl <;> obtain eM | hm := List.mem_cons.mp hm
    · rw [eL, eM]
    · have := apart hm
      subst eL
      omega
    · have := apart hl
      subst eM
      omega
    · exact ih upper hl hm

section
variable {x : Sector} {h : Nat}

theorem Sector.exitLayer_spec {l : Layer} (found : x.exitLayer h = some l) :
    l ∈ x.layers ∧ l.base < h ∧ h ≤ l.top :=
  ⟨List.mem_of_find?_eq_some found, by simpa using List.find?_some found⟩

theorem Sector.exitLayer_eq_none_iff :
    x.exitLayer h = none ↔ ∀ l ∈ x.layers, ¬ (l.base < h ∧ h ≤ l.top) := by
  simp [Sector.exitLayer]

theorem Sector.exitLayer_eq_some_iff (lawful : x.Lawful) {l : Layer} :
    x.exitLayer h = some l ↔ l ∈ x.layers ∧ l.base < h ∧ h ≤ l.top := by
  refine ⟨Sector.exitLayer_spec, fun ⟨hl, inL⟩ => ?_⟩
  cases e : x.exitLayer h with
  | none => exact absurd inL (Sector.exitLayer_eq_none_iff.mp e l hl)
  | some m =>
    obtain ⟨hm, inM⟩ := Sector.exitLayer_spec e
    rw [stacked_covering_unique lawful.2 hl hm inL inM]

/-- The stack fills the heights from above the floor to the top, and no others. -/
theorem Sector.exitLayer_eq_none_of_outside (lawful : x.Lawful) (out : h ≤ x.floor ∨ x.top < h ∨ x.layers = []) :
    x.exitLayer h = none := by
  refine Sector.exitLayer_eq_none_iff.mpr fun l hl inL => ?_
  obtain ⟨low, high⟩ := stacked_bounds lawful.2 hl
  rw [← Sector.top_eq_reach] at high
  obtain below | above | empty := out
  · omega
  · omega
  · simp [empty] at hl

end

/-! ### The young test (R36) -/

theorem Part.young_iff {p : Part} {k : SectorId} {h : Nat} : p.young k h = true ↔
    ∃ l, (p.sector k).exitLayer h = some l ∧ age p.clock l.last < (p.mixEntry l.mix).minExit := by
  unfold Part.young
  cases (p.sector k).exitLayer h <;> simp

/-! ### The statement -/

/-- Settles O52: operation by operation, as the lemmas above give them. -/
theorem placementsGrowOrAppend : Obligations.PlacementsGrowOrAppend := by
  unfold Obligations.PlacementsGrowOrAppend
  refine ⟨fun e litres h => depthOf_rounds_up litres (SectorEntry.crossSection_pos h),
    fun x now interval depth mix f => ⟨x.place_of_empty now interval depth mix f, fun rest l h => ?_⟩,
    Sector.retire_parts,
    fun x h => ⟨fun l lawful => Sector.exitLayer_eq_some_iff lawful, Sector.exitLayer_eq_none_iff,
      Sector.exitLayer_eq_none_of_outside⟩, fun p k h => Part.young_iff⟩
  have full : x.isFull = true ↔ 16 ≤ rest.length + 1 := by simp [Sector.isFull_iff, h]
  dsimp only
  rw [← mergesInto_iff]
  exact ⟨fun c => Sector.place_grows f h (c.imp_right full.mpr),
    fun c room => Sector.place_appends f h c (mt full.mp (Nat.not_le.mpr room))⟩

end Sys2Proof.Machine
end

section
/-! SUPPORT. A deck LIFT decided (R41, R43 to R50): refused at once, deferred, or admitted. -/

namespace Sys2Proof.Machine

/-! ### Refused at once (R43, R170) -/

/-- A frame that is answered REFUSED and has no other effect. -/
theorem State.takeFrame_refused {s : State} {f : Part → Part} {d : Byte} {k : Kind} {t : Tag} {r : Reason}
    (h : s.part.Ready) (e : f s.part = s.part.refuse d k t r) :
    s.takeFrame f = .next { s with part := s.part.refuse d k t r } := by
  rw [← e]
  refine State.takeFrame_keep h ?_ ?_ ?_
  · exact Part.leaseSince_keep (by simp [e]) (by simp [e])
  · simp [e]
  · simp [e]

/-- Check 1 (R43). -/
theorem Part.deckLift_of_outside {p : Part} {n : Nat} (dest : Byte) (t : Tag) (outside : n < 1 ∨ 8 < n) :
    p.deckLift dest t n = p.refuse dest .lift t .range := by
  have : (!(decide (1 ≤ n) && decide (n ≤ 8))) = true := by simp; omega
  rw [Part.deckLift, if_pos this]

/-- The strokes of a LIFT in range, its jack found and the mode SLIP, checks 4 to 7 decide (R43). -/
theorem Part.deckLift_of_slip {p : Part} {dest : Byte} {n : Nat} {j : JackId} (t : Tag) (range : 1 ≤ n ∧ n ≤ 8)
    (found : p.findJack dest = some j) (slip : p.mode.mode = .slip) :
    p.deckLift dest t n = match p.jackCheck j n with
      | some r => p.refuse dest .lift t r
      | none =>
        match p.transientCheck j n with
        | some r => p.defer j dest n t r
        | none => p.admitLift j n (.deck t) := by
  simp [Part.deckLift, range, found, slip] <;> rfl

/-- Settles O22: check by check, in the order of R43. -/
theorem liftRefusedAtOnce : Obligations.LiftRefusedAtOnce := by
  unfold Obligations.LiftRefusedAtOnce
  intro s dest tag ready
  dsimp only
  refine ⟨fun payload length => State.takeFrame_refused ready ?_, fun strokes r refused => ?_⟩
  · split
    · simp at length
    · rfl
  · refine State.takeFrame_refused ready ?_
    dsimp only
    split at refused
    · next range =>
      cases refused
      exact Part.deckLift_of_outside dest tag range
    next range =>
    have range : 1 ≤ strokes.toNat ∧ strokes.toNat ≤ 8 := by omega
    split at refused
    · next missing =>
      cases refused
      simp [Part.deckLift, range, missing, Part.noJackReason]
    next j found =>
    split at refused
    · next mode =>
      cases refused
      simp [Part.deckLift, range, found, mode]
    next slip =>
    rw [Part.deckLift_of_slip tag range found (not_not.1 slip), Part.jackCheck_eq, refused]

/-! ### Deferred or admitted (R44 to R50) -/

/-- Checks 4 to 7 of R43, all passed. -/
theorem Part.jackCheck_eq_none {p : Part} {j : JackId} {n : Nat}
    (climbs : (p.jack j).state = .active ∨ (p.jack j).state = .catchup) (sector : p.sectorStopped (p.sectorOf j) = false)
    (closed : p.openOf (.jack j) = none) (fresh : p.entryOf j = none) (rod : n ≤ (p.jack j).rod) :
    p.jackCheck j n = none := by
  have still : ¬((p.jack j).state ≠ .active ∧ (p.jack j).state ≠ .catchup) := by tauto
  rw [Part.jackCheck_eq, if_neg still]
  simp [sector, closed, fresh, rod]

/-- The jack found at an address has that address (R43 check 2). -/
theorem Part.addrOctet_of_findJack {p : Part} {a : Byte} {j : JackId} (found : p.findJack a = some j) :
    addrOctet (p.jackEntry j).node = a := by
  have here := List.find?_some found
  simp only [Bool.and_eq_true, beq_iff_eq] at here
  simp [addrOctet, octet, here.2]

/-- A deck LIFT under its own checks (R43 to R50), as the statement writes them. -/
theorem Part.heldBy_eq {p : Part} (j : JackId) (n : Nat) : p.heldBy j n =
    if p.commitPending then some .commit
    else if 64 ≤ p.xt.table.length then some .table
    else if p.occupancy (p.jackEntry j).group = p.bank.groups[(p.jackEntry j).group] then some .group
    else if (∃ low, p.lowestActive = some low ∧ low + p.bank.spreadAdmit < (p.jack j).position + n) then some .spread
    else if (p.sector (p.sectorOf j)).top < ((p.jack j).position + n) * p.bank.strokePitch + p.bank.minFill then
      some .fill
    else if p.young (p.sectorOf j) (((p.jack j).position + n) * p.bank.strokePitch) then some .young
    else none := by
  have spread : (p.lowestActive.any fun low => low + p.bank.spreadAdmit < (p.jack j).position + n) = true
      ↔ ∃ low, p.lowestActive = some low ∧ low + p.bank.spreadAdmit < (p.jack j).position + n := by
    cases p.lowestActive <;> simp
  unfold Part.heldBy
  simp only [spread]

/-- The end of an event that leaves the modes, the open commands and the configuration. -/
theorem Part.finish_keep {p q : Part} (h : p.CommitLaw) (mode : q.mode = p.mode) (xt : q.xt = p.xt)
    (cfg : q.cfg = p.cfg) : p.finish q = q := by
  rw [Part.finish, Part.leaseSince_keep (by rw [mode]) (by rw [mode]), Part.quiesce_keep h (by rw [xt]) (by rw [cfg])]

theorem Part.defer_keeps (p : Part) (j : JackId) (dest : Byte) (n : Nat) (t : Tag) (r : Reason) :
    (p.defer j dest n t r).mode = p.mode ∧ (p.defer j dest n t r).xt = p.xt ∧ (p.defer j dest n t r).cfg = p.cfg := by
  unfold Part.defer
  split <;> simp

/-- A LIFT of one octet, taken. -/
theorem exec_lift {s : State} (dest : Byte) (tag : Tag) (strokes : Byte) (h : s.part.Ready) :
    exec (.lift dest tag [strokes]) s
      = .next { s with part := s.part.finish (s.part.deckLift dest tag strokes.toNat) } :=
  State.takeFrame_ready h

/-- Settles O23: the transient checks in their order, then the deferral or the admission. -/
theorem liftDeferredOrAdmitted : Obligations.LiftDeferredOrAdmitted := by
  unfold Obligations.LiftDeferredOrAdmitted
  intro s dest tag strokes j ready
  dsimp only
  intro low high found slip climbs sector closed fresh rod
  have lasting := Part.jackCheck_eq_none climbs sector closed fresh rod
  rw [← Part.heldBy_eq, exec_lift dest tag strokes ready, Part.deckLift_of_slip tag ⟨low, high⟩ found slip, lasting,
    Part.transientCheck_eq]
  refine ⟨fun r held => ?_, fun held => ?_⟩
  · obtain ⟨mode, xt, cfg⟩ := s.part.defer_keeps j dest strokes.toNat tag r
    simp only [held]
    rw [Part.finish_keep ready.1.2.2 mode xt cfg]
    rfl
  · have busy : (s.part.withLift j strokes.toNat (.deck tag)).CommitLaw := fun _ => by simp [Part.withLift]
    have same : s.part.leaseSince (s.part.withLift j strokes.toNat (.deck tag)) = _ := Part.leaseSince_keep rfl rfl
    simp only [held]
    rw [Part.admitLift_eq _ _ _ closed, Part.finish_eq same busy, ← Part.addrOctet_of_findJack found]
    rfl

end Sys2Proof.Machine
end

section
/-! SUPPORT. The rows that take one share of an advance (R184): what such a row comes to, what admission and creep leave
as it was, and that they do not read which shares are owed. -/

namespace Sys2Proof.Machine

/-- The shares owed, replaced: the model's own register, which the rules of admission and creep do not read (log 2). -/
def Part.setOwed (l : List Share) (p : Part) : Part := { p with owed := l }

theorem Part.dropShare_eq (p : Part) (x : Share) : p.dropShare x = p.setOwed (p.owed.filter (· ≠ x)) := rfl

/-! ### What the rules of admission and creep leave -/

/-- Commands are at most added; the configuration and the lease stay. -/
structure Part.Admits (p q : Part) : Prop where
  table : p.xt.table <+: q.xt.table
  cfg : q.cfg = p.cfg
  lease : q.mode.lease = p.mode.lease
  owed : q.owed = p.owed

namespace Part.Admits

variable {p q r : Part}

theorem refl (p : Part) : p.Admits p := ⟨List.prefix_refl _, rfl, rfl, rfl⟩

theorem trans (a : p.Admits q) (b : q.Admits r) : p.Admits r :=
  ⟨a.table.trans b.table, b.cfg.trans a.cfg, b.lease.trans a.lease, b.owed.trans a.owed⟩

theorem foldl {α : Type} {f : Part → α → Part} (h : ∀ (p : Part) a, p.Admits (f p a)) (l : List α) (p : Part) :
    p.Admits (l.foldl f p) := by
  induction l generalizing p with
  | nil => exact refl p
  | cons a l ih => exact (h p a).trans (ih _)

/-- What adds no command, and leaves the configuration and the lease. -/
theorem same (table : q.xt.table = p.xt.table) (cfg : q.cfg = p.cfg) (lease : q.mode.lease = p.mode.lease)
    (owed : q.owed = p.owed) : p.Admits q := ⟨table ▸ List.prefix_refl _, cfg, lease, owed⟩

/-- A pending commit goes on waiting for an open command (R160). -/
theorem commitLaw (h : p.Admits q) (law : p.CommitLaw) : q.CommitLaw := fun pending empty => by
  have : p.xt.table = [] := List.prefix_nil.1 (empty ▸ h.table)
  exact law (by simpa [Part.commitPending, h.cfg] using pending) this

end Part.Admits

section
variable (p : Part)

theorem Part.withLift_admits (j : JackId) (n : Nat) (o : Origin) : p.Admits (p.withLift j n o) :=
  ⟨List.prefix_append _ _, rfl, rfl, rfl⟩

theorem Part.offered_admits (j : JackId) : p.Admits (p.offered j) := by
  unfold Part.offered
  dsimp only
  split
  · exact (p.withLift_admits j 1 .device).trans (.same rfl rfl rfl rfl)
  all_goals exact .same rfl rfl rfl rfl

theorem Part.roundTested_admits : p.Admits p.roundTested := by
  unfold Part.roundTested
  split <;> exact .same rfl rfl rfl rfl

theorem Part.roundPassed_admits : p.Admits p.roundPassed := by
  have offers := Part.Admits.foldl (fun q j => q.offered_admits j) p.mode.roundList p
  unfold Part.roundPassed
  dsimp only
  refine offers.trans (.trans ?_ (Part.roundTested_admits _))
  split <;> exact .same rfl rfl rfl rfl

theorem Part.roundStarted_admits : p.Admits p.roundStarted := by
  refine .trans ?_ (Part.roundPassed_admits _)
  exact .same rfl rfl rfl rfl

/-- An entry examined: commands at most added, the modes as they were (R55). -/
theorem Part.reexamined_admits (b : Bool) (e : Entry) : p.Admits (p.reexamined b e) ∧ (p.reexamined b e).mode = p.mode := by
  unfold Part.reexamined
  dsimp only
  split
  · exact ⟨.refl p, rfl⟩
  split
  · exact ⟨.same (by simp) (by simp) (by simp) (by simp), by simp⟩
  split
  · exact ⟨.same (by simp) (by simp) (by simp) (by simp), by simp⟩
  split
  · exact ⟨⟨List.prefix_append _ _, rfl, rfl, rfl⟩, rfl⟩
  · split
    · exact ⟨.refl p, rfl⟩
    · exact ⟨.same (by simp) (by simp) (by simp) (by simp), by simp⟩

theorem Part.repassed_admits (b : Bool) : p.Admits (p.repassed b) ∧ (p.repassed b).mode = p.mode := by
  refine ⟨Part.Admits.foldl (fun q e => (q.reexamined_admits b e).1) _ p, ?_⟩
  exact foldl_law (P := fun q : Part => q.mode = p.mode)
    (fun q e h => (q.reexamined_admits b e).2.trans h) p.adm.queue p rfl

/-! ### They do not read what is owed -/

variable (l : List Share)

@[simp] theorem Part.emit_setOwed (k : Kind) (s : Byte) (t : Tag) (d : List Byte) :
    (p.setOwed l).emit k s t d = (p.emit k s t d).setOwed l := by
  unfold Part.emit
  by_cases room : p.sendQueue.length < Config.maxSend
  · rw [if_pos room, if_pos (show (p.setOwed l).sendQueue.length < Config.maxSend from room)]
    rfl
  · rw [if_neg room, if_neg (show ¬(p.setOwed l).sendQueue.length < Config.maxSend from room)]
    rfl

theorem Part.offered_setOwed (j : JackId) : (p.setOwed l).offered j = (p.offered j).setOwed l := by
  unfold Part.offered
  rw [show (p.setOwed l).deviceHeldBy j = p.deviceHeldBy j from rfl]
  cases p.deviceHeldBy j with
  | none => rfl
  | some r => cases r <;> rfl

theorem Part.roundTested_setOwed : (p.setOwed l).roundTested = p.roundTested.setOwed l := by
  unfold Part.roundTested
  rw [apply_ite (Part.setOwed l)]
  rfl

theorem Part.offereds_setOwed (js : List JackId) :
    js.foldl Part.offered (p.setOwed l) = (js.foldl Part.offered p).setOwed l :=
  List.foldl_hom (Part.setOwed l) fun q j => q.offered_setOwed l j

theorem Part.roundPassed_setOwed : (p.setOwed l).roundPassed = p.roundPassed.setOwed l := by
  unfold Part.roundPassed
  rw [show (p.setOwed l).mode = p.mode from rfl, Part.offereds_setOwed, ← Part.roundTested_setOwed,
    apply_ite (Part.setOwed l)]
  rfl

theorem Part.roundRetried_setOwed : (p.setOwed l).roundRetried = p.roundRetried.setOwed l := by
  unfold Part.roundRetried
  rw [apply_ite (Part.setOwed l), ← Part.roundPassed_setOwed]
  rfl

theorem Part.roundStarted_setOwed : (p.setOwed l).roundStarted = p.roundStarted.setOwed l := by
  unfold Part.roundStarted
  rw [← Part.roundPassed_setOwed]
  rfl

theorem Part.refuse_setOwed (d : Byte) (k : Kind) (t : Tag) (r : Reason) :
    (p.setOwed l).refuse d k t r = (p.refuse d k t r).setOwed l := p.emit_setOwed l _ _ _ _

theorem Part.reexamined_setOwed (b : Bool) (e : Entry) : (p.setOwed l).reexamined b e = (p.reexamined b e).setOwed l := by
  unfold Part.reexamined
  rw [show (p.setOwed l).entryStands e = p.entryStands e from rfl,
    show (p.setOwed l).heldBy e.jack e.strokes = p.heldBy e.jack e.strokes from rfl]
  simp only [apply_ite (Part.setOwed l), ← Part.refuse_setOwed]
  cases p.heldBy e.jack e.strokes with
  | none => rfl
  | some r =>
    simp only [apply_ite (Part.setOwed l), Part.held, ← Part.emit_setOwed]
    rfl

theorem Part.repassed_setOwed (b : Bool) : (p.setOwed l).repassed b = (p.repassed b).setOwed l :=
  List.foldl_hom (Part.setOwed l) fun q e => q.reexamined_setOwed l b e

end

/-! ### Rows that take one share -/

theorem Part.leaseSince_idem (p q : Part) : p.leaseSince (p.leaseSince q) = p.leaseSince q := by
  unfold Part.leaseSince
  split
  · rfl
  · unfold Part.leaseTest
    cases lease : q.mode.lease with
    | none => simp [lease]
    | held asking granted => simp [lease]
    | pending asking =>
      by_cases grant : q.grantTest = true
      · simp [grant]
      · simp [grant, lease]

/-- A lease granted touches neither the open commands nor the configuration. -/
theorem Part.leaseSince_commitLaw {p q : Part} (law : q.CommitLaw) : (p.leaseSince q).CommitLaw := by
  unfold Part.leaseSince Part.leaseTest
  split
  · exact law
  · split
    · split
      · intro pending
        simp only [Part.reply_xt, Part.setMode_xt]
        exact law (by simpa [Part.commitPending] using pending)
      · exact law
    all_goals exact law

/-- A row whose share is not owed has no effect (log 2). -/
theorem State.due_unowed {s : State} {x : Share} (wait : s.part.resetWait ≠ some 0) (law : s.part.CommitLaw)
    (free : x ∉ s.part.owed) : s.due (Part.rowShare x) = .next s := by
  rw [State.due_settled wait, Part.rowShare, Part.takeShare_unowed (by simpa using free), Part.finish_self law]

/-- A row whose share is owed takes it, and where no commit meets quiescence, that is all but for the lease. -/
theorem State.due_owed {s : State} {x : Share} (wait : s.part.resetWait ≠ some 0) (owed : x ∈ s.part.owed)
    (law : ((s.part.share x).dropShare x).CommitLaw) :
    s.due (Part.rowShare x) = .next { s with part := s.part.leaseSince ((s.part.share x).dropShare x) } := by
  have once : s.part.finish ((s.part.share x).dropShare x) = s.part.leaseSince ((s.part.share x).dropShare x) := by
    rw [Part.finish, Part.quiesce_eq (Part.leaseSince_commitLaw law)]
  rw [State.due_settled wait, Part.rowShare, Part.takeShare, if_pos (List.contains_iff_mem.2 owed), once,
    Part.finish, Part.leaseSince_idem, Part.quiesce_eq (Part.leaseSince_commitLaw law)]

/-- A share that does nothing is owed no more. -/
theorem State.due_nothing {s : State} {x : Share} (wait : s.part.resetWait ≠ some 0) (law : s.part.CommitLaw)
    (owed : x ∈ s.part.owed) (none : s.part.share x = s.part) :
    s.due (Part.rowShare x) = .next { s with part := { s.part with owed := s.part.owed.filter (· ≠ x) } } := by
  have same : s.part.leaseSince (s.part.dropShare x) = s.part.dropShare x := Part.leaseSince_keep rfl rfl
  rw [State.due_owed wait owed (by rw [none]; exact law), none, same]
  rfl

end Sys2Proof.Machine
end

section
/-! SUPPORT. ADM's share of an advance (R56), the creep timer (R108, R109), the lease's end (R150, R151) and the commit
wait (R163). -/

namespace Sys2Proof.Machine

/-- A share that at most admits commands, taken. -/
theorem State.due_admits {s : State} {x : Share} {q : Part} (wait : s.part.resetWait ≠ some 0) (law : s.part.CommitLaw)
    (owed : x ∈ s.part.owed) (share : s.part.share x = q) (admits : s.part.Admits q) :
    s.due (Part.rowShare x)
      = .next { s with part := s.part.leaseSince (q.setOwed (s.part.owed.filter (· ≠ x))) } := by
  rw [State.due_owed wait owed, share, Part.dropShare_eq, admits.owed]
  rw [share]
  exact admits.commitLaw law

/-- Such a share that ends no round, and closes no round command. -/
theorem State.due_keeps {s : State} {x : Share} {q : Part} (wait : s.part.resetWait ≠ some 0) (law : s.part.CommitLaw)
    (owed : x ∈ s.part.owed) (share : s.part.share x = q) (admits : s.part.Admits q)
    (round : q.mode.roundInProgress = s.part.mode.roundInProgress)
    (commands : q.mode.roundCommands = s.part.mode.roundCommands) :
    s.due (Part.rowShare x) = .next { s with part := q.setOwed (s.part.owed.filter (· ≠ x)) } := by
  have same : s.part.leaseSince (q.setOwed (s.part.owed.filter (· ≠ x))) = q.setOwed (s.part.owed.filter (· ≠ x)) :=
    Part.leaseSince_keep round commands
  rw [State.due_admits wait law owed share admits, same]

/-- Such a share that leaves no lease. -/
theorem State.due_unleased {s : State} {x : Share} {q : Part} (wait : s.part.resetWait ≠ some 0)
    (owed : x ∈ s.part.owed) (share : s.part.share x = q) (law : q.CommitLaw) (same : q.owed = s.part.owed)
    (free : q.mode.lease = .none) :
    s.due (Part.rowShare x) = .next { s with part := q.setOwed (s.part.owed.filter (· ≠ x)) } := by
  rw [State.due_owed wait owed (by rw [share]; exact law), share, Part.dropShare_eq, same, Part.leaseSince_none]
  intro asking pending
  exact nomatch free.symm.trans pending

/-! ### ADM's share (R56) -/

/-- An entry that is alone in the queue, and overdue, expires (R55, R56). -/
theorem Part.passWith_expires {p : Part} {e : Entry} (alone : p.adm.queue = [e])
    (late : p.bank.deferLimit < age p.clock e.deferred) (stands : p.entryStands e = true) :
    p.passWith true = ({ p with adm := ⟨[], p.adm.occupancy⟩ } : Part).refuse e.node .lift e.tag .expired := by
  simp [Part.passWith, alone, Part.examine, Part.entryOf, Part.examineEntry, stands, Part.overdue, late,
    Part.refuseEntry, Part.dropEntry, Part.setQueue]

/-- Settles O38: the pass entry by entry, as reexamined writes it; an empty queue; one entry alone. -/
theorem deferredEntriesExpire : Obligations.DeferredEntriesExpire := by
  unfold Obligations.DeferredEntriesExpire
  intro s wait law
  dsimp only
  refine ⟨State.due_unowed wait law, fun owed => ⟨fun open_ => ?_, fun empty => ?_, fun e alone late stands => ?_⟩⟩
  · obtain ⟨admits, mode⟩ := s.part.repassed_admits true
    have share : s.part.share .deferred = s.part.repassed true := Part.passWith_eq (p := s.part) open_.2 true
    refine (State.due_keeps wait law owed share admits (by rw [mode]) (by rw [mode])).trans ?_
    rw [← Part.repassed_setOwed]
    rfl
  · have none : s.part.passWith true = s.part := by
      rw [Part.passWith, show s.part.adm.queue = [] from empty]
      rfl
    exact State.due_nothing wait law owed none
  · have share : s.part.share .deferred = _ := Part.passWith_expires (p := s.part) alone late stands
    refine (State.due_keeps wait law owed share (.same ?_ ?_ ?_ ?_) ?_ ?_).trans ?_
    case refine_7 =>
      rw [← Part.refuse_setOwed]
      rfl
    all_goals simp

/-! ### The creep timer (R108, R109) -/

/-- The creep timer loaded again. -/
def Part.creepLoaded (p : Part) : Part :=
  { p with mode := { p.mode with creepTimer := some p.bank.creepInterval } }

theorem Part.expireCreep_held {p : Part} (h : p.mode.lease.code = 2) : p.expireCreep =
    ({ p.creepLoaded with mode := { p.creepLoaded.mode with roundOwed := true } } : Part).raise .creepSkipped := by
  rcases p with ⟨_, _, _, _, _, ⟨_, _, _, _, _, _, _, _ | _ | _⟩, _⟩
  · nomatch h
  · nomatch h
  · rfl

theorem Part.expireCreep_pending {p : Part}
    (h : p.mode.lease.code = 1 ∨ (p.mode.lease = .none ∧ p.mode.roundInProgress = true)) :
    p.expireCreep = p.creepLoaded.raise .creepSkipped := by
  rcases p with ⟨_, _, _, _, _, ⟨_, _, _, round, _, _, _, _ | _ | _⟩, _⟩
  · rcases h with h | ⟨-, h⟩
    · nomatch h
    · cases h
      rfl
  · rfl
  · rcases h with h | ⟨h, -⟩ <;> nomatch h

theorem Part.expireCreep_none {p : Part} (h : p.mode.lease = .none) (idle : p.mode.roundInProgress = false) :
    p.expireCreep = p.creepLoaded.roundStarted := by
  rw [← Part.startRound_eq]
  rcases p with ⟨_, _, _, _, _, ⟨_, _, _, _ | _, _, _, _, _ | _ | _⟩, _⟩
  · rfl
  · nomatch h
  · nomatch h
  all_goals nomatch idle

/-- Settles O36: by the lease's state, as R109 lists them. -/
theorem creepTimerExpires : Obligations.CreepTimerExpires := by
  unfold Obligations.CreepTimerExpires
  intro s wait law
  dsimp only
  refine ⟨State.due_unowed wait law, fun owed => ⟨fun running => ?_, fun expired => ?_⟩⟩
  · exact State.due_nothing wait law owed (if_neg (by simpa [Part.creepDue] using running))
  have due : s.part.share .creep = s.part.expireCreep := if_pos (by simpa [Part.creepDue] using expired)
  refine ⟨fun held => ?_, fun skips => ?_, fun none idle => ?_⟩
  · exact State.due_keeps wait law owed (due.trans (Part.expireCreep_held held)) (.same rfl rfl rfl rfl) rfl rfl
  · exact State.due_keeps wait law owed (due.trans (Part.expireCreep_pending skips)) (.same rfl rfl rfl rfl) rfl rfl
  · have loaded : s.part.Admits s.part.creepLoaded := .same rfl rfl rfl rfl
    have started := loaded.trans s.part.creepLoaded.roundStarted_admits
    refine (State.due_unleased wait owed (due.trans (Part.expireCreep_none none idle)) (started.commitLaw law)
      started.owed (started.lease.trans none)).trans ?_
    rw [← Part.roundStarted_setOwed]
    rfl

/-! ### The lease's end (R150, R151) -/

/-- The lease gone, and the asker or the holder told of it: the REPLY with its code and outcome (R150, R151). -/
def Part.leaseOver (p : Part) (tag : Tag) (code outcome : Byte) : Part :=
  ({ p with mode := { p.mode with lease := .none } } : Part).emit .reply 0 tag [code, outcome]

/-- After a lease an owed round starts, in HOLD; otherwise nothing else happens (R116). -/
theorem Part.owedRound_admits (p : Part) : p.Admits p.owedRound := by
  have given : p.Admits { p with mode := { p.mode with roundOwed := false } } := .same rfl rfl rfl rfl
  rw [Part.owedRound_eq]
  split
  · exact given.trans (Part.roundStarted_admits _)
  · exact .refl p

theorem Part.owedRound_setOwed (p : Part) (l : List Share) : (p.setOwed l).owedRound = p.owedRound.setOwed l := by
  rw [Part.owedRound_eq, Part.owedRound_eq, apply_ite (Part.setOwed l), ← Part.roundStarted_setOwed]
  rfl

theorem Part.owedRound_of_none {p : Part} (h : p.mode.mode.isHold = false ∨ p.mode.roundOwed = false) :
    p.owedRound = p := by
  rw [Part.owedRound_eq, if_neg]
  rcases h with h | h <;> simp [h]

theorem Part.owedRound_of_owed {p : Part} (hold : p.mode.mode.isHold = true) (owed : p.mode.roundOwed = true) :
    p.owedRound = ({ p with mode := { p.mode with roundOwed := false } } : Part).roundStarted := by
  rw [Part.owedRound_eq, if_pos ⟨hold, owed⟩]

/-- LEASE-END of a lease, taken. -/
theorem exec_leaseEnd {s : State} {tag : Tag} (ready : s.part.Ready) (leased : s.part.acceptAny.mode.lease ≠ .none) :
    exec (.leaseEnd tag) s
      = .next { s with part := (s.part.acceptAny.leaseOver tag 21 0).owedRound } := by
  have asked : s.part.acceptAny.leaseEnd tag = (s.part.acceptAny.leaseOver tag 21 0).owedRound := by
    unfold Part.leaseEnd
    rw [if_neg]
    · rfl
    · cases e : s.part.acceptAny.mode.lease with
      | none => exact absurd e leased
      | pending | held => simp [Lease.isNone]
  have admits := Part.owedRound_admits (s.part.acceptAny.leaseOver tag 21 0)
  refine (State.takeRequest_ready ready).trans ?_
  rw [asked, Part.finish_eq]
  · refine Part.leaseSince_none fun asking pending => ?_
    rw [admits.lease] at pending
    simp [Part.leaseOver] at pending
  · refine admits.commitLaw fun pending => ?_
    have law := Part.acceptAny_commitLaw ready.1.2.2
    simp only [Part.leaseOver, Part.emit_xt] at pending ⊢
    exact law (by simpa [Part.commitPending] using pending)

/-- A lease that has no owed round waiting ends without more. -/
theorem Part.owedRound_over {p : Part} {tag : Tag} {code outcome : Byte}
    (h : p.mode.mode.isHold = false ∨ p.mode.roundOwed = false) :
    (p.leaseOver tag code outcome).owedRound = p.leaseOver tag code outcome :=
  Part.owedRound_of_none (by simpa [Part.leaseOver] using h)

/-- A lease that ends in HOLD with a round owed: the round starts (R116). -/
theorem Part.owedRound_over_owed {p : Part} {tag : Tag} {code outcome : Byte} (hold : p.mode.mode.isHold = true)
    (owed : p.mode.roundOwed = true) : (p.leaseOver tag code outcome).owedRound
      = ({ p.leaseOver tag code outcome with
          mode := { (p.leaseOver tag code outcome).mode with roundOwed := false } } : Part).roundStarted :=
  Part.owedRound_of_owed (by simpa [Part.leaseOver] using hold) (by simpa [Part.leaseOver] using owed)

theorem Part.leaseOver_setOwed (p : Part) (l : List Share) (tag : Tag) (code outcome : Byte) :
    (p.setOwed l).leaseOver tag code outcome = (p.leaseOver tag code outcome).setOwed l := by
  rw [Part.leaseOver, Part.leaseOver, ← Part.emit_setOwed]
  rfl

/-- A lease that has not reached its limit stands. -/
theorem Part.shareLease_keeps {p : Part}
    (h : ∀ asking granted, p.mode.lease = .held asking granted → age p.clock granted < p.bank.leaseLimit) :
    p.shareLease = p := by
  unfold Part.shareLease
  cases lease : p.mode.lease with
  | none | pending => rfl
  | held asking granted => exact if_neg (Nat.not_le.2 (h asking granted lease))

theorem Part.shareLease_ends {p : Part} {asking : Tag} {granted : Clock} (held : p.mode.lease = .held asking granted)
    (late : p.bank.leaseLimit ≤ age p.clock granted) :
    p.shareLease = ((p.raise .leaseOverrun).leaseOver asking 20 6).owedRound := by
  unfold Part.shareLease
  rw [held]
  exact if_pos late

/-- LEASE-LIMIT of a lease that has reached its limit, taken (R151). -/
theorem exec_leaseLimit {s : State} {asking : Tag} {granted : Clock} (wait : s.part.resetWait ≠ some 0)
    (law : s.part.CommitLaw) (owed : Share.lease ∈ s.part.owed) (held : s.part.mode.lease = .held asking granted)
    (late : s.part.bank.leaseLimit ≤ age s.part.clock granted) :
    exec .leaseLimit s = .next { s with part :=
      (((s.part.setOwed (s.part.owed.filter (· ≠ Share.lease))).raise .leaseOverrun).leaseOver asking 20 6).owedRound } := by
  have share : s.part.share .lease = _ := Part.shareLease_ends held late
  have admits := Part.owedRound_admits ((s.part.raise .leaseOverrun).leaseOver asking 20 6)
  have ended : ((s.part.raise .leaseOverrun).leaseOver asking 20 6).CommitLaw := fun pending =>
    by simpa [Part.leaseOver] using law (by simpa [Part.leaseOver, Part.commitPending] using pending)
  refine (State.due_unleased wait owed share (admits.commitLaw ended) (admits.owed.trans ?_)
    (admits.lease.trans ?_)).trans ?_
  · simp [Part.leaseOver]
  · simp [Part.leaseOver]
  · rw [← Part.owedRound_setOwed, ← Part.leaseOver_setOwed]
    rfl

/-- Settles O35: LEASE-END by whether a lease and an owed round stand, then the limit by whether it is reached. -/
theorem leaseEnds : Obligations.LeaseEnds := by
  unfold Obligations.LeaseEnds
  dsimp only
  refine ⟨fun s tag ready => ⟨fun free => ?_, fun leased idle => ?_, fun leased hold owed => ?_⟩,
    fun s wait law => ⟨State.due_unowed wait law, fun owed short => ?_, fun asking granted owed held late =>
      ⟨fun idle => ?_, fun hold due => ?_⟩⟩⟩
  · have denied : s.part.acceptAny.leaseEnd tag = s.part.acceptAny.deny tag 21 .notLeased := by
      simp [Part.leaseEnd, free, Lease.isNone, codeLeaseEnd]
    refine (State.takeRequest_keep ready ?_ ?_ ?_).trans (by rw [denied])
    all_goals rw [denied]
    · exact Part.leaseSince_none fun asking pending => by simp [free] at pending
    all_goals simp
  · rw [exec_leaseEnd ready leased, Part.owedRound_over idle]
    rfl
  · rw [exec_leaseEnd ready leased, Part.owedRound_over_owed hold owed]
    rfl
  · exact State.due_nothing wait law owed (Part.shareLease_keeps short)
  · rw [exec_leaseLimit wait law owed held late, Part.owedRound_over]
    · rfl
    · exact idle
  · rw [exec_leaseLimit wait law owed held late, Part.owedRound_over_owed]
    · rfl
    · exact hold
    · exact due

end Sys2Proof.Machine
end

section
/-! SUPPORT. The commit wait (R163), and what is recorded for good: an event raised stays raised within the step
(R136). -/

namespace Sys2Proof.Machine

/-! ### Events stay raised -/

@[simp] theorem Part.raise_hasEvent (p : Part) (e : EventKind) : (p.raise e).hasEvent e = true := by
  cases e <;> simp [Part.hasEvent, Part.raise, EventKind.bit]

theorem Part.hasEvent_raise {p : Part} {e : EventKind} (d : EventKind) (h : p.hasEvent e = true) :
    (p.raise d).hasEvent e = true := by
  unfold Part.hasEvent at h
  simp [Part.hasEvent, Part.raise, h]

theorem Quiet.hasEvent {p q : Part} {e : EventKind} (quiet : Quiet p q) (h : p.hasEvent e = true) :
    q.hasEvent e = true := by
  induction quiet with
  | trans _ _ first second => exact second (first h)
  | raise p d => exact Part.hasEvent_raise d h
  | close p q c _ _ inner =>
    have kept : (q.releaseOf c).hasEvent e = q.hasEvent e := by
      unfold Part.releaseOf
      split <;> rfl
    exact kept.trans (inner h)
  | _ => exact h

/-! ### The commit wait (R163) -/

/-- The pending commit gone, with COMMIT-CANCELLED raised (R162). -/
def Part.commitDropped (p : Part) : Part :=
  { p with
    cfg := { p.cfg with commit := .idle }
    mon := { p.mon with events := p.mon.events ||| 8192 } }

/-- The deck told that the commit it asked for is off: the wait has no failing check to name (R163). -/
def Part.commitOff (p : Part) (tag : Tag) : Part := p.commitDropped.emit .reply 0 tag [8, 4, 255, 255]

theorem Part.cancelCommit_eq (p : Part) (tag : Tag) :
    p.cancelCommit tag none = (p.commitOff tag).admPass.creepPassIfWaiting := rfl

theorem Part.cancelCommit_quiet (p : Part) (tag : Tag) : Quiet (p.commitOff tag) (p.cancelCommit tag none) :=
  (Part.admPass_quiet _).trans (Part.creepPassIfWaiting_quiet _)

theorem Part.commitOff_cfg (p : Part) (tag : Tag) : (p.commitOff tag).cfg = { p.cfg with commit := .idle } := by
  simp [Part.commitOff, Part.commitDropped]

theorem Part.commitOff_keeps (p : Part) (tag : Tag) : Quiet.Keeps p.commitDropped (p.commitOff tag) :=
  (Part.emit_quiet _ _ _ _ _).keeps

/-- A commit that is off is not pending, so nothing meets quiescence (R160). -/
theorem Part.cancelCommit_commitLaw (p : Part) (tag : Tag) : (p.cancelCommit tag none).CommitLaw := fun pending => by
  rw [Part.commitPending, (p.cancelCommit_quiet tag).keeps.cfg, Part.commitOff_cfg] at pending
  nomatch pending

theorem Part.commitOff_setOwed (p : Part) (l : List Share) (tag : Tag) :
    (p.setOwed l).commitOff tag = (p.commitOff tag).setOwed l := by
  rw [Part.commitOff, Part.commitOff, ← Part.emit_setOwed]
  rfl

/-- COMMIT-WAIT-CANCEL of a commit that has waited its time, taken. -/
theorem exec_commitWaitCancel {s : State} {tag : Tag} {accepted : Clock} (wait : s.part.resetWait ≠ some 0)
    (owed : Share.commitWait ∈ s.part.owed) (pending : s.part.cfg.commit = .pending tag accepted)
    (late : age s.part.clock accepted = s.part.bank.commitWait) :
    exec .commitWaitCancel s = .next { s with part :=
      (s.part.leaseSince ((s.part.cancelCommit tag none).setOwed (s.part.owed.filter (· ≠ Share.commitWait)))) } := by
  have share : s.part.share .commitWait = s.part.cancelCommit tag none := by
    change s.part.shareCommitWait = _
    unfold Part.shareCommitWait
    rw [pending]
    exact if_pos late
  have kept : (s.part.cancelCommit tag none).owed = s.part.owed := by
    rw [(s.part.cancelCommit_quiet tag).keeps.owed]
    simp [Part.commitOff, Part.commitDropped]
  refine (State.due_owed wait owed (by rw [share]; exact Part.cancelCommit_commitLaw _ _)).trans ?_
  rw [share, Part.dropShare_eq, kept]

theorem Part.retried_setOwed {p : Part} {x : Share} (other : x ≠ .deferred) :
    (p.setOwed (p.owed.filter (· ≠ x))).retried = p.retried.setOwed (p.owed.filter (· ≠ x)) := by
  have guard : (p.owed.filter (· ≠ x)).contains .deferred = p.owed.contains .deferred :=
    Bool.eq_iff_iff.mpr (by simp [other.symm])
  rw [Part.retried, Part.retried, ← Part.repassed_setOwed, ← guard]
  rfl

/-- Settles O40: the wait not reached; reached, what is told and what stays; the passes it triggers, entry by entry. -/
theorem commitWaitCancels : Obligations.CommitWaitCancels := by
  unfold Obligations.CommitWaitCancels
  intro s wait law
  dsimp only
  refine ⟨State.due_unowed wait law, fun owed => ⟨fun early => ?_, fun tag accepted pending late => ?_⟩⟩
  · refine State.due_nothing wait law owed ?_
    change s.part.shareCommitWait = _
    unfold Part.shareCommitWait
    cases commit : s.part.cfg.commit with
    | idle => rfl
    | pending tag accepted => exact if_neg (early tag accepted commit)
  rw [exec_commitWaitCancel wait owed pending late]
  have off := s.part.commitOff_setOwed (s.part.owed.filter (· ≠ Share.commitWait)) tag
  refine ⟨⟨_, rfl, ?_⟩, fun open_ => ?_, fun empty list => ?_⟩
  · have passes := s.part.cancelCommit_quiet tag
    have lease := Part.leaseSince_quiet
      ((s.part.cancelCommit tag none).setOwed (s.part.owed.filter (· ≠ Share.commitWait))) s.part
    have freed (p : Part) : Grows p (p.setOwed (s.part.owed.filter (· ≠ Share.commitWait))) := .same rfl
    have grows : Grows ((s.part.commitOff tag).setOwed (s.part.owed.filter (· ≠ Share.commitWait))) _ :=
      .trans (q := s.part.commitOff tag) (.same rfl) (passes.grows.trans ((freed _).trans lease.grows))
    rw [← off] at grows
    have raised : (s.part.commitOff tag).hasEvent .commitCancelled = true :=
      (Part.emit_quiet _ _ _ _ _).hasEvent (Part.raise_hasEvent s.part .commitCancelled)
    have kept := (s.part.commitOff_keeps tag).trans passes.keeps
    have last := lease.keeps
    exact ⟨Part.answers_of_grows rfl grows, lease.hasEvent (passes.hasEvent raised),
      ⟨last.cfg.trans kept.cfg, last.clock.trans kept.clock, last.owed, last.resetCause.trans kept.resetCause,
        last.resetWait.trans kept.resetWait, last.stopIn.trans kept.stopIn, last.resetLine.trans kept.resetLine,
        last.order.trans kept.order⟩,
      last.jacks.trans kept.jacks, last.sectors.trans kept.sectors, last.sup.trans kept.sup,
      last.stopOut.trans kept.stopOut, last.climb.trans kept.climb⟩
  · have single : (s.part.commitOff tag).Single := by
      have kept : (s.part.commitOff tag).adm = s.part.adm ∧ (s.part.commitOff tag).xt = s.part.xt := by
        simp [Part.commitOff, Part.commitDropped]
      rw [Part.Single, Part.lifted, kept.1, kept.2]
      exact open_.2
    have owed : (s.part.commitOff tag).owed = s.part.owed := by simp [Part.commitOff, Part.commitDropped]
    have retried := Part.retried_setOwed (p := s.part.commitOff tag) (x := .commitWait) nofun
    rw [owed, ← off] at retried
    rw [Part.cancelCommit_eq, Part.admPass_eq single, Part.creepPassIfWaiting_eq, Part.leaseSince_eq,
      ← Part.roundRetried_setOwed, ← retried]
    rfl
  · have none : s.part.cancelCommit tag none = s.part.commitOff tag := by
      have queue : (s.part.commitOff tag).adm.queue = [] := by simpa [Part.commitOff, Part.commitDropped] using empty
      have idle : (s.part.commitOff tag).mode.roundList = [] := by
        simpa [Part.commitOff, Part.commitDropped] using list
      rw [Part.cancelCommit_eq, Part.admPass, Part.passWith, queue]
      exact if_pos (by simp [idle])
    rw [none, ← off, Part.leaseSince_keep]
    · rfl
    all_goals simp [Part.commitOff, Part.commitDropped, Part.setOwed]

end Sys2Proof.Machine
end

section
/-! SUPPORT. Every Turn keeps the laws of the deferred queue, of the open commands and of the pump groups (R43, R51, R53,
R65): within a close a group's occupancy is one ahead of its open LIFTs, so the count is carried with a surplus. -/

namespace Sys2Proof.Machine

/-- The jack that a subject is, if it is one. -/
def Subject.jack? : Subject → Option JackId
  | .jack j => some j
  | .feed _ => none

theorem Command.liftJack_eq (c : Command) : c.liftJack = c.subject.jack? := by
  obtain ⟨task, _⟩ := c
  cases task <;> rfl

/-- The jacks with an open LIFT are the jacks among the subjects. -/
theorem Part.lifted_eq (p : Part) : p.lifted = p.subjects.filterMap Subject.jack? := by
  simp only [Part.lifted, Part.subjects, List.filterMap_map]
  exact List.filterMap_congr fun c _ => c.liftJack_eq

theorem Part.mem_lifted {p : Part} {j : JackId} : j ∈ p.lifted ↔ Subject.jack j ∈ p.subjects := by
  rw [Part.lifted_eq, List.mem_filterMap]
  refine ⟨?_, fun h => ⟨_, h, rfl⟩⟩
  rintro ⟨x, h, e⟩
  cases x
  · cases e
    exact h
  · nomatch e

/-- The laws of admission but for the mode: each group's occupancy is ahead of its open LIFTs by a surplus (R51). -/
structure Part.Orderly (ahead : GroupId → Nat) (p : Part) : Prop where
  waits : p.adm.queue.length ≤ Config.maxDeferred
  opens : p.openCount ≤ Config.maxOpen
  single : p.Single
  fills : ∀ g, p.occupancy g = p.groupLifts g + ahead g
  fits : ∀ g, p.occupancy g ≤ p.bank.groups[g]

theorem Part.orderly_iff {p : Part} : p.Orderly (fun _ => 0) ∧ (p.mode.mode ≠ .slip → p.adm.queue = [])
    ↔ p.DeferredLaw ∧ p.OpenLaw ∧ p.GroupLaw := by
  constructor
  · rintro ⟨⟨waits, opens, single, fills, fits⟩, idle⟩
    exact ⟨⟨waits, (List.nodup_append.1 single).1, idle⟩, ⟨opens, single⟩, fun g => ⟨fills g, fits g⟩⟩
  · rintro ⟨⟨waits, -, idle⟩, ⟨opens, single⟩, group⟩
    exact ⟨⟨waits, opens, single, fun g => (group g).1, fun g => (group g).2⟩, idle⟩

namespace Part.Orderly

variable {p q : Part} {ahead : GroupId → Nat}

/-- A queue of fewer entries, and the same LIFTs open. -/
theorem lifting (h : p.Orderly ahead) (queue : q.waiting.Sublist p.waiting) (lifted : q.lifted = p.lifted)
    (opens : q.openCount ≤ Config.maxOpen) (occupancy : q.adm.occupancy = p.adm.occupancy)
    (bank : q.cfg.active = p.cfg.active) : q.Orderly ahead := by
  obtain ⟨waits, -, single, fills, fits⟩ := h
  have group : q.groupOf = p.groupOf := by funext j; simp only [Part.groupOf, Part.jackEntry, Part.bank, bank]
  refine ⟨?_, opens, ?_, fun g => ?_, fun g => ?_⟩
  · simpa [Part.waiting] using queue.length_le.trans (by simpa [Part.waiting] using waits)
  · rw [Part.Single, lifted]
    exact single.sublist (queue.append_right _)
  · simpa only [Part.occupancy, Part.groupLifts, lifted, group, occupancy] using fills g
  · simpa only [Part.occupancy, Part.bank, occupancy, bank] using fits g

/-- A queue of fewer entries, and nothing opened or closed. -/
theorem fewer (h : p.Orderly ahead) (queue : q.waiting.Sublist p.waiting) (subjects : q.subjects = p.subjects)
    (occupancy : q.adm.occupancy = p.adm.occupancy) (bank : q.cfg.active = p.cfg.active) : q.Orderly ahead := by
  have count : q.openCount = p.openCount := by
    simpa only [Part.openCount, Part.subjects, List.length_map] using congrArg List.length subjects
  exact h.lifting queue (by rw [Part.lifted_eq, Part.lifted_eq, subjects]) (count ▸ h.opens) occupancy bank

/-- A LIFT admitted takes a place of its group (R50, R51). -/
theorem admitLift (h : p.Orderly ahead) {j : JackId} (n : Nat) (o : Origin) (closed : p.openOf (.jack j) = none)
    (fresh : j ∉ p.waiting) (place : p.HasPlace j) : (p.admitLift j n o).Orderly ahead := by
  obtain ⟨waits, opens, single, fills, fits⟩ := h
  obtain ⟨room, free⟩ := place
  have free : p.occupancy (p.groupOf j) < p.bank.groups[p.groupOf j] := lt_of_le_of_ne (fits _) free
  have occ : ∀ g, (p.withLift j n o).occupancy g = p.occupancy g + if p.groupOf j = g then 1 else 0 := fun g => by
    by_cases here : p.groupOf j = g
    · subst here
      simp [Part.occupancy, Part.withLift, Part.groupOf]
    · have away : (p.jackEntry j).group.val ≠ g.val := fun e => here (Fin.ext e)
      simp [Part.occupancy, Part.withLift, here, away]
  rw [Part.admitLift_eq p n o closed]
  refine ⟨waits, ?_, ?_, fun g => ?_, fun g => ?_⟩
  · simpa [Part.openCount, Part.withLift] using room
  · rw [Part.Single, Part.lifted_withLift, ← List.append_assoc, List.nodup_append]
    refine ⟨single, List.nodup_singleton _, fun a ha b hb => ?_⟩
    rw [List.mem_singleton.1 hb]
    rintro rfl
    rcases List.mem_append.1 ha with ha | ha
    · exact fresh ha
    · exact Part.openOf_eq_none.1 closed (Part.mem_lifted.1 ha)
  · have lifts : (p.withLift j n o).groupLifts g = p.groupLifts g + if p.groupOf j = g then 1 else 0 := by
      rw [Part.groupLifts, Part.lifted_withLift, List.countP_append, List.countP_singleton]
      simp only [beq_iff_eq]
      rfl
    rw [occ, lifts, fills g]
    omega
  · rw [occ]
    split
    · next e => subst e; exact free
    · exact fits g

/-- A command gone, but not yet its place: the group of its jack is one ahead (R72 steps 1 and 4). -/
theorem removed (h : p.Orderly ahead) {j : JackId} (here : j ∈ p.lifted) :
    (p.removeCommand (.jack j)).Orderly fun g => ahead g + if p.groupOf j = g then 1 else 0 := by
  obtain ⟨waits, opens, single, fills, fits⟩ := h
  have nodup := (List.nodup_append.1 single).2.1
  have lifted : (p.removeCommand (.jack j)).lifted = p.lifted.erase j := by
    rw [nodup.erase_eq_filter, Part.lifted, Part.lifted, List.filter_filterMap]
    refine (List.filterMap_filter ..).trans (List.filterMap_congr fun c _ => ?_)
    rw [c.liftJack_eq]
    cases c.subject with
    | jack i => by_cases e : i = j <;> simp [Subject.jack?, Option.filter, e]
    | feed f => simp [Subject.jack?]
  refine ⟨waits, ?_, ?_, fun g => ?_, fits⟩
  · exact (List.length_filter_le _ _).trans opens
  · rw [Part.Single, lifted]
    exact single.sublist ((List.Sublist.refl _).append List.erase_sublist)
  · have gone : (p.removeCommand (.jack j)).groupLifts g = p.groupLifts g - if p.groupOf j = g then 1 else 0 := by
      rw [Part.groupLifts, lifted, List.countP_erase]
      simp [here, Part.groupLifts]
      rfl
    have counted : p.groupOf j = g → 0 < p.groupLifts g := fun e =>
      List.countP_pos_iff.2 ⟨j, here, by simpa using e⟩
    have before := fills g
    rw [gone]
    change p.occupancy g = _
    split
    · next e => have := counted e; omega
    · omega

/-- A POUR gone, or opened: no LIFT is. -/
theorem removedFeed (h : p.Orderly ahead) (f : FeedId) : (p.removeCommand (.feed f)).Orderly ahead := by
  refine h.lifting (.refl _) ?_ ((List.length_filter_le _ _).trans h.opens) rfl rfl
  rw [Part.lifted, Part.lifted]
  refine (List.filterMap_filter ..).trans (List.filterMap_congr fun c _ => ?_)
  rw [c.liftJack_eq]
  cases c.subject with
  | jack i => simp
  | feed f => simp [Subject.jack?]

theorem openPour (h : p.Orderly ahead) (f : FeedId) (k : SectorId) (o : Origin) (n : Nat)
    (room : p.openCount < Config.maxOpen) : (p.openCommand (.pour f k) o n).Orderly ahead := by
  have opened := p.openCommand_subjects (.pour f k) o n
  obtain ⟨-, cfg, adm⟩ := p.openCommand_rest (.pour f k) o n
  refine h.lifting (by rw [Part.waiting, adm]; exact .refl _) ?_ ?_ (by rw [adm]) (by rw [cfg])
  · rw [Part.lifted_eq, Part.lifted_eq, opened, List.filterMap_append]
    simp [Task.subject, Subject.jack?]
  · have count := congrArg List.length opened
    simp only [Part.subjects, List.length_map, List.length_append, List.length_singleton] at count
    rw [Part.openCount, count]
    exact room

/-- A close: what happens between the record's removal and the release of its place keeps the laws, however far ahead
the groups are (R72). -/
theorem close (h : p.Orderly ahead) {c : Command} (here : (p.openOf c.subject).isSome) (cfg : q.cfg = p.cfg)
    (inner : ∀ ahead, (p.removeCommand c.subject).Orderly ahead → q.Orderly ahead) : (q.releaseOf c).Orderly ahead := by
  unfold Part.releaseOf
  cases task : c.task with
  | pour f k =>
    refine inner _ ?_
    rw [Command.subject, task]
    exact h.removedFeed f
  | lift j =>
    have subject : c.subject = .jack j := by rw [Command.subject, task]; rfl
    have lifted : j ∈ p.lifted := by
      rw [Part.mem_lifted, ← subject]
      exact Classical.not_not.1 fun out => by simp [Part.openOf_eq_none.2 out] at here
    obtain ⟨waits, opens, single, fills, fits⟩ := inner _ (subject ▸ h.removed lifted)
    have group : q.groupOf j = p.groupOf j := by simp only [Part.groupOf, Part.jackEntry, Part.bank, cfg]
    have occ : ∀ g, (q.release (q.groupOf j)).occupancy g
        = if p.groupOf j = g then q.occupancy g - 1 else q.occupancy g := fun g => by
      rw [← group]
      by_cases e : q.groupOf j = g
      · subst e
        simp [Part.occupancy, Part.release, Part.setOccupancy]
      · have away : (q.groupOf j).val ≠ g.val := fun v => e (Fin.ext v)
        simp [Part.occupancy, Part.release, Part.setOccupancy, e, away]
    refine ⟨waits, opens, single, fun g => ?_, fun g => ?_⟩
    · have counted := fills g
      rw [occ]
      change _ = q.groupLifts g + _
      split at counted
      · next e => rw [if_pos e]; omega
      · next e => rw [if_neg e]; omega
    · have room := fits g
      rw [occ]
      change _ ≤ q.bank.groups[g]
      split <;> omega

end Part.Orderly

/-! ### Quiet operations, judgements, courses -/

theorem Part.entryOf_mem {p : Part} {j : JackId} {e : Entry} (h : p.entryOf j = some e) : e ∈ p.adm.queue :=
  List.mem_of_find?_eq_some h

theorem Quiet.orderly {p q : Part} (h : Quiet p q) : ∀ ahead, p.Orderly ahead → q.Orderly ahead := by
  induction h with
  | refl => exact fun _ => id
  | trans _ _ a b => exact fun _ => b _ ∘ a _
  | queue p l sub => exact fun _ h => h.fewer sub rfl rfl rfl
  | promote p e n o here place =>
    intro ahead h
    have left : (p.dropEntry e.jack).Orderly ahead := h.fewer (List.filter_sublist.map _) rfl rfl rfl
    refine left.admitLift n o (h.single.closed (Part.entryOf_mem here)) ?_ place
    simp [Part.waiting, Part.dropEntry]
  | issue p j n o closed fresh place =>
    exact fun _ h => h.admitLift n o closed (Part.entryOf_eq_none.1 fresh) place
  | table p l same => exact fun _ h => h.fewer (.refl _) same rfl rfl
  | close p q c here inner ih => exact fun _ h => h.close here inner.keeps.cfg ih
  | _ => exact fun _ h => h.fewer (.refl _) rfl rfl rfl

theorem Loud.orderly {p q : Part} (h : Loud p q) : ∀ ahead, p.Orderly ahead → q.Orderly ahead := by
  induction h with
  | quiet h => exact h.orderly
  | trans _ _ a b => exact fun _ => b _ ∘ a _
  | stop p q r running before empty after =>
    intro ahead h
    have changed := before.orderly ahead (h.fewer (.refl _) rfl rfl rfl)
    exact (after.orderly ahead (changed.fewer (.refl _) rfl rfl rfl)).fewer (.refl _) rfl rfl rfl
  | sector p r q inner =>
    exact fun ahead h =>
      (inner.orderly ahead (h.fewer (.refl _) rfl rfl rfl)).fewer (.refl _) rfl rfl rfl
  | supOff p => exact fun _ h => h.fewer (.refl _) rfl rfl rfl

theorem Course.orderly {p q : Part} (h : Course p q) : ∀ ahead, p.Orderly ahead → q.Orderly ahead := by
  induction h with
  | loud h => exact h.orderly
  | trans _ _ a b => exact fun _ => b _ ∘ a _
  | close p q c here inner ih => exact fun _ h => h.close here inner.keeps.cfg ih
  | drop p f => exact fun _ h => h.removedFeed f
  | defer p e slip room closed fresh =>
    rintro ahead ⟨waits, opens, single, fills, fits⟩
    have joined : (p.setQueue (p.adm.queue ++ [e])).Single := by
      have perm : ((p.adm.queue ++ [e]).map (·.jack) ++ p.lifted).Perm
          (e.jack :: (p.adm.queue.map (·.jack) ++ p.lifted)) := by
        rw [List.map_append, List.append_assoc]
        exact List.perm_middle
      refine perm.nodup_iff.2 (List.nodup_cons.2 ⟨fun m => ?_, single⟩)
      rcases List.mem_append.1 m with m | m
      · exact Part.entryOf_eq_none.1 fresh m
      · exact Part.openOf_eq_none.1 closed (Part.mem_lifted.1 m)
    exact ⟨by simpa using room, opens, joined, fills, fits⟩
  | pour p f k o n room => exact fun _ h => h.openPour f k o n room
  | climb p q m runs still inner empty => exact fun ahead h => inner.orderly ahead (h.fewer (.refl _) rfl rfl rfl)
  | causes p q inner ih => exact fun ahead h => (ih ahead (h.fewer (.refl _) rfl rfl rfl)).fewer (.refl _) rfl rfl rfl
  | _ => exact fun _ h => h.fewer (.refl _) rfl rfl rfl

/-! ### Outside SLIP nothing is deferred (R53) -/

/-- Outside SLIP the deferred queue is empty. -/
def Part.Flushed (p : Part) : Prop := p.mode.mode ≠ .slip → p.adm.queue = []

theorem Quiet.flushed {p q : Part} (h : Quiet p q) (law : p.Flushed) : q.Flushed := fun away =>
  h.queue_empty (law (h.keeps.climb ▸ away))

theorem Loud.flushed {p q : Part} (h : Loud p q) : p.Flushed → q.Flushed := by
  induction h with
  | quiet h => exact h.flushed
  | trans _ _ a b => exact b ∘ a
  | stop p q r running before empty after =>
    intro law _
    refine after.queue_empty ?_
    by_cases slip : p.mode.mode = .slip
    · exact empty slip
    · exact before.queue_empty (law slip)
  | sector p r q inner => exact fun law => inner.flushed law
  | supOff p => exact id

theorem Course.flushed {p q : Part} (h : Course p q) : p.Flushed → q.Flushed := by
  induction h with
  | loud h => exact h.flushed
  | trans _ _ a b => exact b ∘ a
  | close p q c here inner ih =>
    intro law
    have left : q.Flushed := ih law
    unfold Part.releaseOf
    split <;> exact left
  | defer p e slip room closed fresh => exact fun _ away => absurd slip away
  | pour p f k o n room =>
    intro law
    have rest := (p.openCommand_rest (.pour f k) o n).2.2
    exact fun away => rest.symm ▸ law away
  | mode p m same => exact fun law away => law (same ▸ away)
  | climb p q m runs still inner empty =>
    exact fun _ away => empty fun slip => away (inner.keeps.climb.trans slip)
  | back p m x stopped runs down free =>
    refine fun law _ => law fun slip => ?_
    rw [slip] at stopped
    nomatch stopped
  | causes p q inner ih => exact fun law => ih law
  | _ => exact fun law => law

/-! ### Whole steps -/

/-- The laws of the deferred queue, of the open commands and of the pump groups. -/
structure Part.Admitted (p : Part) : Prop where
  orderly : p.Orderly fun _ => 0
  flushed : p.Flushed

theorem Part.admitted_iff {p : Part} : p.Admitted ↔ p.DeferredLaw ∧ p.OpenLaw ∧ p.GroupLaw :=
  ⟨fun h => Part.orderly_iff.1 ⟨h.orderly, h.flushed⟩, fun h =>
    have both := Part.orderly_iff.2 h
    ⟨both.1, both.2⟩⟩

theorem Course.admitted {p q : Part} (h : Course p q) (law : p.Admitted) : q.Admitted :=
  ⟨h.orderly _ law.orderly, h.flushed law.flushed⟩

/-- The laws read the deferred queue, the transaction table, the occupancies, the bank and the mode. -/
theorem Part.Admitted.congr {p q : Part} (h : p.Admitted) (adm : q.adm = p.adm) (table : q.xt.table = p.xt.table)
    (bank : q.cfg.active = p.cfg.active) (mode : q.mode.mode = p.mode.mode) : q.Admitted :=
  ⟨h.orderly.fewer (by rw [Part.waiting, adm]; exact .refl _) (by rw [Part.subjects, table]; rfl) (by rw [adm]) bank,
    fun away => adm ▸ h.flushed (mode ▸ away)⟩

/-- With no command open and nothing deferred the laws hold of any bank. -/
theorem Part.Orderly.of_empty {p : Part} (queue : p.adm.queue.length ≤ Config.maxDeferred)
    (single : (p.adm.queue.map (·.jack)).Nodup) (empty : p.xt.table = []) (occupancy : ∀ g, p.occupancy g = 0) :
    p.Orderly fun _ => 0 := by
  have lifted : p.lifted = [] := by rw [Part.lifted, empty]; rfl
  refine ⟨queue, ?_, ?_, fun g => ?_, fun g => ?_⟩
  · rw [Part.openCount, empty]
    exact Nat.zero_le _
  · rw [Part.Single, lifted, List.append_nil]
    exact single
  · rw [Part.groupLifts, lifted]
    exact occupancy g
  · rw [occupancy]
    exact Nat.zero_le _

/-- The reset values: nothing open, nothing deferred (R42, R66). -/
theorem Part.admitted_of_reset {p : Part} (adm : p.adm = ⟨[], Vector.replicate 8 0⟩) (table : p.xt.table = []) :
    p.Admitted := by
  refine ⟨.of_empty ?_ ?_ table fun g => ?_, fun _ => ?_⟩
  all_goals simp [Part.occupancy, adm]

theorem Turn.admitted {p q : Part} (h : Turn p q) : p.Admitted → q.Admitted := by
  have released : ∀ r : Part, r.Admitted → r.releaseEvent.Admitted := fun r law =>
    (Course.loud r.releaseEvent_loud).admitted (law.congr rfl rfl rfl rfl)
  have reset : ∀ c r, (Part.resetEvent c r).Admitted := fun c r => Part.admitted_of_reset rfl rfl
  induction h with
  | course h => exact h.admitted
  | trans _ _ a b => exact b ∘ a
  | bank p empty =>
    rintro ⟨⟨waits, opens, single, fills, fits⟩, flushed⟩
    refine ⟨.of_empty waits (List.nodup_append.1 single).1 empty fun g => (fills g).trans ?_, flushed⟩
    rw [Part.groupLifts, Part.lifted, empty]
    rfl
  | sendDeck p =>
    unfold Part.sendDeck
    split
    · exact id
    · split <;> exact fun law => law.congr rfl rfl rfl rfl
  | sendRing p =>
    unfold Part.sendRing
    split <;> exact fun law => law.congr rfl rfl rfl rfl
  | request p _ => exact fun _ => released _ (reset _ _)
  | power p =>
    unfold Part.powerUp
    dsimp only
    split
    · exact fun _ => reset _ _
    · exact fun _ => released _ (reset _ _)
  | hold p =>
    unfold Part.holdReset
    split
    · exact id
    · exact fun _ => Part.admitted_of_reset rfl rfl
  | release p =>
    unfold Part.releaseReset
    split
    · exact fun law => released _ (law.congr rfl rfl rfl rfl)
    · exact id
  | _ => exact fun law => law.congr rfl rfl rfl rfl

end Sys2Proof.Machine
end

section
/-! SUPPORT. The ledger: what the laws of feed nodes and of round commands read (R65, R85, R97), and what opening and
closing a command does to it. Between the removal of a closed command's record and the word of the close to MODE, round
commands is ahead of the open LIFTs of origin DEVICE; between a POURED and the close of its POUR, the feed node is no
longer POURING (R72, R90). -/

namespace Sys2Proof.Machine

/-- Subjects and origins of the open commands, the jacks that wait, the feed nodes' states, round commands. -/
structure Ledger where
  slips : List (Subject × Origin)
  waiting : List JackId
  feeds : FeedId → FeedState
  round : Nat

/-- The subjects of the open commands. -/
def Ledger.subjects (l : Ledger) : List Subject := l.slips.map Prod.fst

/-- What a command counts among round commands. -/
def Origin.round : Origin → Nat
  | .device => 1
  | .deck _ => 0

/-- The ledger is sound, with round commands ahead by what closes still owe, and one feed node at most between its
POURED and the close of its POUR. -/
structure Ledger.Sound (owing : Nat) (spare : Option FeedId) (l : Ledger) : Prop where
  distinct : l.subjects.Nodup
  apart : ∀ j ∈ l.waiting, Subject.jack j ∉ l.subjects
  pouring : ∀ f, l.feeds f = .pouring → Subject.feed f ∈ l.subjects
  busy : ∀ f, Subject.feed f ∈ l.subjects → l.feeds f = .ready → spare = some f
  idle : ∀ f, spare = some f → l.feeds f ≠ .pouring
  round : l.round = l.slips.countP (·.2 == .device) + owing
  decks : ∀ f, (Subject.feed f, Origin.device) ∉ l.slips

/-- Where no key comes twice, the entries but for one key are all but the one entry of that key. -/
theorem filter_key_eq_erase {α β : Type} [DecidableEq α] [DecidableEq β] {s : List (α × β)} {k : α} {v : β}
    (nodup : (s.map Prod.fst).Nodup) (here : (k, v) ∈ s) : s.filter (·.1 ≠ k) = s.erase (k, v) := by
  rw [nodup.of_map.erase_eq_filter]
  refine List.filter_congr fun x m => ?_
  have same : x.1 = k → x = (k, v) := fun e => List.inj_on_of_nodup_map nodup m here e
  by_cases e : x.1 = k
  · simp [same e]
  · have : x ≠ (k, v) := fun f => e (f ▸ rfl)
    simp [e, this]

namespace Ledger.Sound

variable {owing : Nat} {spare : Option FeedId} {l : Ledger}

/-- A waiting list of fewer jacks. -/
theorem fewer (h : l.Sound owing spare) {w : List JackId} (sub : w ⊆ l.waiting) :
    Ledger.Sound owing spare { l with waiting := w } :=
  ⟨h.distinct, fun j m => h.apart j (sub m), h.pouring, h.busy, h.idle, h.round, h.decks⟩

/-- A jack with no open LIFT waits. -/
theorem wait (h : l.Sound owing spare) {w : List JackId} {j : JackId} (closed : Subject.jack j ∉ l.subjects)
    (sub : w ⊆ l.waiting ++ [j]) : Ledger.Sound owing spare { l with waiting := w } := by
  refine ⟨h.distinct, fun i m => ?_, h.pouring, h.busy, h.idle, h.round, h.decks⟩
  rcases List.mem_append.1 (sub m) with m | m
  · exact h.apart i m
  · exact List.mem_singleton.1 m ▸ closed

theorem count_round (o : Origin) (s : List (Subject × Origin)) (x : Subject) :
    (s ++ [(x, o)]).countP (·.2 == .device) = s.countP (·.2 == .device) + o.round := by
  cases o <;> simp [Origin.round]

/-- A LIFT opened for a jack that has none and does not wait. -/
theorem lift (h : l.Sound owing spare) {j : JackId} (o : Origin) (closed : Subject.jack j ∉ l.subjects)
    (fresh : j ∉ l.waiting) :
    Ledger.Sound owing spare { l with slips := l.slips ++ [(.jack j, o)], round := l.round + o.round } := by
  have subjects : (l.slips ++ [(Subject.jack j, o)]).map Prod.fst = l.subjects ++ [.jack j] := by
    simp [Ledger.subjects]
  have feed : ∀ f, Subject.feed f ∈ l.subjects ++ [.jack j] ↔ Subject.feed f ∈ l.subjects := fun f => by simp
  refine ⟨?_, fun i m => ?_, fun f => ?_, fun f => ?_, h.idle, ?_, fun f m => ?_⟩
  · rw [Ledger.subjects, subjects, List.nodup_append]
    exact ⟨h.distinct, List.nodup_singleton _, fun x hx y hy e => closed (List.mem_singleton.1 hy ▸ e ▸ hx)⟩
  · rw [Ledger.subjects, subjects, List.mem_append]
    rintro (here | here)
    · exact h.apart i m here
    · exact fresh (Subject.jack.inj (List.mem_singleton.1 here) ▸ m)
  · rw [Ledger.subjects, subjects, feed]
    exact h.pouring f
  · rw [Ledger.subjects, subjects, feed]
    exact h.busy f
  · have counted := h.round
    change l.round + o.round = _
    rw [count_round]
    omega
  · exact h.decks f (by simpa using m)

/-- A LIFT's record removed: round commands is ahead by it (R72 step 1). -/
theorem unlift (h : l.Sound owing spare) {j : JackId} {o : Origin} (here : (Subject.jack j, o) ∈ l.slips) :
    Ledger.Sound (owing + o.round) spare { l with slips := l.slips.filter (·.1 ≠ .jack j) } := by
  have sub : (l.slips.filter (·.1 ≠ .jack j)).Sublist l.slips := List.filter_sublist
  have feed : ∀ f, Subject.feed f ∈ (l.slips.filter (·.1 ≠ .jack j)).map Prod.fst ↔ Subject.feed f ∈ l.subjects := by
    simp [Ledger.subjects]
  refine ⟨h.distinct.sublist (sub.map _), fun i m gone => h.apart i m ((sub.map _).subset gone), fun f => ?_, fun f => ?_,
    h.idle, ?_, fun f m => h.decks f (sub.subset m)⟩
  · rw [Ledger.subjects, feed]
    exact h.pouring f
  · rw [Ledger.subjects, feed]
    exact h.busy f
  · have counted := h.round
    have taken : (l.slips.filter (·.1 ≠ .jack j)).countP (·.2 == .device) + o.round = l.slips.countP (·.2 == .device) := by
      rw [filter_key_eq_erase h.distinct here, List.countP_erase]
      cases o with
      | deck tag => simp [Origin.round]
      | device =>
        have : 0 < l.slips.countP (·.2 == .device) := List.countP_pos_iff.2 ⟨_, here, rfl⟩
        simp only [here, Origin.round, beq_self_eq_true, and_self, if_true]
        omega
    rw [counted, ← taken]
    exact (Nat.add_right_comm ..).trans (Nat.add_assoc ..)

/-- MODE told of the close (R72 step 5). -/
theorem repay (h : l.Sound (owing + 1) spare) : Ledger.Sound owing spare { l with round := l.round - 1 } :=
  ⟨h.distinct, h.apart, h.pouring, h.busy, h.idle, Nat.sub_eq_of_eq_add h.round, h.decks⟩

/-- A POUR opened for a feed node that has none, and POURS from now on (R89). -/
theorem pour (h : l.Sound owing none) {f : FeedId} (tag : Tag) (closed : Subject.feed f ∉ l.subjects) :
    Ledger.Sound owing none
      { l with slips := l.slips ++ [(.feed f, .deck tag)], feeds := Function.update l.feeds f .pouring } := by
  have subjects : (l.slips ++ [(Subject.feed f, Origin.deck tag)]).map Prod.fst = l.subjects ++ [.feed f] := by
    simp [Ledger.subjects]
  refine ⟨?_, fun i m => ?_, fun g => ?_, fun g => ?_, nofun, ?_, fun g m => ?_⟩
  · rw [Ledger.subjects, subjects, List.nodup_append]
    exact ⟨h.distinct, List.nodup_singleton _, fun x hx y hy e => closed (List.mem_singleton.1 hy ▸ e ▸ hx)⟩
  · rw [Ledger.subjects, subjects, List.mem_append]
    rintro (here | here)
    · exact h.apart i m here
    · simp at here
  · rw [Ledger.subjects, subjects]
    by_cases e : g = f
    · simp [e]
    · simpa [e] using h.pouring g
  · rw [Ledger.subjects, subjects]
    by_cases e : g = f
    · simp [e]
    · simpa [e] using h.busy g
  · exact h.round.trans (by simp)
  · exact h.decks g (by simpa using m)

/-- A feed node's state set, to one that is not POURING, and READY only with no POUR open. -/
theorem state (h : l.Sound owing spare) {f : FeedId} {x : FeedState} (still : x ≠ .pouring)
    (ready : x = .ready → Subject.feed f ∈ l.subjects → spare = some f) :
    Ledger.Sound owing spare { l with feeds := Function.update l.feeds f x } := by
  refine ⟨h.distinct, h.apart, fun g => ?_, fun g m => ?_, fun g e => ?_, h.round, h.decks⟩
  all_goals by_cases same : g = f
  · subst same
    simpa using fun e => absurd e still
  · exact fun e => h.pouring g (by simpa [same] using e)
  · subst same
    simpa using fun e => ready e m
  · exact fun e => h.busy g m (by simpa [same] using e)
  · subst same
    simpa using still
  · simpa [same] using h.idle g e

/-- A feed node returned, between its POURED and the close of its POUR (R90). -/
theorem spared (h : l.Sound owing none) {f : FeedId} {x : FeedState} (still : x ≠ .pouring) :
    Ledger.Sound owing (some f) { l with feeds := Function.update l.feeds f x } := by
  refine ⟨h.distinct, h.apart, fun g => ?_, fun g m => ?_, fun g e => ?_, h.round, h.decks⟩
  · by_cases same : g = f
    · subst same
      simpa using fun e => absurd e still
    · exact fun e => h.pouring g (by simpa [same] using e)
  · by_cases same : g = f
    · exact fun _ => same ▸ rfl
    · exact fun e => (nomatch h.busy g m (by simpa [same] using e))
  · cases e
    simpa using still

/-- A POUR's record removed, where its feed node no longer POURS (R72 step 1, R91). -/
theorem unpour (h : l.Sound owing spare) {f : FeedId} {spare' : Option FeedId} {x : FeedState} (still : x ≠ .pouring)
    (fewer : ∀ g, spare' = some g → spare = some g) (only : ∀ g, spare = some g → g = f ∨ spare' = some g) :
    Ledger.Sound owing spare'
      { l with slips := l.slips.filter (·.1 ≠ .feed f), feeds := Function.update l.feeds f x } := by
  have sub : (l.slips.filter (·.1 ≠ .feed f)).Sublist l.slips := List.filter_sublist
  have other : ∀ g, Subject.feed g ∈ (l.slips.filter (·.1 ≠ .feed f)).map Prod.fst
      ↔ Subject.feed g ∈ l.subjects ∧ g ≠ f := by
    simp [Ledger.subjects]
  have count : (l.slips.filter (·.1 ≠ .feed f)).countP (·.2 == .device) = l.slips.countP (·.2 == .device) := by
    rw [List.countP_filter]
    refine List.countP_congr fun x m => ?_
    have deck : x.2 = .device → x.1 ≠ .feed f := fun e g => h.decks f (by rw [← e, ← g]; exact m)
    simpa using deck
  refine ⟨h.distinct.sublist (sub.map _), fun i m gone => h.apart i m ((sub.map _).subset gone), fun g pours => ?_,
    fun g m ready => ?_, fun g e => ?_, h.round.trans (by rw [count]), fun g m => h.decks g (sub.subset m)⟩
  · by_cases e : g = f
    · subst e
      exact absurd (by simpa using pours) still
    · exact (other g).2 ⟨h.pouring g (by simpa [e] using pours), e⟩
  · obtain ⟨here, ne⟩ := (other g).1 m
    exact (only g (h.busy g here (by simpa [ne] using ready))).resolve_left ne
  · by_cases same : g = f
    · subst same
      simpa using still
    · simpa [same] using h.idle g (fewer g e)

end Ledger.Sound

end Sys2Proof.Machine
end

section
/-! SUPPORT. The ledger of the part: what leaves it as it was, and what the operations of the transaction table, the
deferred queue and creep do to it. -/

namespace Sys2Proof.Machine

/-- The ledger of the part. -/
def Part.ledger (p : Part) : Ledger :=
  ⟨p.xt.table.map fun c => (c.subject, c.origin), p.waiting, fun f => (p.feed f).state, p.mode.roundCommands⟩

/-- Round commands as they come to be. -/
def Ledger.withRound (l : Ledger) (n : Nat) : Ledger := { l with round := n }

section
variable {p : Part} {owing : Nat} {spare : Option FeedId}

theorem Part.ledger_subjects : p.ledger.subjects = p.subjects := by
  simp [Ledger.subjects, Part.ledger, Part.subjects]

/-! ### Registers that the ledger does not hold -/

@[simp] theorem Part.ledger_round : p.ledger.round = p.mode.roundCommands := rfl
@[simp] theorem Part.ledger_withRound : p.ledger.withRound p.mode.roundCommands = p.ledger := (rfl)
@[simp] theorem Part.setMode_ledger (m : ModeRecord) : (p.setMode m).ledger = p.ledger.withRound m.roundCommands := (rfl)
@[simp] theorem Part.raise_ledger (e : EventKind) : (p.raise e).ledger = p.ledger := (rfl)
@[simp] theorem Part.setPair_ledger (x : Pair) (r : PairRecord) : (p.setPair x r).ledger = p.ledger := (rfl)
@[simp] theorem Part.setPairState_ledger (x : Pair) (r : PairState) :
    (p.setPairState x r).ledger = p.ledger := (rfl)
@[simp] theorem Part.setLog_ledger (l : List LogRecord) : (p.setLog l).ledger = p.ledger := (rfl)
@[simp] theorem Part.setJack_ledger (j : JackId) (x : Jack) : (p.setJack j x).ledger = p.ledger := (rfl)
@[simp] theorem Part.setSector_ledger (k : SectorId) (x : Sector) :
    (p.setSector k x).ledger = p.ledger := (rfl)
@[simp] theorem Part.setOccupancy_ledger (g : GroupId) (n : Nat) :
    (p.setOccupancy g n).ledger = p.ledger := (rfl)
@[simp] theorem Part.release_ledger (g : GroupId) : (p.release g).ledger = p.ledger := (rfl)
@[simp] theorem Part.setNodeTags_ledger (a : Addr) (t : NodeTags) :
    (p.setNodeTags a t).ledger = p.ledger := (rfl)
@[simp] theorem Part.setAbandoned_ledger (a : Addr) (x : Option Abandoned) :
    (p.setAbandoned a x).ledger = p.ledger := (rfl)
@[simp] theorem Part.setCounter_ledger (a : Addr) (t : Tag) : (p.setCounter a t).ledger = p.ledger := (rfl)
@[simp] theorem Part.setSup_ledger (x : Supervision) : (p.setSup x).ledger = p.ledger := (rfl)
@[simp] theorem Part.setShadow_ledger (b : Bank) : (p.setShadow b).ledger = p.ledger := (rfl)
@[simp] theorem Part.setCommit_ledger (c : CommitState) : (p.setCommit c).ledger = p.ledger := (rfl)
@[simp] theorem Part.setLease_ledger (l : Lease) : (p.setLease l).ledger = p.ledger := (rfl)
@[simp] theorem Part.updateAlert_ledger : p.updateAlert.ledger = p.ledger := (rfl)
@[simp] theorem Part.ringOut_ledger (b : Bool) (k : Kind) (d : Byte) (t : Tag) (l : List Byte) :
    (p.ringOut b k d t l).ledger = p.ledger := (rfl)
@[simp] theorem Part.stillNode_ledger (c : Command) : (p.stillNode c).ledger = p.ledger := (rfl)
@[simp] theorem Part.cease_ledger (x : Pair) : (p.cease x).ledger = p.ledger := (rfl)
@[simp] theorem Part.addSectorCause_ledger (x : Pair) : (p.addSectorCause x).ledger = p.ledger := (rfl)
@[simp] theorem Part.addRingCause_ledger (x : Pair) : (p.addRingCause x).ledger = p.ledger := (rfl)
@[simp] theorem Part.startSupervision_ledger (b : Bool) : (p.startSupervision b).ledger = p.ledger := (rfl)
@[simp] theorem Part.startBlanking_ledger : p.startBlanking.ledger = p.ledger := (rfl)
@[simp] theorem Part.endBlanking_ledger : p.endBlanking.ledger = p.ledger := (rfl)
@[simp] theorem Part.emptyEvents_ledger : p.emptyEvents.ledger = p.ledger := (rfl)
@[simp] theorem Part.clearSectorCauses_ledger : p.clearSectorCauses.ledger = p.ledger := (rfl)
@[simp] theorem Part.clearRingCauses_ledger : p.clearRingCauses.ledger = p.ledger := (rfl)
@[simp] theorem Part.clearLog_ledger : p.clearLog.ledger = p.ledger := (rfl)
@[simp] theorem Part.dropFromRound_ledger (j : JackId) : (p.dropFromRound j).ledger = p.ledger := (rfl)
@[simp] theorem Part.dropShare_ledger (x : Share) : (p.dropShare x).ledger = p.ledger := (rfl)
@[simp] theorem Part.countDown_ledger : p.countDown.ledger = p.ledger := (rfl)

@[simp] theorem Part.raiseIf_ledger (b : Bool) (e : EventKind) : (p.raiseIf b e).ledger = p.ledger := by
  unfold Part.raiseIf
  split <;> rfl

@[simp] theorem Part.sendFrame_ledger (c : Command) : (p.sendFrame c).ledger = p.ledger := by
  unfold Part.sendFrame
  split <;> rfl

@[simp] theorem Part.releaseOf_ledger (c : Command) : (p.releaseOf c).ledger = p.ledger := by
  unfold Part.releaseOf
  split <;> rfl

@[simp] theorem Part.follow_ledger (x : Pair) (b : Bool) : (p.follow x b).ledger = p.ledger := by
  unfold Part.follow
  split <;> split <;> rfl

@[simp] theorem Part.logAssertion_ledger (x : Pair) (m : CondMode) (d : Option JackId) :
    (p.logAssertion x m d).ledger = p.ledger := by
  unfold Part.logAssertion
  split
  · rfl
  · split <;> rfl

@[simp] theorem Part.noteAssertion_ledger (x : Pair) (d : Option JackId) :
    (p.noteAssertion x d).ledger = p.ledger := by
  unfold Part.noteAssertion
  dsimp only
  split <;> simp

/-! ### Frames to the deck -/

@[simp] theorem Part.emit_ledger (k : Kind) (s : Byte) (t : Tag) (l : List Byte) :
    (p.emit k s t l).ledger = p.ledger := by
  unfold Part.emit
  split <;> rfl

@[simp] theorem Part.reply_ledger (t : Tag) (c o : Byte) (l : List Byte) :
    (p.reply t c o l).ledger = p.ledger := p.emit_ledger ..
@[simp] theorem Part.ack_ledger (t : Tag) (c : Byte) : (p.ack t c).ledger = p.ledger := p.emit_ledger ..
@[simp] theorem Part.data_ledger (t : Tag) (c : Byte) (l : List Byte) :
    (p.data t c l).ledger = p.ledger := p.emit_ledger ..
@[simp] theorem Part.deny_ledger (t : Tag) (c : Byte) (r : Reason) :
    (p.deny t c r).ledger = p.ledger := p.emit_ledger ..
@[simp] theorem Part.refuse_ledger (d : Byte) (k : Kind) (t : Tag) (r : Reason) :
    (p.refuse d k t r).ledger = p.ledger := p.emit_ledger ..
@[simp] theorem Part.held_ledger (a : Byte) (t : Tag) (r : Reason) :
    (p.held a t r).ledger = p.ledger := p.emit_ledger ..
@[simp] theorem Part.ended_ledger (a : Byte) (t : Tag) (n : Nat) (r : Reason) :
    (p.ended a t n r).ledger = p.ledger := p.emit_ledger ..

@[simp] theorem Part.answerEnded_ledger (c : Command) (r : Reason) :
    (p.answerEnded c r).ledger = p.ledger := by
  unfold Part.answerEnded
  split <;> simp

@[simp] theorem Part.answerLifted_ledger (c : Command) (r : LiftedReport) :
    (p.answerLifted c r).ledger = p.ledger := by
  unfold Part.answerLifted
  split <;> simp

@[simp] theorem Part.answerPoured_ledger (c : Command) (r : PouredReport) :
    (p.answerPoured c r).ledger = p.ledger := by
  unfold Part.answerPoured
  split <;> simp

/-! ### The transaction table -/

/-- An open command has this one's subject and origin. -/
def Part.Lists (p : Part) (c : Command) : Prop := (c.subject, c.origin) ∈ p.ledger.slips

theorem Part.lists_of_mem {c : Command} (h : c ∈ p.xt.table) : p.Lists c := List.mem_map_of_mem h

theorem Part.lists_of_openOf {x : Subject} {c : Command} (h : p.openOf x = some c) : p.Lists c :=
  Part.lists_of_mem (List.mem_of_find?_eq_some h)

theorem Part.lists_of_openAt {a : Byte} {c : Command} (h : p.openAt a = some c) : p.Lists c :=
  Part.lists_of_mem (List.mem_of_find?_eq_some h)

/-- The origin of an open command is that of any open command of its subject. -/
theorem Part.origin_of_subject {c d : Command} (h : p.ledger.subjects.Nodup) (here : p.Lists c) (m : d ∈ p.xt.table)
    (same : d.subject = c.subject) : d.origin = c.origin :=
  congrArg Prod.snd (List.inj_on_of_nodup_map h (Part.lists_of_mem m) here same)

/-- A record replaced by one of the same subject and origin. -/
theorem Part.setCommand_ledger {c : Command} (h : p.ledger.subjects.Nodup) (here : p.Lists c) :
    (p.setCommand c).ledger = p.ledger := by
  have slips : (p.xt.table.map fun d => if d.subject = c.subject then c else d).map (fun d => (d.subject, d.origin))
      = p.xt.table.map fun d => (d.subject, d.origin) := by
    rw [List.map_map]
    refine List.map_congr_left fun d m => ?_
    by_cases same : d.subject = c.subject
    · simp [same, Part.origin_of_subject h here m same]
    · simp [same]
  exact congrArg (fun s : List (Subject × Origin) => { p.ledger with slips := s }) slips

@[simp] theorem Part.markAll_ledger (e : Ending) (which : Command → Bool) : (p.markAll e which).ledger = p.ledger := by
  have slips : (p.xt.table.map fun c => if which c then c.mark e else c).map (fun d => (d.subject, d.origin))
      = p.xt.table.map fun d => (d.subject, d.origin) := by
    rw [List.map_map]
    refine List.map_congr_left fun d _ => ?_
    simp only [Function.comp]
    split <;> rfl
  exact congrArg (fun s : List (Subject × Origin) => { p.ledger with slips := s }) slips

@[simp] theorem Part.markOf_ledger (e : Ending) (x : Subject) : (p.markOf e x).ledger = p.ledger := p.markAll_ledger e _

theorem Part.removeCommand_ledger (x : Subject) :
    (p.removeCommand x).ledger = { p.ledger with slips := p.ledger.slips.filter (·.1 ≠ x) } := by
  have slips : (p.xt.table.filter fun d => d.subject ≠ x).map (fun d => (d.subject, d.origin))
      = (p.xt.table.map fun d => (d.subject, d.origin)).filter (·.1 ≠ x) := by
    rw [List.filter_map]
    rfl
  exact congrArg (fun s : List (Subject × Origin) => { p.ledger with slips := s }) slips

theorem Part.sendSub_ledger {c : Command} (h : p.ledger.subjects.Nodup) (here : p.Lists c) :
    (p.sendSub c).ledger = p.ledger :=
  (Part.sendFrame_ledger _).trans (Part.setCommand_ledger (p := p.setCounter _ _) h here)

theorem Part.resend_ledger {c : Command} (h : p.ledger.subjects.Nodup) (here : p.Lists c) :
    (p.resend c).ledger = p.ledger :=
  (Part.sendFrame_ledger _).trans (Part.setCommand_ledger h here)

/-- A command opened for a subject that has none (R68). -/
theorem Part.openCommand_ledger (task : Task) (o : Origin) (n : Nat) (h : p.ledger.subjects.Nodup)
    (closed : task.subject ∉ p.ledger.subjects) :
    (p.openCommand task o n).ledger = { p.ledger with slips := p.ledger.slips ++ [(task.subject, o)] } := by
  have joined : (Part.setTable (p.xt.table ++ [⟨task, o, n, 0, 0, 0, .sent, p.clock, 0, none, none⟩])
      (p.setAbandoned (p.addrOf task.subject) none)).ledger
        = { p.ledger with slips := p.ledger.slips ++ [(task.subject, o)] } := by
    simp [Part.ledger, Part.setTable, Part.setAbandoned, Part.setNodeTags, Command.subject, Part.waiting, Part.feed]
  refine (Part.sendSub_ledger ?_ ?_).trans joined
  · refine (congrArg (fun l : Ledger => l.subjects.Nodup) joined).mpr ?_
    have apart : ∀ x ∈ p.ledger.subjects, ∀ y ∈ [task.subject], x ≠ y := fun x hx y hy e =>
      closed (List.mem_singleton.1 hy ▸ e ▸ hx)
    simpa [Ledger.subjects] using List.nodup_append.2 ⟨h, List.nodup_singleton task.subject, apart⟩
  · refine Part.lists_of_mem ?_
    simp [Part.setTable]

theorem Part.admitLift_ledger {j : JackId} (n : Nat) (o : Origin) (h : p.ledger.subjects.Nodup)
    (closed : Subject.jack j ∉ p.ledger.subjects) :
    (p.admitLift j n o).ledger = { p.ledger with slips := p.ledger.slips ++ [(.jack j, o)] } :=
  Part.openCommand_ledger (p := p.setOccupancy _ _) (.lift j) o n h closed

/-- A LIFT of the deck's admitted (R50). -/
theorem Part.admitLift_sound {j : JackId} (n : Nat) (t : Tag) (h : p.ledger.Sound owing spare)
    (closed : Subject.jack j ∉ p.ledger.subjects) (fresh : j ∉ p.waiting) :
    (p.admitLift j n (.deck t)).ledger.Sound owing spare := by
  rw [Part.admitLift_ledger n (.deck t) h.distinct closed]
  exact h.lift (.deck t) closed fresh

/-! ### The deferred queue -/

/-- A queue of fewer jacks. -/
theorem Part.setQueue_sound {l : List Entry} (h : p.ledger.Sound owing spare) (sub : l.map (·.jack) ⊆ p.waiting) :
    (p.setQueue l).ledger.Sound owing spare := h.fewer sub

@[simp] theorem Part.dropEntry_sound (j : JackId) (h : p.ledger.Sound owing spare) :
    (p.dropEntry j).ledger.Sound owing spare :=
  Part.setQueue_sound h (List.map_subset _ List.filter_sublist.subset)

@[simp] theorem Part.refuseEntry_sound (r : Reason) (e : Entry) (h : p.ledger.Sound owing spare) :
    (p.refuseEntry r e).ledger.Sound owing spare := by
  simp [Part.refuseEntry, h]

@[simp] theorem Part.removeEntries_sound (which : Entry → Bool) (r : Reason) (h : p.ledger.Sound owing spare) :
    (p.removeEntries which r).ledger.Sound owing spare :=
  foldl_law (P := (·.ledger.Sound owing spare)) (fun _ e => Part.refuseEntry_sound r e) _ p h

@[simp] theorem Part.flush_sound (r : Reason) (h : p.ledger.Sound owing spare) :
    (p.flush r).ledger.Sound owing spare := Part.removeEntries_sound _ r h

@[simp] theorem Part.rehold_sound (e : Entry) (r : Reason) (h : p.ledger.Sound owing spare) :
    (p.rehold e r).ledger.Sound owing spare := by
  unfold Part.rehold
  split
  · exact h
  · have same : (p.adm.queue.map fun d => if d.jack = e.jack then { d with reason := r } else d).map (·.jack)
        = p.waiting := by
      rw [List.map_map]
      refine List.map_congr_left fun d _ => ?_
      simp only [Function.comp]
      split <;> rfl
    rw [Part.held_ledger]
    exact Part.setQueue_sound h (by rw [same]; exact fun _ m => m)

/-- A LIFT deferred for a jack that has none open (R49). -/
theorem Part.defer_sound {j : JackId} (d : Byte) (n : Nat) (t : Tag) (r : Reason) (h : p.ledger.Sound owing spare)
    (closed : Subject.jack j ∉ p.ledger.subjects) : (p.defer j d n t r).ledger.Sound owing spare := by
  unfold Part.defer
  split
  · rw [Part.held_ledger]
    exact h.wait closed (by simp [Part.ledger, Part.waiting, Part.setQueue])
  · simpa using h

/-! ### Re-examination (R55) -/

@[simp] theorem Part.examine_sound (b : Bool) (j : JackId) (h : p.ledger.Sound owing spare) :
    (p.examine b j).ledger.Sound owing spare := by
  unfold Part.examine
  split
  · next e here =>
    have waits : e.jack ∈ p.waiting := List.mem_map_of_mem (Part.entryOf_mem here)
    have left : (p.dropEntry e.jack).ledger.Sound owing spare := Part.dropEntry_sound _ h
    unfold Part.examineEntry
    split
    · exact h
    split
    · exact Part.refuseEntry_sound _ _ h
    split
    · exact Part.refuseEntry_sound _ _ h
    split
    · exact Part.admitLift_sound _ _ left (h.apart _ waits) (by simp [Part.waiting, Part.dropEntry])
    · exact Part.rehold_sound _ _ h
  · exact h

@[simp] theorem Part.passWith_sound (b : Bool) (h : p.ledger.Sound owing spare) :
    (p.passWith b).ledger.Sound owing spare :=
  foldl_law (P := (·.ledger.Sound owing spare)) (fun _ j => Part.examine_sound b j) _ p h

@[simp] theorem Part.admPass_sound (h : p.ledger.Sound owing spare) : p.admPass.ledger.Sound owing spare :=
  Part.passWith_sound _ h

/-! ### Creep and the lease -/

@[simp] theorem Part.leaseTest_ledger : p.leaseTest.ledger = p.ledger := by
  unfold Part.leaseTest
  split
  · split <;> simp
  · rfl
  · rfl

@[simp] theorem Part.leaseSince_ledger (pre : Part) : (pre.leaseSince p).ledger = p.ledger := by
  unfold Part.leaseSince
  split <;> simp

/-- What passing checks 4 to 7 says of the ledger (R43 check 6). -/
theorem Part.unlisted_of_jackCheck {j : JackId} {n : Nat} (h : p.jackCheck j n = none) :
    Subject.jack j ∉ p.ledger.subjects ∧ j ∉ p.waiting := by
  obtain ⟨closed, fresh⟩ := Part.free_of_jackCheck h
  rw [Part.ledger_subjects]
  exact ⟨Part.openOf_eq_none.1 closed, Part.entryOf_eq_none.1 fresh⟩

/-- A device LIFT issued counts among round commands (R62, R111). -/
@[simp] theorem Part.offer_sound (j : JackId) (h : p.ledger.Sound owing spare) :
    (p.offer j).ledger.Sound owing spare := by
  unfold Part.offer
  split
  · next c =>
    have passes : p.jackCheck j 1 = none := by
      unfold Part.deviceCheck at c
      split at c
      · contradiction
      · assumption
    obtain ⟨closed, fresh⟩ := Part.unlisted_of_jackCheck passes
    have issued := Part.admitLift_ledger 1 .device h.distinct closed
    have counted := h.lift .device closed fresh
    have round : (p.admitLift j 1 .device).mode.roundCommands = p.mode.roundCommands := congrArg Ledger.round issued
    rw [Part.setMode_ledger, Part.dropFromRound_ledger, issued]
    simpa [Ledger.withRound, round, Part.dropFromRound, Origin.round] using counted
  · split <;> simp [h]

@[simp] theorem Part.endRoundTest_ledger : p.endRoundTest.ledger = p.ledger := by
  unfold Part.endRoundTest
  split <;> rfl

@[simp] theorem Part.dropStuck_ledger : p.dropStuck.ledger = p.ledger := by
  unfold Part.dropStuck
  split <;> rfl

@[simp] theorem Part.creepPass_sound (h : p.ledger.Sound owing spare) : p.creepPass.ledger.Sound owing spare := by
  have offered := foldl_law (P := (·.ledger.Sound owing spare)) (fun _ j => Part.offer_sound j) p.mode.roundList p h
  simpa [Part.creepPass] using offered

@[simp] theorem Part.creepPassIfWaiting_sound (h : p.ledger.Sound owing spare) :
    p.creepPassIfWaiting.ledger.Sound owing spare := by
  unfold Part.creepPassIfWaiting
  split <;> simp [h]

@[simp] theorem Part.startRound_sound (h : p.ledger.Sound owing spare) : p.startRound.ledger.Sound owing spare := by
  simp [Part.startRound, h]

@[simp] theorem Part.roundLoses_ledger (j : JackId) : (p.roundLoses j).ledger = p.ledger := by
  simp [Part.roundLoses]

/-- MODE told of a close: what the close owed is paid (R72 step 5, R112). -/
theorem Part.toldOfClose_sound (o : Origin) (h : p.ledger.Sound (owing + o.round) spare) :
    (p.toldOfClose o).ledger.Sound owing spare := by
  cases o with
  | deck t => exact Part.creepPassIfWaiting_sound h
  | device => exact (Part.endRoundTest_ledger (p := Part.creepPassIfWaiting _)) ▸ Part.creepPassIfWaiting_sound h.repay

@[simp] theorem Part.owedRound_sound (h : p.ledger.Sound owing spare) : p.owedRound.ledger.Sound owing spare := by
  unfold Part.owedRound
  split <;> simp [h]

end

end Sys2Proof.Machine
end

section
/-! SUPPORT. Closes, assertions and the jack table's reports keep the ledger sound (R65, R85, R97). -/

namespace Sys2Proof.Machine

/-- A test of MON's that keeps the ledger sound. -/
def Judging.Books (f : Judging) : Prop :=
  ∀ (owing : Nat) (spare : Option FeedId) (p : Part), p.ledger.Sound owing spare → (f p).1.ledger.Sound owing spare

/-- What a feed node's state returns to when its POUR ends without a fault (R90, R91). -/
def FeedState.returned : FeedState → FeedState
  | .pouring => .ready
  | x => x

theorem FeedState.returned_ne (x : FeedState) : x.returned ≠ .pouring := by cases x <;> nofun

section
variable {p : Part} {owing : Nat} {spare : Option FeedId}

/-! ### Feed nodes -/

theorem Part.setFeed_ledger (f : FeedId) (x : Feed) :
    (p.setFeed f x).ledger = { p.ledger with feeds := Function.update p.ledger.feeds f x.state } := by
  have feeds : (fun g => ((p.setFeed f x).feed g).state) = Function.update p.ledger.feeds f x.state := by
    funext g
    by_cases same : g = f
    · subst same
      simp
    · rw [Function.update_of_ne same, Part.feed_setFeed_ne p x same]
      rfl
  exact congrArg (fun s => { p.ledger with feeds := s }) feeds

/-- A feed node returned (R90 step 1, R91). -/
theorem Part.feedReturn_ledger (f : FeedId) :
    (p.feedReturn f).ledger = { p.ledger with feeds := Function.update p.ledger.feeds f (p.feed f).state.returned } := by
  unfold Part.feedReturn
  split
  · next pours =>
    rw [Part.cease_ledger, Part.setFeed_ledger, pours]
    rfl
  · next still =>
    have same : (p.feed f).state.returned = p.ledger.feeds f := by
      change _ = (p.feed f).state
      cases state : (p.feed f).state with
      | pouring => exact absurd state still
      | _ => rfl
    rw [same, Function.update_eq_self]

/-! ### Closing -/

/-- A close: its record gone, what it owes is paid at its end (R72). -/
theorem Part.closeWith_sound {c : Command} {answer fault : Part → Part}
    (h : (fault (answer (p.removeCommand c.subject))).ledger.Sound (owing + c.origin.round) spare) :
    (p.closeWith c answer fault).ledger.Sound owing spare := by
  refine Part.toldOfClose_sound _ (Part.admPass_sound ?_)
  split
  · rwa [Part.release_ledger]
  · exact h

theorem Part.removeLift_sound {c : Command} {j : JackId} (h : p.ledger.Sound owing spare) (here : p.Lists c)
    (lifts : c.task = .lift j) : (p.removeCommand c.subject).ledger.Sound (owing + c.origin.round) spare := by
  have subject : c.subject = .jack j := by rw [Command.subject, lifts]; rfl
  rw [Part.removeCommand_ledger, subject]
  exact h.unlift (subject ▸ here)

/-- A POUR is the deck's (R97). -/
theorem Part.pour_origin {c : Command} {f : FeedId} {k : SectorId} (h : p.ledger.Sound owing spare) (here : p.Lists c)
    (pours : c.task = .pour f k) : c.origin.round = 0 := by
  have subject : c.subject = .feed f := by rw [Command.subject, pours]; rfl
  cases origin : c.origin with
  | deck t => rfl
  | device =>
    refine absurd ?_ (h.decks f)
    rw [← subject, ← origin]
    exact here

/-- A POUR's record removed, and its feed node in a state other than POURING. -/
theorem Part.removePour_sound {q : Part} {c : Command} {f : FeedId} {k : SectorId} {x : FeedState}
    (h : p.ledger.Sound owing spare) (here : p.Lists c) (pours : c.task = .pour f k)
    (still : x ≠ .pouring)
    (same : q.ledger = { (p.removeCommand c.subject).ledger with feeds := Function.update p.ledger.feeds f x }) :
    q.ledger.Sound (owing + c.origin.round) spare := by
  have subject : c.subject = .feed f := by rw [Command.subject, pours]; rfl
  rw [same, Part.removeCommand_ledger, subject, Part.pour_origin h here pours]
  exact h.unpour still (fun _ => id) fun _ => .inr

theorem Part.closeEnded_sound {c : Command} (r : Reason) (h : p.ledger.Sound owing spare) (here : p.Lists c) :
    (p.closeEnded c r).ledger.Sound owing spare := by
  refine Part.closeWith_sound ?_
  unfold Part.subjectReturn
  split
  · next j lifts =>
    rw [Part.answerEnded_ledger]
    exact Part.removeLift_sound h here lifts
  · next f k pours =>
    have returned := Part.feedReturn_ledger (p := (p.removeCommand c.subject).answerEnded c r) f
    rw [Part.answerEnded_ledger] at returned
    exact Part.removePour_sound h here pours (FeedState.returned_ne _) returned

@[simp] theorem Part.closeStopped_sound (x : Subject) (h : p.ledger.Sound owing spare) :
    (p.closeStopped x).ledger.Sound owing spare := by
  unfold Part.closeStopped
  split
  · next c open_ =>
    split
    · exact Part.closeEnded_sound _ h (Part.lists_of_openOf open_)
    · exact h
  · exact h

@[simp] theorem Part.closeAllStopped_sound (h : p.ledger.Sound owing spare) :
    p.closeAllStopped.ledger.Sound owing spare :=
  foldl_law (P := (·.ledger.Sound owing spare)) (fun _ x => Part.closeStopped_sound x) _ p h

/-! ### Stops and assertions -/

@[simp] theorem Part.stopSector_sound (k : SectorId) (h : p.ledger.Sound owing spare) :
    (p.stopSector k).ledger.Sound owing spare := by
  have stills := foldl_law (P := (·.ledger.Sound owing spare)) (f := Part.stillNode) (fun _ c hq => by simpa using hq)
    (p.xt.table.filter (p.liftsIn k)) (p.markAll .sectorStopped (p.liftsIn k)) (by simpa using h)
  have closed := foldl_law (P := (·.ledger.Sound owing spare)) (f := fun q x => Part.closeStopped x q)
    (fun _ x => Part.closeStopped_sound x) ((p.xt.table.filter (p.liftsIn k)).map Command.subject) _ stills
  exact Part.updateAlert_ledger ▸ Part.removeEntries_sound _ _ closed

@[simp] theorem Part.assertHere_sound (x : Pair) (d : Option JackId) (h : p.ledger.Sound owing spare) :
    (p.assertHere x d).ledger.Sound owing spare := by
  unfold Part.assertHere
  split
  · split <;> simp [h]
  · simpa using h

theorem assertion_books (x : Pair) (d : Option JackId) : (assertion x d).Books := fun _ _ _ h => Part.assertHere_sound x d h

theorem judging_books (x : Pair) (input : Part → Bool) : (judging x input).Books := fun _ _ p h => by
  unfold judging
  split
  · exact assertion_books x none _ _ p h
  · simpa using h

/-- A test that asserts a pair at most, and otherwise does nothing. -/
theorem Judging.Books.of_assertion {f : Judging} (h : ∀ p, (∃ x d, f p = assertion x d p) ∨ (f p).1 = p) : f.Books :=
  fun owing spare p sound => by
    rcases h p with ⟨x, d, e⟩ | e
    · exact e ▸ assertion_books x d owing spare p sound
    · rwa [e]

theorem reasserting_books (x : Pair) : (reasserting x).Books := Judging.Books.of_assertion fun p => by
  unfold reasserting
  split
  · exact .inl ⟨_, _, rfl⟩
  · exact .inr rfl

theorem deglitchJudging_books (x : Pair) : (deglitchJudging x).Books := Judging.Books.of_assertion fun p => by
  unfold deglitchJudging
  split
  · exact .inl ⟨_, _, rfl⟩
  · exact .inr rfl

theorem metJudging_books (pre : Part) (j : JackId) : (metJudging pre j).Books := Judging.Books.of_assertion fun p => by
  unfold metJudging
  split
  · split
    · exact .inr rfl
    · exact .inl ⟨_, _, rfl⟩
  · exact .inr rfl

theorem commitJudging_books (pre : Part) (j : JackId) : (commitJudging pre j).Books := Judging.Books.of_assertion fun p => by
  unfold commitJudging reasserting
  split
  · split
    · split
      · exact .inr rfl
      · split
        · exact .inl ⟨_, _, rfl⟩
        · exact .inr rfl
    · exact .inl ⟨_, _, rfl⟩
  · exact .inr rfl

theorem judgeAll_books {l : List Judging} (books : ∀ f ∈ l, Judging.Books f) : Judging.Books (judgeAll l) := by
  induction l with
  | nil => exact fun _ _ _ h => h
  | cons f l ih =>
    exact fun _ _ p h => ih (fun g hg => books g (List.mem_cons_of_mem _ hg)) _ _ _ (books f List.mem_cons_self _ _ p h)

/-- MON told of STOPPED asserts at most SPREAD (R99, R105). -/
theorem Part.toldOfStopped_sound (h : p.ledger.Sound owing spare) : p.toldOfStopped.ledger.Sound owing spare := by
  have quiet := foldl_law (P := (·.ledger.Sound owing spare)) (f := fun q k => q.follow (.starve k) false)
    (fun _ k hq => by simpa using hq) sectorIds p.endBlanking.updateAlert h
  exact judging_books _ _ _ _ _ quiet

@[simp] theorem Part.enterStopped_sound (h : p.ledger.Sound owing spare) : p.enterStopped.ledger.Sound owing spare := by
  unfold Part.enterStopped
  split
  · exact h
  · have entered : (p.setMode p.stoppedRecord).ledger.Sound owing spare := h
    have flushed : (if p.mode.mode = .slip then (p.setMode p.stoppedRecord).flush .stopped
        else p.setMode p.stoppedRecord).ledger.Sound owing spare := by
      split
      · exact Part.flush_sound _ entered
      · exact entered
    have closed := Part.closeAllStopped_sound (p := Part.markAll .stopped (fun _ => true) _) (by simpa using flushed)
    have ended (q : Part) (hq : q.ledger.Sound owing spare) :
        (Part.endRoundTest { q.ringOut false .still 127 0 [] with stopOut := true }).ledger.Sound owing spare := by
      rw [Part.endRoundTest_ledger]
      exact hq
    exact (congrArg (Ledger.Sound owing spare) (Part.setSup_ledger _)).mpr (Part.toldOfStopped_sound (ended _ closed))

/-- An event of MON's whose tests keep the ledger sound (R127, R129). -/
theorem Part.event_sound {l : List Judging} (h : p.ledger.Sound owing spare) (books : ∀ f ∈ l, Judging.Books f) :
    (p.event l).ledger.Sound owing spare := by
  have judged := judgeAll_books books _ _ p h
  unfold Part.event
  dsimp only
  split
  · exact Part.enterStopped_sound judged
  · exact judged

end

end Sys2Proof.Machine
end

section
/-! SUPPORT. The judging of an event, the jack table's reports, placements, frames from the deck and from nodes keep the
ledger sound (R65, R85, R97). -/

namespace Sys2Proof.Machine

section
variable {p : Part} {owing : Nat} {spare : Option FeedId}

/-! ### The judging of an event -/

theorem sectorJudgings_books {k : SectorId} : ∀ f ∈ sectorJudgings k, Judging.Books f := by
  simp [sectorJudgings, bondJudging, starveJudging, judging_books]

theorem compoundJudging_books : ∀ f ∈ [compoundJudging], Judging.Books f := by simp [compoundJudging, judging_books]

theorem deckJudgings_books : ∀ f ∈ [spreadJudging, compoundJudging], Judging.Books f := by
  simp [spreadJudging, compoundJudging, judging_books]

@[simp] theorem Part.assertPair_sound (x : Pair) (d : Option JackId) (h : p.ledger.Sound owing spare) :
    (p.assertPair x d).ledger.Sound owing spare :=
  Part.event_sound h (List.forall_mem_singleton.2 (assertion_books x d))

@[simp] theorem Part.judge_sound (x : Pair) (b : Bool) (h : p.ledger.Sound owing spare) :
    (p.judge x b).ledger.Sound owing spare :=
  Part.event_sound h (List.forall_mem_singleton.2 (judging_books x _))

@[simp] theorem Part.judgeCompound_sound (h : p.ledger.Sound owing spare) :
    p.judgeCompound.ledger.Sound owing spare := Part.event_sound h compoundJudging_books

@[simp] theorem Part.judgeReported_sound (k : SectorId) (h : p.ledger.Sound owing spare) :
    (p.judgeReported k).ledger.Sound owing spare :=
  Part.event_sound h (List.forall_mem_append.2 ⟨sectorJudgings_books, compoundJudging_books⟩)

@[simp] theorem Part.judgeDeck_sound (h : p.ledger.Sound owing spare) : p.judgeDeck.ledger.Sound owing spare :=
  Part.event_sound h (List.forall_mem_append.2
    ⟨List.forall_mem_map.2 fun _ _ => judging_books _ _, deckJudgings_books⟩)

@[simp] theorem Part.judgeBonds_sound (h : p.ledger.Sound owing spare) : p.judgeBonds.ledger.Sound owing spare :=
  Part.event_sound h (List.forall_mem_append.2
    ⟨List.forall_mem_map.2 fun _ _ => judging_books _ _, compoundJudging_books⟩)

/-! ### The report (R6) -/

@[simp] theorem Part.catchUp_ledger : p.catchUp.ledger = p.ledger :=
  foldl_law (P := fun q : Part => q.ledger = p.ledger) (f := fun q j => q.setJack j { q.jack j with state := .active })
    (fun _ _ hq => hq) _ p rfl

@[simp] theorem Part.retireFrom_ledger (n : Nat) (k : SectorId) : (p.retireFrom n k).ledger = p.ledger := by
  unfold Part.retireFrom
  split <;> simp

@[simp] theorem Part.reportBottom_sound (pre : Part) (k : SectorId) (h : p.ledger.Sound owing spare) :
    (pre.reportBottom p k).ledger.Sound owing spare := by
  unfold Part.reportBottom
  dsimp only
  split <;> simp [h]

@[simp] theorem Part.removeUnclimbing_sound (j : JackId) (h : p.ledger.Sound owing spare) :
    (p.removeUnclimbing j).ledger.Sound owing spare := by
  unfold Part.removeUnclimbing
  split <;> simp [h]

@[simp] theorem Part.tellAdm_sound (pre : Part) (j : JackId) (h : p.ledger.Sound owing spare) :
    (pre.tellAdm p j).ledger.Sound owing spare := by
  have moved : (if pre.moved p j then p.admPass else p).ledger.Sound owing spare := by split <;> simp [h]
  unfold Part.tellAdm
  dsimp only
  split
  · exact Part.admPass_sound (Part.removeUnclimbing_sound j moved)
  · exact moved

@[simp] theorem Part.tellMode_ledger (pre : Part) (j : JackId) : (pre.tellMode p j).ledger = p.ledger := by
  unfold Part.tellMode
  split <;> simp

@[simp] theorem Part.ceaseUnmet_ledger (x : Pair) : (p.ceaseUnmet x).ledger = p.ledger := by
  unfold Part.ceaseUnmet
  split <;> simp

@[simp] theorem Part.ceaseAllUnmet_ledger : p.ceaseAllUnmet.ledger = p.ledger :=
  foldl_law (P := fun q : Part => q.ledger = p.ledger) (fun _ x hq => (Part.ceaseUnmet_ledger x).trans hq) _ p rfl

@[simp] theorem Part.tellMon_sound (pre : Part) (h : p.ledger.Sound owing spare) :
    (pre.tellMon p).ledger.Sound owing spare := by
  unfold Part.tellMon
  refine Part.event_sound (by simpa using h) (List.forall_mem_append.2
    ⟨List.forall_mem_append.2 ⟨List.forall_mem_map.2 fun j _ => metJudging_books pre j, ?_⟩, deckJudgings_books⟩)
  exact List.forall_mem_flatMap.2 fun _ _ => sectorJudgings_books

@[simp] theorem Part.jackReport_sound (pre : Part) (h : p.ledger.Sound owing spare) :
    (pre.jackReport p).ledger.Sound owing spare := by
  unfold Part.jackReport
  dsimp only
  have caught : (if pre.stirred p then p.catchUp else p).ledger.Sound owing spare := by split <;> simp [h]
  have bottoms := foldl_law (P := (·.ledger.Sound owing spare)) (fun _ k => Part.reportBottom_sound pre k) sectorIds _
    caught
  have adm := foldl_law (P := (·.ledger.Sound owing spare)) (fun _ j => Part.tellAdm_sound pre j) jackIds _ bottoms
  have mode := foldl_law (P := (·.ledger.Sound owing spare)) (f := pre.tellMode) (fun _ j hq => by simpa using hq)
    jackIds _ adm
  exact Part.tellMon_sound pre mode

@[simp] theorem Part.reportFaulting_sound (pre : Part) (j : JackId) (h : p.ledger.Sound owing spare) :
    (pre.reportFaulting j p).ledger.Sound owing spare := by
  unfold Part.reportFaulting
  split <;> simp [h]

@[simp] theorem Part.faultJack_sound (c : FaultCause) (j : JackId) (h : p.ledger.Sound owing spare) :
    (p.faultJack c j).ledger.Sound owing spare := by
  unfold Part.faultJack
  split <;> simp [h]

@[simp] theorem Part.applyDone_sound (j : JackId) (n peak : Nat) (h : p.ledger.Sound owing spare) :
    (p.applyDone j n peak).ledger.Sound owing spare := by
  unfold Part.applyDone
  dsimp only
  split <;> simp [h]

/-- A request that changes one jack's record (R14). -/
@[simp] theorem Part.changeJack_sound (t : Tag) (code : Byte) (j : JackId) (x : Jack) (h : p.ledger.Sound owing spare) :
    (p.changeJack t code j x).ledger.Sound owing spare := by
  simp [Part.changeJack, h]

/-! ### Faults of feed nodes, timeouts -/

/-- A feed node faulted: sound where it is with that state set (R91, R94). -/
theorem Part.feedFault_of_set {f : FeedId}
    (h : Ledger.Sound owing spare { p.ledger with feeds := Function.update p.ledger.feeds f .faulted }) :
    (p.feedFault f).ledger.Sound owing spare := by
  unfold Part.feedFault
  split
  · next faulted =>
    have same : p.ledger.feeds f = .faulted := faulted
    rwa [← same, Function.update_eq_self] at h
  · exact Part.judge_sound _ _ (Part.setFeed_ledger f _ ▸ h)

@[simp] theorem Part.feedFault_sound (f : FeedId) (h : p.ledger.Sound owing spare) :
    (p.feedFault f).ledger.Sound owing spare := Part.feedFault_of_set (h.state nofun nofun)

/-- A timeout or an unclaimed return faults the subject (R75). -/
theorem Part.closeTimeout_sound {c : Command} (h : p.ledger.Sound owing spare) (here : p.Lists c) :
    (p.closeTimeout c).ledger.Sound owing spare := by
  refine Part.closeWith_sound ?_
  have kept : (p.setAbandoned (p.addrOf c.subject) (some ⟨c.tag, c.subject⟩)).ledger = p.ledger := by simp
  have sound := kept ▸ h
  have listed : (p.setAbandoned (p.addrOf c.subject) (some ⟨c.tag, c.subject⟩)).Lists c := here
  unfold Part.subjectFault
  split
  · next j lifts =>
    refine Part.faultJack_sound _ _ ?_
    rw [Part.answerEnded_ledger]
    exact Part.removeLift_sound sound listed lifts
  · next f k pours =>
    refine Part.feedFault_of_set ?_
    have closed (q : Part) (e : q.ledger = _) := Part.removePour_sound (q := q) sound listed pours
      (show FeedState.faulted ≠ .pouring from nofun) e
    have faulted := closed (Part.setFeed f ⟨.faulted, none⟩ (Part.removeCommand c.subject _)) (Part.setFeed_ledger ..)
    rw [Part.setFeed_ledger] at faulted
    rw [Part.answerEnded_ledger]
    exact faulted

/-! ### Placements (R33, R92) -/

@[simp] theorem Part.placeRecord_ledger (k : SectorId) (n : Nat) (m : MixId) (f : FeedId) :
    (p.placeRecord k n m f).1.ledger = p.ledger := by
  unfold Part.placeRecord
  split
  · rfl
  · split <;> simp

@[simp] theorem Part.place_sound (k : SectorId) (n : Nat) (m : MixId) (f : FeedId) (h : p.ledger.Sound owing spare) :
    (p.place k n m f).ledger.Sound owing spare := by
  unfold Part.place
  dsimp only
  split <;> simp [h]

@[simp] theorem Part.judgePoured_sound (f : FeedId) (a : Option SectorId) (n : Option Nat) (k : Byte) (l : Nat)
    (m : Byte) (h : p.ledger.Sound owing spare) : (p.judgePoured f a n k l m).ledger.Sound owing spare := by
  unfold Part.judgePoured
  dsimp only
  split <;> simp [h]

/-! ### LIFT and POUR from the deck -/

@[simp] theorem Part.deckLift_sound (d : Byte) (t : Tag) (n : Nat) (h : p.ledger.Sound owing spare) :
    (p.deckLift d t n).ledger.Sound owing spare := by
  have no : ∀ r, (p.refuse d .lift t r).ledger.Sound owing spare := fun r => by simpa using h
  unfold Part.deckLift
  split
  · exact no _
  split
  · exact no _
  split
  · exact no _
  split
  · exact no _
  · next passes =>
    obtain ⟨closed, fresh⟩ := Part.unlisted_of_jackCheck passes
    split
    · exact Part.defer_sound d n t _ h closed
    · exact Part.admitLift_sound n t h closed fresh

/-- A feed node that a POUR may be admitted for is READY (R87 checks 4 and 5). -/
theorem Part.ready_of_pourCheck {f : FeedId} {k : SectorId} {n : Nat} (h : p.pourCheck f k n = none) :
    (p.feed f).state = .ready := by
  unfold Part.pourCheck at h
  split at h
  · contradiction
  split at h
  · contradiction
  split at h
  · contradiction
  next still sound =>
  cases state : (p.feed f).state with
  | ready => rfl
  | pouring => exact absurd state still
  | faulted => exact absurd state sound

theorem Part.admitPour_sound {f : FeedId} (k : SectorId) (n : Nat) (t : Tag) (h : p.ledger.Sound owing none)
    (ready : (p.feed f).state = .ready) : (p.admitPour f k n t).ledger.Sound owing none := by
  have closed : Subject.feed f ∉ p.ledger.subjects := fun here => nomatch h.busy f here ready
  have set := p.setFeed_ledger f ⟨.pouring, some k⟩
  have subjects : (p.setFeed f ⟨.pouring, some k⟩).ledger.subjects = p.ledger.subjects := rfl
  rw [Part.admitPour, Part.cease_ledger,
    Part.openCommand_ledger (.pour f k) (.deck t) n (subjects ▸ h.distinct) (subjects ▸ closed), set]
  exact h.pour t closed

@[simp] theorem Part.deckPour_sound (d : Byte) (t : Tag) (k : Byte) (n : Nat) (h : p.ledger.Sound owing none) :
    (p.deckPour d t k n).ledger.Sound owing none := by
  have no : ∀ r, (p.refuse d .pour t r).ledger.Sound owing none := fun r => by simpa using h
  unfold Part.deckPour
  split
  · exact no _
  split
  · exact no _
  split
  · exact no _
  split
  · exact no _
  · next passes => exact Part.admitPour_sound _ _ t h (Part.ready_of_pourCheck passes)

end

end Sys2Proof.Machine
end

section
/-! SUPPORT. Frames from nodes, modes, supervision and requests keep the ledger sound (R65, R85, R97). -/

namespace Sys2Proof.Machine

section
variable {p : Part} {owing : Nat} {spare : Option FeedId}

/-! ### Frames from nodes -/

theorem Part.Lists.congr {q : Part} {c d : Command} (h : p.Lists c) (ledger : q.ledger = p.ledger)
    (subject : d.subject = c.subject) (origin : d.origin = c.origin) : q.Lists d := by
  rw [Part.Lists, ledger, subject, origin]
  exact h

@[simp] theorem Part.lateTaken_ledger (a : Addr) : (p.lateTaken a).ledger = p.ledger := by
  simp [Part.lateTaken]

theorem Part.decideLifted_sound (n : Nat) (r : LiftedReport) {c : Command} {j : JackId}
    (h : p.ledger.Sound owing spare) (here : p.Lists c) (lifts : c.task = .lift j) :
    (p.decideLifted n r c).ledger.Sound owing spare := by
  unfold Part.decideLifted
  split
  · refine Part.closeWith_sound ?_
    rw [id, Part.answerLifted_ledger]
    exact Part.removeLift_sound h here lifts
  split
  · exact Part.closeEnded_sound _ h here
  split
  · exact Part.closeEnded_sound _ h here
  · rwa [Part.sendSub_ledger h.distinct here]

/-- The open command of a jack is a LIFT. -/
theorem Part.lift_of_openOf {j : JackId} {c : Command} (h : p.openOf (.jack j) = some c) : c.task = .lift j := by
  have subject := Part.openOf_subject h
  rw [Command.subject] at subject
  cases task : c.task with
  | lift i => rw [task] at subject; cases subject; rfl
  | pour f k => rw [task] at subject; nomatch subject

theorem Part.answeredLift_sound (j : JackId) {c : Command} (r : LiftedReport) (h : p.ledger.Sound owing spare)
    (here : p.Lists c) : (p.answeredLift j c r).ledger.Sound owing spare := by
  have recorded : (p.setCommand (c.takeLifted r)).ledger = p.ledger :=
    Part.setCommand_ledger h.distinct (here.congr rfl rfl rfl)
  have applied := Part.applyDone_sound (p := p.setCommand (c.takeLifted r)) j (min r.done c.size) r.peak
    (recorded ▸ h)
  unfold Part.answeredLift
  dsimp only
  split
  · next d open_ => exact Part.decideLifted_sound _ r applied (Part.lists_of_openOf open_) (Part.lift_of_openOf open_)
  · exact applied

@[simp] theorem Part.strayLifted_sound (t : Tag) (r : LiftedReport) (h : p.ledger.Sound owing spare) :
    (p.strayLifted t r).ledger.Sound owing spare := by
  unfold Part.strayLifted
  split
  · simpa using h
  · split <;> simp [h]

@[simp] theorem Part.takeLifted_sound (t : Tag) (r : LiftedReport) (h : p.ledger.Sound owing spare) :
    (p.takeLifted t r).ledger.Sound owing spare := by
  unfold Part.takeLifted
  split
  · next c open_ =>
    split
    · split
      · exact Part.answeredLift_sound _ r h (Part.lists_of_openAt open_)
      · exact Part.strayLifted_sound t r h
    · exact Part.strayLifted_sound t r h
  · exact Part.strayLifted_sound t r h

/-- A POURED closes its POUR: its feed node has returned before the placement is judged (R90). -/
theorem Part.answeredPour_sound {f : FeedId} {k : SectorId} {c : Command} (r : PouredReport)
    (h : p.ledger.Sound owing none) (here : p.Lists c) (pours : c.task = .pour f k) :
    (p.answeredPour f k c r).ledger.Sound owing none := by
  have subject : c.subject = .feed f := by rw [Command.subject, pours]; rfl
  unfold Part.answeredPour
  extract_lets d returned judged
  have recorded : (p.setCommand d).ledger = p.ledger := Part.setCommand_ledger h.distinct (here.congr rfl rfl rfl)
  have back : returned.ledger.Sound owing (some f) := by
    rw [Part.feedReturn_ledger, recorded]
    exact h.spared (FeedState.returned_ne _)
  have sound : judged.ledger.Sound owing (some f) := Part.judgePoured_sound _ _ _ _ _ _ back
  have free : d.origin.round = 0 := Part.pour_origin h here pours
  refine Part.closeWith_sound ?_
  rw [id, Part.answerPoured_ledger, Part.removeCommand_ledger, free, show d.subject = .feed f from subject]
  have gone := sound.unpour (f := f) (spare' := none) (sound.idle f rfl) nofun fun g e => .inl (Option.some.inj e).symm
  rwa [Function.update_eq_self] at gone

@[simp] theorem Part.strayPoured_sound (t : Tag) (r : PouredReport) (h : p.ledger.Sound owing spare) :
    (p.strayPoured t r).ledger.Sound owing spare := by
  unfold Part.strayPoured
  split
  · simpa using h
  · split <;> simp [h]

@[simp] theorem Part.takePoured_sound (t : Tag) (r : PouredReport) (h : p.ledger.Sound owing none) :
    (p.takePoured t r).ledger.Sound owing none := by
  unfold Part.takePoured
  split
  · next c open_ =>
    split
    · next f k pours =>
      split
      · exact Part.answeredPour_sound r h (Part.lists_of_openAt open_) pours
      · exact Part.strayPoured_sound t r h
    · exact Part.strayPoured_sound t r h
  · exact Part.strayPoured_sound t r h

@[simp] theorem Part.takeWait_sound (a : Byte) (t : Tag) (h : p.ledger.Sound owing spare) :
    (p.takeWait a t).ledger.Sound owing spare := by
  unfold Part.takeWait
  split
  · next c open_ =>
    have here := Part.lists_of_openAt open_
    split
    · unfold Part.answeredWait
      split
      · exact Part.closeEnded_sound _ h here
      split
      · refine (congrArg (Ledger.Sound owing spare) (Part.setCommand_ledger h.distinct ?_)).mpr h
        exact here.congr rfl rfl rfl
      · exact Part.closeEnded_sound (p := p.raise .nodeBusy) _ h here
    · simpa using h
  · simpa using h

@[simp] theorem Part.learnDepth_ledger (a d : Byte) : (p.learnDepth a d).ledger = p.ledger := by
  unfold Part.learnDepth
  split
  · split <;> rfl
  · rfl

@[simp] theorem Part.takeTrouble_sound (a : Byte) (h : p.ledger.Sound owing spare) :
    (p.takeTrouble a).ledger.Sound owing spare := by
  unfold Part.takeTrouble
  split <;> simp [h]

@[simp] theorem Part.unclaimed_sound (k : Kind) (d : Byte) (t : Tag) (h : p.ledger.Sound owing spare) :
    (p.unclaimed k d t).ledger.Sound owing spare := by
  unfold Part.unclaimed
  split
  · next c open_ =>
    split
    · exact Part.closeTimeout_sound h (Part.lists_of_openAt open_)
    · exact h
  · exact h

/-! ### Frames passed through -/

@[simp] theorem Part.stillFromDeck_sound (d : Byte) (h : p.ledger.Sound owing spare) :
    (p.stillFromDeck d).ledger.Sound owing spare := by
  unfold Part.stillFromDeck
  split
  · simp [h]
  · split <;> simp [h]

theorem Part.passThrough_sound (k : Kind) (d : Byte) (t : Tag) (l : List Byte) {before : Part → Part}
    (h : p.ledger.Sound owing spare) (hb : (before p).ledger.Sound owing spare) :
    (p.passThrough k d t l before).ledger.Sound owing spare := by
  unfold Part.passThrough
  split_ifs <;> simp [h, hb]

@[simp] theorem Part.nodeset_ledger (d : Byte) (t : Tag) (l : List Byte) :
    (p.nodeset d t l).ledger = p.ledger := by
  unfold Part.nodeset
  split
  · simp
  split
  · simp
  split
  · split <;> simp
  · simp
  · simp

/-! ### Modes and supervision -/

@[simp] theorem Part.tellMonMode_sound (h : p.ledger.Sound owing spare) : p.tellMonMode.ledger.Sound owing spare := by
  simp [Part.tellMonMode, h]

@[simp] theorem Part.startSlip_sound (t : Tag) (h : p.ledger.Sound owing spare) :
    (p.startSlip t).ledger.Sound owing spare := by
  simp [Part.startSlip, h]

theorem Part.enterHold_sound {cause : HoldCause} {answer : Part → Part} (h : p.ledger.Sound owing spare)
    (ha : ∀ q, q.ledger.Sound owing spare → (answer q).ledger.Sound owing spare) :
    (p.enterHold cause answer).ledger.Sound owing spare := by
  have answered := ha (p.setMode (p.holdRecord cause)) h
  simp [Part.enterHold, answered]

@[simp] theorem Part.resumeSlip_sound (t : Tag) (h : p.ledger.Sound owing spare) :
    (p.resumeSlip t).ledger.Sound owing spare := by
  simp [Part.resumeSlip, h]

@[simp] theorem Part.deckLostMove_sound (h : p.ledger.Sound owing spare) : p.deckLostMove.ledger.Sound owing spare := by
  unfold Part.deckLostMove
  split
  · exact Part.enterHold_sound h fun _ => id
  · exact h

@[simp] theorem Part.returnFromStopped_sound (h : p.ledger.Sound owing spare) :
    p.returnFromStopped.ledger.Sound owing spare := by
  unfold Part.returnFromStopped
  split
  · exact Part.tellMonMode_sound h
  · exact Part.tellMonMode_sound h
  · exact Part.tellMonMode_sound h
  all_goals exact h

@[simp] theorem Part.endDeckLost_sound (h : p.ledger.Sound owing spare) : p.endDeckLost.ledger.Sound owing spare := by
  unfold Part.endDeckLost
  split <;> simp [h]

@[simp] theorem Part.tellModeAccepted_ledger : p.tellModeAccepted.ledger = p.ledger := by
  unfold Part.tellModeAccepted
  split <;> simp

@[simp] theorem Part.accept_sound (h : p.ledger.Sound owing spare) :
    p.accept.ledger.Sound owing spare := by simp [Part.accept, h]

@[simp] theorem Part.declareLost_sound (h : p.ledger.Sound owing spare) : p.declareLost.ledger.Sound owing spare := by
  unfold Part.declareLost
  dsimp only
  split <;> simp [h]

@[simp] theorem Part.violation_sound (h : p.ledger.Sound owing spare) : p.violation.ledger.Sound owing spare := by
  unfold Part.violation
  dsimp only
  split <;> simp [h]

@[simp] theorem Part.expireWindow_sound (h : p.ledger.Sound owing spare) : p.expireWindow.ledger.Sound owing spare := by
  simp [Part.expireWindow, h]

@[simp] theorem Part.judgeToken_sound (t : Tag) (b : Byte) (h : p.ledger.Sound owing spare) :
    (p.judgeToken t b).ledger.Sound owing spare := by
  unfold Part.judgeToken
  split_ifs <;> simp [h]

@[simp] theorem Part.idleHeartbeat_sound (t : Tag) (h : p.ledger.Sound owing spare) :
    (p.idleHeartbeat t).ledger.Sound owing spare := by
  unfold Part.idleHeartbeat
  split <;> simp [h]

@[simp] theorem Part.heartbeat_sound (t : Tag) (b : Byte) (h : p.ledger.Sound owing spare) :
    (p.heartbeat t b).ledger.Sound owing spare := by
  unfold Part.heartbeat
  split
  · split <;> simp [h]
  · exact Part.idleHeartbeat_sound t h

@[simp] theorem Part.acceptAny_sound (h : p.ledger.Sound owing spare) : p.acceptAny.ledger.Sound owing spare := by
  unfold Part.acceptAny
  split <;> simp [h]

/-! ### CLEAR, CONTROL, the lease, reads -/

@[simp] theorem Part.clear_sound (t : Tag) (h : p.ledger.Sound owing spare) : (p.clear t).ledger.Sound owing spare := by
  unfold Part.clear
  dsimp only
  split <;> simp [h]

@[simp] theorem Part.controlStart_sound (t : Tag) (h : p.ledger.Sound owing spare) :
    (p.controlStart t).ledger.Sound owing spare := by
  unfold Part.controlStart
  split_ifs <;> simp [h]

@[simp] theorem Part.controlHold_sound (t : Tag) (h : p.ledger.Sound owing spare) :
    (p.controlHold t).ledger.Sound owing spare := by
  unfold Part.controlHold
  split
  · simpa using h
  · exact Part.enterHold_sound h (by simp)

@[simp] theorem Part.controlResume_sound (t : Tag) (h : p.ledger.Sound owing spare) :
    (p.controlResume t).ledger.Sound owing spare := by
  unfold Part.controlResume
  split_ifs <;> simp [h]

@[simp] theorem Part.controlStop_sound (t : Tag) (h : p.ledger.Sound owing spare) :
    (p.controlStop t).ledger.Sound owing spare := by
  simp [Part.controlStop, h]

@[simp] theorem Part.leaseAsk_ledger (t : Tag) : (p.leaseAsk t).ledger = p.ledger := by
  unfold Part.leaseAsk
  split_ifs <;> simp

@[simp] theorem Part.leaseEnd_sound (t : Tag) (h : p.ledger.Sound owing spare) :
    (p.leaseEnd t).ledger.Sound owing spare := by
  unfold Part.leaseEnd
  split <;> simp [h]

@[simp] theorem Part.status_ledger (t : Tag) (n : Byte) : (p.status t n).ledger = p.ledger := by
  unfold Part.status
  split <;> simp

@[simp] theorem Part.faults_ledger (t : Tag) (n : Byte) : (p.faults t n).ledger = p.ledger := by
  unfold Part.faults
  split <;> simp

@[simp] theorem Part.tableRead_ledger (t : Tag) (b a i f : Nat) :
    (p.tableRead t b a i f).ledger = p.ledger := by
  unfold Part.tableRead
  split <;> simp

@[simp] theorem Part.tableWrite_ledger (t : Tag) (a i f v : Nat) :
    (p.tableWrite t a i f v).ledger = p.ledger := by
  unfold Part.tableWrite
  split
  · simp
  · split <;> simp

@[simp] theorem Part.shadowLoad_ledger (t : Tag) : (p.shadowLoad t).ledger = p.ledger := by
  unfold Part.shadowLoad
  split <;> simp

end

end Sys2Proof.Machine
end

section
/-! SUPPORT. Jack requests, a commit, a reset and the shares of an advance keep the ledger sound (R65, R85, R97). -/

namespace Sys2Proof.Machine

section
variable {p : Part} {owing : Nat} {spare : Option FeedId}

/-! ### Jack requests -/

@[simp] theorem Part.spliceBegin_sound (t : Tag) (j : JackId) (h : p.ledger.Sound owing spare) :
    (p.spliceBegin t j).ledger.Sound owing spare := by
  unfold Part.spliceBegin
  split_ifs <;> simp [h]

@[simp] theorem Part.spliceEnd_sound (t : Tag) (j : JackId) (n : Nat) (h : p.ledger.Sound owing spare) :
    (p.spliceEnd t j n).ledger.Sound owing spare := by
  unfold Part.spliceEnd
  split_ifs <;> simp [h]

@[simp] theorem Part.rodSet_sound (t : Tag) (j : JackId) (n : Nat) (h : p.ledger.Sound owing spare) :
    (p.rodSet t j n).ledger.Sound owing spare := by
  unfold Part.rodSet
  split_ifs <;> simp [h]

@[simp] theorem Part.positionSet_sound (t : Tag) (j : JackId) (n : Nat) (h : p.ledger.Sound owing spare) :
    (p.positionSet t j n).ledger.Sound owing spare := by
  unfold Part.positionSet
  split_ifs <;> simp [h]

@[simp] theorem Part.stillOf_ledger (j : JackId) : (p.stillOf j).ledger = p.ledger := by
  unfold Part.stillOf
  split <;> simp

@[simp] theorem Part.isolate_sound (t : Tag) (a : Byte) (h : p.ledger.Sound owing spare) :
    (p.isolate t a).ledger.Sound owing spare := by
  unfold Part.isolate
  split
  · simpa using h
  · split
    · unfold Part.isolateJack
      dsimp only
      split <;> simp [h]
    · simpa using h

/-- A feed node restored is READY, with no POUR open (R95). -/
@[simp] theorem Part.restoreFeed_sound (t : Tag) (f : FeedId) (h : p.ledger.Sound owing spare) :
    (p.restoreFeed t f).ledger.Sound owing spare := by
  unfold Part.restoreFeed
  split
  · simpa using h
  split
  · simpa using h
  · next free =>
    have closed : Subject.feed f ∉ p.ledger.subjects :=
      Part.ledger_subjects ▸ Part.openOf_eq_none.1 (by simpa using free)
    rw [Part.ack_ledger, Part.setAbandoned_ledger, Part.cease_ledger, Part.setFeed_ledger]
    exact h.state nofun fun _ here => absurd here closed

@[simp] theorem Part.restore_sound (t : Tag) (a : Byte) (h : p.ledger.Sound owing spare) :
    (p.restore t a).ledger.Sound owing spare := by
  unfold Part.restore
  split
  · simpa using h
  · split
    · unfold Part.restoreJack
      dsimp only
      split
      · split <;> simp [h]
      · split <;> simp [h]
      all_goals simpa using h
    · exact Part.restoreFeed_sound t _ h
    · simpa using h

@[simp] theorem Part.layerEnter_sound (t : Tag) (k : Byte) (d : Nat) (a : Clock) (m : Byte)
    (h : p.ledger.Sound owing spare) : (p.layerEnter t k d a m).ledger.Sound owing spare := by
  unfold Part.layerEnter
  split
  · split_ifs <;> simp [Part.enterLayer, h]
  · simpa using h

/-! ### COMMIT (R159 to R163) -/

/-- No POUR is open. -/
def Part.Pourless (p : Part) : Prop := ∀ f, Subject.feed f ∉ p.subjects

/-- No quiet operation opens a POUR. -/
theorem Quiet.pourless {p q : Part} (h : Quiet p q) : p.Pourless → q.Pourless := by
  have lifts : ∀ (q : Part) (j : JackId) (n : Nat) (o : Origin), q.Pourless → (q.admitLift j n o).Pourless :=
    fun q j n o hq f m => by
      rw [Part.admitLift, Part.openCommand_subjects] at m
      rcases List.mem_append.1 m with m | m
      · exact hq f m
      · simp [Task.subject] at m
  induction h with
  | trans _ _ a b => exact b ∘ a
  | promote p e n o here place => exact lifts (p.dropEntry e.jack) e.jack n o
  | issue p j n o closed fresh place => exact lifts p j n o
  | table p l same => exact fun law f m => law f (by rw [Part.subjects, ← same]; exact m)
  | close p q c here inner ih =>
    intro law f m
    have kept : (q.releaseOf c).subjects = q.subjects := by
      unfold Part.releaseOf
      split <;> rfl
    exact ih (fun g hg => law g (Part.removeCommand_subjects c.subject hg)) f (kept ▸ m)
  | _ => exact id

theorem JacksOnly.ledger {q : Part} (h : JacksOnly p q) : q.ledger = p.ledger := by
  rw [h]
  rfl

@[simp] theorem Part.retires_ledger (before : SectorId → Nat) (l : List SectorId) :
    (l.foldl (fun q k => q.retireFrom (before k) k) p).ledger = p.ledger :=
  foldl_law (P := fun q : Part => q.ledger = p.ledger) (fun _ k hq => (Part.retireFrom_ledger _ k).trans hq) l p rfl

/-- What the jack table's report at a commit does after the catch-up test and the retirements (R12). -/
theorem Part.commitJackReport_quiet (pre q : Part) :
    Quiet (sectorIds.foldl (fun r k => r.retireFrom (pre.sectorBottom k) k) q.catchUp) (pre.commitJackReport q) := by
  unfold Part.commitJackReport
  dsimp only
  refine (Part.commitRemovals_quiet _).trans (.trans ?_ (.foldl (fun p j => p.tellMode_quiet pre j) _ _))
  split
  · exact Part.admPass_quiet _
  · exact .refl _

/-- The jack table's report at a commit opens no POUR. -/
theorem Part.commitJackReport_pourless (pre q : Part) (h : q.Pourless) : (pre.commitJackReport q).Pourless := by
  refine (Part.commitJackReport_quiet pre q).pourless fun f m => h f ?_
  rwa [← Part.ledger_subjects, Part.retires_ledger, Part.catchUp_ledger, Part.ledger_subjects] at m

@[simp] theorem Part.commitRemovals_sound (h : p.ledger.Sound owing spare) :
    p.commitRemovals.ledger.Sound owing spare :=
  Part.removeEntries_sound _ _ (Part.removeEntries_sound _ _ (Part.removeEntries_sound _ _ h))

@[simp] theorem Part.commitJackReport_sound (pre : Part) (h : p.ledger.Sound owing spare) :
    (pre.commitJackReport p).ledger.Sound owing spare := by
  have retired := (Part.retires_ledger (p := p.catchUp) pre.sectorBottom sectorIds).trans Part.catchUp_ledger
  have removed := Part.commitRemovals_sound
    (p := sectorIds.foldl (fun r k => r.retireFrom (pre.sectorBottom k) k) p.catchUp) (by rw [retired]; exact h)
  unfold Part.commitJackReport
  dsimp only
  refine foldl_law (P := (·.ledger.Sound owing spare)) (f := pre.tellMode) (fun _ j hq => by simpa using hq) _ _ ?_
  split
  · exact Part.admPass_sound removed
  · exact removed

/-- A feed node exits or moves with no POUR open (R96). -/
theorem Part.feedTransition_sound (old : Bank) (f : FeedId) (h : p.ledger.Sound owing spare) (free : p.Pourless) :
    (p.feedTransition old f).ledger.Sound owing spare ∧ (p.feedTransition old f).Pourless := by
  unfold Part.feedTransition
  split
  · refine ⟨?_, free⟩
    rw [Part.cease_ledger, Part.setFeed_ledger]
    exact h.state nofun fun _ here => absurd (Part.ledger_subjects ▸ here) (free f)
  · exact ⟨h, free⟩

@[simp] theorem Part.commitLayerReport_sound (pre : Part) (k : SectorId) (h : p.ledger.Sound owing spare) :
    (pre.commitLayerReport p k).ledger.Sound owing spare := by
  unfold Part.commitLayerReport
  split <;> simp [h]

@[simp] theorem Part.commitMon_sound (pre : Part) (h : p.ledger.Sound owing spare) :
    (pre.commitMon p).ledger.Sound owing spare := by
  unfold Part.commitMon
  refine Part.event_sound (by simpa using h) (List.forall_mem_append.2 ⟨List.forall_mem_append.2
    ⟨List.forall_mem_append.2 ⟨List.forall_mem_map.2 fun j _ => commitJudging_books pre j, ?_⟩, ?_⟩, ?_⟩)
  · exact List.forall_mem_flatMap.2 fun k _ => by
      simp [bondJudging, starveJudging, judging_books, reasserting_books]
  · exact List.forall_mem_map.2 fun f _ => reasserting_books _
  · simp [spreadJudging, compoundJudging, judging_books, reasserting_books]

/-- A commit applied with no command open (R161). -/
theorem Part.applyBank_sound (t : Tag) (h : p.ledger.Sound owing spare) (empty : p.xt.table = []) :
    (p.applyBank t).ledger.Sound owing spare := by
  unfold Part.applyBank
  extract_lets pre banked replied reported feeds layers passed
  have moved : (replied.jackTransitions pre.bank).ledger = p.ledger :=
    (replied.jackTransitions_only _).ledger.trans (banked.reply_ledger ..)
  have free : (replied.jackTransitions pre.bank).Pourless := fun f m => by
    rw [← Part.ledger_subjects, moved, Part.ledger_subjects, Part.subjects, empty] at m
    nomatch m
  have fed : feeds.ledger.Sound owing spare ∧ feeds.Pourless :=
    foldl_law (P := fun q : Part => q.ledger.Sound owing spare ∧ q.Pourless)
      (fun _ f hq => Part.feedTransition_sound pre.bank f hq.1 hq.2) feedIds _
      ⟨Part.commitJackReport_sound pre (moved ▸ h), Part.commitJackReport_pourless pre _ free⟩
  have layered : layers.ledger.Sound owing spare :=
    foldl_law (P := (·.ledger.Sound owing spare)) (fun _ k => Part.commitLayerReport_sound pre k) sectorIds _ fed.1
  exact Part.creepPassIfWaiting_sound (Part.commitMon_sound pre (Part.admPass_sound layered))

@[simp] theorem Part.cancelCommit_sound (t : Tag) (why : Option Failing) (h : p.ledger.Sound owing spare) :
    (p.cancelCommit t why).ledger.Sound owing spare := by
  simp [Part.cancelCommit, h]

@[simp] theorem Part.decideCommit_sound (t : Tag) (n : BitVec 16) (h : p.ledger.Sound owing spare) :
    (p.decideCommit t n).ledger.Sound owing spare := by
  unfold Part.decideCommit
  split
  · simpa using h
  split
  · simpa using h
  split
  · simpa using h
  · split
    · next empty => exact Part.applyBank_sound t h (List.isEmpty_iff.1 empty)
    · simpa using h

/-! ### The end of an event -/

@[simp] theorem Part.quiesce_sound (h : p.ledger.Sound owing spare) : p.quiesce.ledger.Sound owing spare := by
  unfold Part.quiesce
  split
  · split
    · next empty =>
      rw [Part.leaseSince_ledger]
      unfold Part.applyPending
      split
      · exact Part.cancelCommit_sound _ _ h
      · exact Part.applyBank_sound _ h (List.isEmpty_iff.1 empty)
    · exact h
  · exact h

@[simp] theorem Part.finish_sound (pre : Part) (h : p.ledger.Sound owing spare) :
    (pre.finish p).ledger.Sound owing spare := by
  refine Part.quiesce_sound ?_
  rwa [Part.leaseSince_ledger]

/-! ### Reset and the lines (R181 to R183) -/

/-- The reset values: nothing open, nothing deferred, every feed node READY (R42, R66, R86). -/
theorem Part.sound_of_reset (table : p.xt.table = []) (queue : p.adm.queue = [])
    (feeds : p.feeds = Vector.replicate 8 ⟨.ready, none⟩) (mode : p.mode = resetMode) : p.ledger.Sound 0 none := by
  have ready : p.ledger = ⟨[], [], fun _ => .ready, 0⟩ := by
    simp [Part.ledger, Part.waiting, Part.feed, table, queue, feeds, mode, resetMode]
  rw [ready]
  exact ⟨List.nodup_nil, nofun, nofun, nofun, nofun, rfl, nofun⟩

theorem Part.resetEvent_sound (c : ResetCause) : (p.resetEvent c).ledger.Sound 0 none :=
  Part.sound_of_reset rfl rfl rfl rfl

@[simp] theorem Part.releaseEvent_sound (h : p.ledger.Sound owing spare) : p.releaseEvent.ledger.Sound owing spare := by
  unfold Part.releaseEvent
  dsimp only
  split
  · exact Part.judge_sound _ _ h
  · exact h

@[simp] theorem Part.requestReset_sound : p.requestReset.ledger.Sound 0 none :=
  Part.releaseEvent_sound (Part.resetEvent_sound _)

@[simp] theorem Part.powerUp_sound : p.powerUp.ledger.Sound 0 none := by
  unfold Part.powerUp
  dsimp only
  split
  · exact Part.resetEvent_sound _
  · exact Part.releaseEvent_sound (Part.resetEvent_sound _)

@[simp] theorem Part.holdReset_sound (h : p.ledger.Sound 0 none) : p.holdReset.ledger.Sound 0 none := by
  unfold Part.holdReset
  split
  · exact h
  · exact Part.sound_of_reset rfl rfl rfl rfl

@[simp] theorem Part.releaseReset_sound (h : p.ledger.Sound owing spare) :
    p.releaseReset.ledger.Sound owing spare := by
  unfold Part.releaseReset
  split
  · exact Part.releaseEvent_sound h
  · exact h

@[simp] theorem Part.askReset_sound (t : Tag) (h : p.ledger.Sound 0 none) : (p.askReset t).ledger.Sound 0 none := by
  unfold Part.askReset
  split
  · simpa using h
  split
  · have acked : (p.ack t codeReset).ledger.Sound 0 none := by simpa using h
    exact acked
  · exact Part.requestReset_sound

@[simp] theorem Part.resetIfDue_sound (h : p.ledger.Sound 0 none) : p.resetIfDue.ledger.Sound 0 none := by
  unfold Part.resetIfDue
  split <;> simp [h]

@[simp] theorem Part.sendRing_ledger : p.sendRing.ledger = p.ledger := by
  unfold Part.sendRing
  split <;> rfl

@[simp] theorem Part.sendDeck_ledger : p.sendDeck.ledger = p.ledger := by
  unfold Part.sendDeck
  split
  · rfl
  · split <;> rfl

@[simp] theorem Part.stopInLevel_sound (b : Bool) (h : p.ledger.Sound owing spare) :
    (p.stopInLevel b).ledger.Sound owing spare := by
  unfold Part.stopInLevel
  dsimp only
  split
  · exact h
  · exact Part.judge_sound _ _ h

end

end Sys2Proof.Machine
end

section
/-! SUPPORT. The shares of an advance, and so every command and every step, keep the ledger sound (R65, R85, R97). -/

namespace Sys2Proof.Machine

section
variable {p : Part}

/-! ### Time (R184) -/

/-- A part of the same ledger. -/
theorem Part.sound_of_eq {q : Part} (same : q.ledger = p.ledger) (h : p.ledger.Sound 0 none) :
    q.ledger.Sound 0 none := by rwa [same]

theorem Part.dueCommand_sound {c : Command} (h : p.ledger.Sound 0 none) (here : p.Lists c) :
    (p.dueCommand c).ledger.Sound 0 none := by
  unfold Part.dueCommand
  split
  · exact Part.finish_sound p (Part.closeTimeout_sound h here)
  split
  · rwa [Part.resend_ledger h.distinct here]
  · exact h

theorem Part.shareTransactions_sound (h : p.ledger.Sound 0 none) :
    p.shareTransactions.ledger.Sound 0 none := by
  refine foldl_law (P := (·.ledger.Sound 0 none)) (fun q x hq => ?_) _ p h
  split
  · next open_ => exact Part.dueCommand_sound hq (Part.lists_of_openOf open_)
  · exact hq

theorem Part.expireCreep_sound (h : p.ledger.Sound 0 none) : p.expireCreep.ledger.Sound 0 none := by
  unfold Part.expireCreep
  dsimp only
  split
  · simpa using h
  · simpa using h
  · split <;> simp [h]

theorem Part.shareLease_sound (h : p.ledger.Sound 0 none) : p.shareLease.ledger.Sound 0 none := by
  unfold Part.shareLease
  split
  · split <;> simp [h]
  all_goals exact h

theorem Part.shareCommitWait_sound (h : p.ledger.Sound 0 none) :
    p.shareCommitWait.ledger.Sound 0 none := by
  unfold Part.shareCommitWait
  split
  · split <;> simp [h]
  · exact h

theorem Part.shareDeglitch_sound (h : p.ledger.Sound 0 none) :
    p.shareDeglitch.ledger.Sound 0 none :=
  Part.event_sound h (List.forall_mem_append.2
    ⟨List.forall_mem_map.2 fun x _ => deglitchJudging_books x, compoundJudging_books⟩)

theorem Part.shareBlanking_sound (h : p.ledger.Sound 0 none) :
    p.shareBlanking.ledger.Sound 0 none := by
  unfold Part.shareBlanking
  split <;> simp [h]

theorem Part.share_sound (x : Share) (h : p.ledger.Sound 0 none) :
    (p.share x).ledger.Sound 0 none := by
  cases x with
  | deferred => exact Part.passWith_sound true h
  | transactions => exact Part.shareTransactions_sound h
  | creep =>
    change (if p.creepDue then p.expireCreep else p).ledger.Sound 0 none
    split
    · exact Part.expireCreep_sound h
    · exact h
  | lease => exact Part.shareLease_sound h
  | window =>
    change (if p.windowDue then p.expireWindow else p).ledger.Sound 0 none
    split
    · exact Part.expireWindow_sound h
    · exact h
  | commitWait => exact Part.shareCommitWait_sound h
  | deglitch => exact Part.shareDeglitch_sound h
  | blanking => exact Part.shareBlanking_sound h

@[simp] theorem Part.takeShare_sound (x : Share) (h : p.ledger.Sound 0 none) :
    (p.takeShare x).ledger.Sound 0 none := by
  unfold Part.takeShare
  split
  · exact Part.finish_sound p (Part.sound_of_eq (by simp) (Part.share_sound x h))
  · exact h

theorem Part.takeShares_sound (l : List Share) (h : p.ledger.Sound 0 none) :
    (l.foldl Part.takeShare p).ledger.Sound 0 none :=
  foldl_law (P := (·.ledger.Sound 0 none)) (fun _ x => Part.takeShare_sound x) l p h

theorem Part.settle_sound (h : p.ledger.Sound 0 none) : p.settle.ledger.Sound 0 none :=
  Part.takeShares_sound _ (Part.resetIfDue_sound h)

theorem Part.settleAll_sound (h : p.ledger.Sound 0 none) : p.settleAll.ledger.Sound 0 none :=
  Part.takeShares_sound _ (Part.resetIfDue_sound h)

@[simp] theorem Part.admAdvance_sound (h : p.ledger.Sound 0 none) :
    p.admAdvance.ledger.Sound 0 none := by
  unfold Part.admAdvance
  split <;> simp [h]

theorem Part.advance_sound (h : p.ledger.Sound 0 none) : p.advance.ledger.Sound 0 none := by
  unfold Part.advance
  dsimp only
  split
  · exact h
  · have early := Part.takeShares_sound p.order.early (p := { p.countDown with owed := allShares }) h
    exact Part.admAdvance_sound (Part.finish_sound _ (Part.judgeBonds_sound early))

theorem Part.nodeShare_sound (a : Byte) (due : Part → Command → Bool) (h : p.ledger.Sound 0 none) :
    (p.nodeShare a due).ledger.Sound 0 none := by
  unfold Part.nodeShare
  split
  · split
    · next open_ =>
      split
      · exact Part.dueCommand_sound h (Part.lists_of_openAt open_)
      · exact h
    · exact h
  · exact h

theorem Part.pairShare_sound (x : Pair) (h : p.ledger.Sound 0 none) :
    (p.pairShare x).ledger.Sound 0 none := by
  unfold Part.pairShare
  split
  · exact Part.event_sound h (List.forall_mem_cons.2 ⟨deglitchJudging_books x, compoundJudging_books⟩)
  · exact h

end

/-! ### Whole steps -/

section
variable {s t : State} {f : Part → Part}

theorem State.act_sound (h : s.part.ledger.Sound 0 none)
    (hf : ∀ p, p.ledger.Sound 0 none → (f p).ledger.Sound 0 none)
    (e : s.act f = .next t) : t.part.ledger.Sound 0 none := by
  cases e
  exact Part.finish_sound _ (hf _ (Part.settle_sound h))

theorem State.endSecond_sound (h : s.part.ledger.Sound 0 none)
    (hf : ∀ p, p.ledger.Sound 0 none → (f p).ledger.Sound 0 none)
    (e : s.endSecond f = .next t) : t.part.ledger.Sound 0 none := by
  cases e
  exact Part.finish_sound _ (hf _ (Part.settleAll_sound h))

theorem State.due_sound (h : s.part.ledger.Sound 0 none)
    (hf : ∀ p, p.ledger.Sound 0 none → (f p).ledger.Sound 0 none)
    (e : s.due f = .next t) : t.part.ledger.Sound 0 none := by
  cases e
  exact Part.finish_sound _ (hf _ (Part.resetIfDue_sound h))

theorem State.takeFrame_sound (h : s.part.ledger.Sound 0 none)
    (hf : ∀ p, p.ledger.Sound 0 none → (f p).ledger.Sound 0 none)
    (e : s.takeFrame f = .next t) : t.part.ledger.Sound 0 none := by
  refine State.act_sound h (fun p hp => ?_) e
  unfold Part.ifTaking
  split
  · exact hf p hp
  · exact hp

theorem State.takeRequest_sound (h : s.part.ledger.Sound 0 none)
    (hf : ∀ p, p.ledger.Sound 0 none → (f p).ledger.Sound 0 none)
    (e : s.takeRequest f = .next t) : t.part.ledger.Sound 0 none :=
  State.takeFrame_sound h (fun _ hp => hf _ (Part.acceptAny_sound hp)) e

/-- A frame of a node's (R172). -/
theorem State.fromNode_sound {a : Byte} (h : s.part.ledger.Sound 0 none)
    (hf : ∀ p, p.ledger.Sound 0 none → (f p).ledger.Sound 0 none)
    (e : s.takeFrame (Part.fromNode a f) = .next t) : t.part.ledger.Sound 0 none := by
  refine State.takeFrame_sound h (fun p hp => ?_) e
  unfold Part.fromNode
  split
  · exact hf p hp
  · exact hp

end

end Sys2Proof.Machine
end
section
/-! SUPPORT. Every command, and so every step, keeps the ledger sound (R65, R85, R97). -/

namespace Sys2Proof.Machine

/-- Every command that ends in a next state keeps the ledger sound. -/
theorem exec_sound (i : Instr) {s t : State} (h : s.part.ledger.Sound 0 none) :
    exec i s = .next t → t.part.ledger.Sound 0 none := by
  cases i with
  | lift d g l =>
    refine State.takeFrame_sound h fun p hp => ?_
    split
    · exact Part.deckLift_sound _ _ _ hp
    · simpa using hp
  | pour d g l =>
    refine State.takeFrame_sound h fun p hp => ?_
    split
    · exact Part.deckPour_sound _ _ _ _ hp
    · simpa using hp
  | ask d g l => exact State.takeFrame_sound h fun p hp => Part.passThrough_sound _ _ _ _ hp hp
  | still d g l =>
    exact State.takeFrame_sound h fun p hp =>
      Part.passThrough_sound _ _ _ _ hp (Part.stillFromDeck_sound d hp)
  | nodeset d g l => exact State.takeFrame_sound h fun p => Part.sound_of_eq (Part.nodeset_ledger d g l)
  | deckFrameWrongKind d k g => exact State.takeFrame_sound h fun p => Part.sound_of_eq (Part.refuse_ledger ..)
  | frameBadCheck x => exact State.takeFrame_sound h fun p => Part.sound_of_eq (Part.raise_ledger _)
  | unknownKindDropped x c => exact State.takeFrame_sound h fun p => Part.sound_of_eq (Part.raise_ledger _)
  | mgmtBadRequest g l =>
    simp only [exec, execMgmtBadRequest]
    split
    · exact State.takeRequest_sound h fun p => Part.sound_of_eq (Part.deny_ledger ..)
    · exact State.takeFrame_sound h fun p => Part.sound_of_eq (Part.deny_ledger ..)
  | heartbeat g b => exact State.takeRequest_sound h fun p => Part.heartbeat_sound g b
  | status g n => exact State.takeRequest_sound h fun p => Part.sound_of_eq (Part.status_ledger g n)
  | faults g n => exact State.takeRequest_sound h fun p => Part.sound_of_eq (Part.faults_ledger g n)
  | clear g => exact State.takeRequest_sound h fun p => Part.clear_sound g
  | tableWrite g a i f v => exact State.takeRequest_sound h fun p => Part.sound_of_eq (Part.tableWrite_ledger ..)
  | tableRead g b a i f => exact State.takeRequest_sound h fun p => Part.sound_of_eq (Part.tableRead_ledger ..)
  | shadowLoad g => exact State.takeRequest_sound h fun p => Part.sound_of_eq (Part.shadowLoad_ledger g)
  | commit g n => exact State.takeRequest_sound h fun p => Part.decideCommit_sound g n
  | controlStart g => exact State.takeRequest_sound h fun p => Part.controlStart_sound g
  | controlHold g => exact State.takeRequest_sound h fun p => Part.controlHold_sound g
  | controlResume g => exact State.takeRequest_sound h fun p => Part.controlResume_sound g
  | controlStop g => exact State.takeRequest_sound h fun p => Part.controlStop_sound g
  | spliceBegin g j =>
    simp only [exec, execSpliceBegin]
    refine State.takeRequest_sound h fun p hp => ?_
    split
    · exact Part.spliceBegin_sound g _ hp
    · simpa using hp
  | spliceEnd g j n =>
    simp only [exec, execSpliceEnd]
    refine State.takeRequest_sound h fun p hp => ?_
    split
    · exact Part.spliceEnd_sound g _ _ hp
    · simpa using hp
  | rodSet g j n =>
    simp only [exec, execRodSet]
    refine State.takeRequest_sound h fun p hp => ?_
    split
    · exact Part.rodSet_sound g _ _ hp
    · simpa using hp
  | positionSet g j n =>
    simp only [exec, execPositionSet]
    refine State.takeRequest_sound h fun p hp => ?_
    split
    · exact Part.positionSet_sound g _ _ hp
    · simpa using hp
  | isolate g a => exact State.takeRequest_sound h fun p => Part.isolate_sound g a
  | restore g a => exact State.takeRequest_sound h fun p => Part.restore_sound g a
  | jackRead g j =>
    simp only [exec, execJackRead]
    refine State.takeRequest_sound h fun p hp => ?_
    split <;> simp [hp]
  | sectorRead g k =>
    simp only [exec, execSectorRead]
    refine State.takeRequest_sound h fun p hp => ?_
    split <;> simp [hp]
  | layerRead g k n =>
    simp only [exec, execLayerRead]
    refine State.takeRequest_sound h fun p hp => ?_
    split <;> simp [hp]
  | layerEnter g k d a m => exact State.takeRequest_sound h fun p hp => Part.layerEnter_sound g k _ _ m hp
  | leaseAsk g => exact State.takeRequest_sound h fun p => Part.sound_of_eq (Part.leaseAsk_ledger g)
  | leaseEnd g => exact State.takeRequest_sound h fun p => Part.leaseEnd_sound g
  | reset g => exact State.takeRequest_sound h fun p => Part.askReset_sound g
  | ident g => exact State.takeRequest_sound h fun p => Part.sound_of_eq (Part.data_ledger ..)
  | lifted a g n e k => exact State.fromNode_sound h fun p => Part.takeLifted_sound _ _
  | poured a g k n m => exact State.fromNode_sound h fun p => Part.takePoured_sound _ _
  | wait a g => exact State.fromNode_sound h fun p => Part.takeWait_sound a g
  | nodeState a g e d k c =>
    exact State.fromNode_sound h fun p => Part.sound_of_eq ((Part.emit_ledger ..).trans (Part.learnDepth_ledger a d))
  | trouble a g c =>
    exact State.fromNode_sound h fun p hp =>
      Part.sound_of_eq ((Part.emit_ledger ..).trans (Part.leaseSince_ledger p)) (Part.takeTrouble_sound a hp)
  | unclaimedLiftPour k d g => exact State.takeFrame_sound h fun p => Part.unclaimed_sound k d g
  | unclaimedAskStill k d g =>
    refine State.takeFrame_sound h fun p hp => ?_
    split <;> simp [hp]
  | unclaimedNodeset d g =>
    refine State.takeFrame_sound h fun p hp => ?_
    split <;> simp [hp]
  | ringFrameDropped a d k n => exact State.takeFrame_sound h fun p => Part.sound_of_eq (Part.raise_ledger _)
  | ringOutSend => exact State.act_sound h fun p => Part.sound_of_eq Part.sendRing_ledger
  | deckSend => exact State.act_sound h fun p => Part.sound_of_eq Part.sendDeck_ledger
  | stopInAssert => exact State.act_sound h fun p => Part.stopInLevel_sound true
  | stopInRelease => exact State.act_sound h fun p => Part.stopInLevel_sound false
  | powerOn => exact State.act_sound h fun p _ => Part.powerUp_sound
  | resetLineAssert => exact State.act_sound h fun p => Part.holdReset_sound
  | resetLineRelease => exact State.act_sound h fun p => Part.releaseReset_sound
  | resetAfterAck => exact State.due_sound h fun p => id
  | slipClockAdvance => exact State.endSecond_sound h fun p => Part.advance_sound
  | subTransactionTimeout a => exact State.due_sound h fun p => Part.nodeShare_sound a _
  | resendDue a => exact State.due_sound h fun p => Part.nodeShare_sound a _
  | deglitchExpiry q => exact State.due_sound h fun p => Part.pairShare_sound q
  | deferredEntryExpiry | creepTimerExpiry | leaseLimit | windowExpiry | commitWaitCancel | resumeBlankingEnd =>
    exact State.due_sound h fun p => Part.takeShare_sound _

/-- Every step keeps the ledger sound. -/
theorem step_sound {s t : State} (h : s.part.ledger.Sound 0 none) (e : step s = .next t) :
    t.part.ledger.Sound 0 none := by
  unfold step at e
  split at e
  · exact State.endSecond_sound h (fun p => id) e
  · next i rest _ => exact exec_sound i (s := { s with pending := rest }) h e

/-! ### The ledger and the laws -/

theorem Part.count_feed (p : Part) (f : FeedId) : p.subjects.count (.feed f) = (p.pours f).length := by
  rw [Part.subjects, Part.pours, List.count_eq_countP, List.countP_map, List.countP_eq_length_filter]
  rfl

theorem count_jack (l : List Subject) (j : JackId) : l.count (.jack j) = (l.filterMap Subject.jack?).count j := by
  induction l with
  | nil => rfl
  | cons x l ih =>
    cases x with
    | jack i => by_cases e : i = j <;> simp [Subject.jack?, e, ih]
    | feed f => rw [List.filterMap_cons_none rfl, ← ih]; simp

theorem Part.pours_ne_nil {p : Part} {f : FeedId} : p.pours f ≠ [] ↔ Subject.feed f ∈ p.ledger.subjects := by
  rw [Part.ledger_subjects, ← List.count_pos_iff, Part.count_feed, List.length_pos_iff]

/-- A sound ledger between two events keeps the laws of feed nodes and of round commands (R65, R85, R97). -/
theorem Part.laws_of_sound {p : Part} (h : p.ledger.Sound 0 none) : p.FeedLaw ∧ p.RoundLaw := by
  have round : p.mode.roundCommands = p.xt.table.countP (·.origin == .device) := by
    refine h.round.trans ?_
    rw [Part.ledger, List.countP_map]
    rfl
  refine ⟨fun f => ⟨?_, fun pours => ?_, fun here ready => ?_⟩, round, fun c m device => ?_⟩
  · rw [← Part.count_feed, ← Part.ledger_subjects]
    exact List.nodup_iff_count_le_one.1 h.distinct _
  · exact Part.pours_ne_nil.2 (h.pouring f pours)
  · nomatch h.busy f (Part.pours_ne_nil.1 here) ready
  · cases task : c.task with
    | lift j => exact ⟨j, rfl⟩
    | pour f k =>
      have none := Part.pour_origin h (Part.lists_of_mem m) task
      rw [device] at none
      nomatch none

/-- The laws make the ledger sound (R43, R65, R85, R97). -/
theorem Part.sound_of_laws {p : Part} (open_ : p.OpenLaw) (feed : p.FeedLaw) (round : p.RoundLaw) :
    p.ledger.Sound 0 none := by
  obtain ⟨-, lifted, apart⟩ := List.nodup_append.1 open_.2
  refine ⟨?_, fun j m here => ?_, fun f pours => ?_, fun f here ready => ?_, nofun, ?_, fun f m => ?_⟩
  · rw [Part.ledger_subjects, List.nodup_iff_count_le_one]
    intro x
    cases x with
    | jack j =>
      rw [count_jack, ← Part.lifted_eq]
      exact List.nodup_iff_count_le_one.1 lifted j
    | feed f => exact Part.count_feed p f ▸ (feed f).1
  · rw [Part.ledger_subjects] at here
    exact apart j m j (Part.mem_lifted.2 here) rfl
  · exact Part.pours_ne_nil.1 ((feed f).2.1 pours)
  · exact absurd ready ((feed f).2.2 (Part.pours_ne_nil.2 here))
  · refine round.1.trans ?_
    rw [Part.ledger, List.countP_map]
    rfl
  · obtain ⟨c, here, slip⟩ := List.mem_map.1 m
    obtain ⟨subject, origin⟩ := Prod.mk.inj slip
    obtain ⟨j, lifts⟩ := round.2 c here origin
    rw [Command.subject, lifts] at subject
    nomatch subject

/-- Settles O59: the queue, the table and the groups by what a Turn can do, feed nodes and round commands command by
command, in the ledger. -/
theorem stepKeepsAdmissionLaws : Obligations.StepKeepsAdmissionLaws := by
  unfold Obligations.StepKeepsAdmissionLaws
  intro s t deferred open_ group feed round e
  have admitted := (step_turn e).admitted (Part.admitted_iff.2 ⟨deferred, open_, group⟩)
  have sound := step_sound (Part.sound_of_laws open_ feed round) e
  obtain ⟨deferred', open', group'⟩ := Part.admitted_iff.1 admitted
  exact ⟨deferred', open', group', Part.laws_of_sound sound⟩

end Sys2Proof.Machine
end

section
/-! SUPPORT. What admission and creep leave of feed nodes, of the pairs, of the deferred queue and of the transaction
table: entries that stood before, and commands opened for them or for the creep round (R50, R54, R55, R62, R111). -/

namespace Sys2Proof.Machine

/-- A LIFT that a pass has opened: a creep round's stroke, or the LIFT of an entry (R50, R62). -/
def Command.DrawnFrom (l : List Entry) (c : Command) : Prop :=
  (∃ j, c.task = .lift j ∧ c.origin = .device ∧ c.asked = 1)
    ∨ ∃ e ∈ l, c.task = .lift e.jack ∧ c.origin = .deck e.tag ∧ c.asked = e.strokes

/-- What a pass leaves: feed nodes and pairs as they were, no new entry, and no command but those it opens. -/
structure Part.Passed (p q : Part) : Prop where
  feeds : q.feeds = p.feeds
  pairs : q.mon.pairs = p.mon.pairs
  queue : ∀ e ∈ q.adm.queue, ∃ d ∈ p.adm.queue, e = { d with reason := e.reason }
  table : ∀ c ∈ q.xt.table, c ∈ p.xt.table ∨ (c.phase = .sent ∧ c.DrawnFrom p.adm.queue)

theorem Command.DrawnFrom.mono {l m : List Entry} {c : Command} (h : c.DrawnFrom l)
    (from_ : ∀ e ∈ l, ∃ d ∈ m, e = { d with reason := e.reason }) : c.DrawnFrom m := by
  rcases h with h | ⟨e, here, task, origin, asked⟩
  · exact .inl h
  · obtain ⟨d, there, same⟩ := from_ e here
    rw [same] at task origin asked
    exact .inr ⟨d, there, task, origin, asked⟩

namespace Part.Passed

variable {p q r : Part}

theorem refl (p : Part) : p.Passed p := ⟨rfl, rfl, fun e m => ⟨e, m, rfl⟩, fun _ => .inl⟩

theorem trans (a : p.Passed q) (b : q.Passed r) : p.Passed r := by
  refine ⟨b.feeds.trans a.feeds, b.pairs.trans a.pairs, fun e m => ?_, fun c m => ?_⟩
  · obtain ⟨d, here, same⟩ := b.queue e m
    obtain ⟨f, there, before⟩ := a.queue d here
    exact ⟨f, there, by rw [same, before]⟩
  · rcases b.table c m with m | ⟨sent, drawn⟩
    · exact a.table c m
    · exact .inr ⟨sent, drawn.mono a.queue⟩

theorem foldl {α : Type} {f : Part → α → Part} (h : ∀ (p : Part) a, p.Passed (f p a)) (l : List α) (p : Part) :
    p.Passed (l.foldl f p) := by
  induction l generalizing p with
  | nil => exact refl p
  | cons a l ih => exact (h p a).trans (ih _)

/-- What leaves the queue and the table, the feed nodes and the pairs. -/
theorem same (feeds : q.feeds = p.feeds) (pairs : q.mon.pairs = p.mon.pairs) (queue : q.adm.queue = p.adm.queue)
    (table : q.xt.table = p.xt.table) : p.Passed q :=
  ⟨feeds, pairs, fun e m => ⟨e, queue ▸ m, rfl⟩, fun _ m => .inl (table ▸ m)⟩

theorem pair (h : p.Passed q) (x : Pair) : q.pair x = p.pair x := by rw [Part.pair, h.pairs]; rfl

theorem feed (h : p.Passed q) (f : FeedId) : q.feed f = p.feed f := by rw [Part.feed, h.feeds]; rfl

end Part.Passed

section
variable (p : Part)

theorem Part.emit_pairs (k : Kind) (s : Byte) (t : Tag) (l : List Byte) : (p.emit k s t l).mon.pairs = p.mon.pairs := by
  unfold Part.emit
  split <;> rfl

theorem Part.emit_passed (k : Kind) (s : Byte) (t : Tag) (l : List Byte) : p.Passed (p.emit k s t l) :=
  .same (by simp) (p.emit_pairs k s t l) (by simp) (by simp)

theorem Part.setMode_passed (m : ModeRecord) : p.Passed (p.setMode m) := .same rfl rfl rfl rfl

theorem Part.dropEntry_passed (j : JackId) : p.Passed (p.dropEntry j) :=
  ⟨rfl, rfl, fun e m => ⟨e, List.mem_of_mem_filter m, rfl⟩, fun _ => .inl⟩

theorem Part.refuseEntry_passed (r : Reason) (e : Entry) : p.Passed (p.refuseEntry r e) :=
  (p.dropEntry_passed e.jack).trans (Part.emit_passed _ _ _ _ _)

theorem Part.removeEntries_passed (which : Entry → Bool) (r : Reason) : p.Passed (p.removeEntries which r) :=
  .foldl (fun p e => p.refuseEntry_passed r e) _ p

/-- The table after a sub-transaction sent: the records of other subjects, and the command's own, in SENT (R69). -/
theorem Part.sendSub_table {c d : Command} (m : d ∈ (p.sendSub c).xt.table) :
    (d ∈ p.xt.table ∧ d.subject ≠ c.subject)
      ∨ (d.phase = .sent ∧ d.task = c.task ∧ d.origin = c.origin ∧ d.asked = c.asked) := by
  have table : (p.sendSub c).xt.table = p.xt.table.map fun e => if e.subject = c.subject then
      { c with tag := p.nextTag (p.addrOf c.subject), size := p.nextSize c, phase := .sent, sent := p.clock, retries := 0 }
      else e := by
    obtain ⟨task, _⟩ := c
    cases task <;> rfl
  rw [table] at m
  obtain ⟨e, here, rfl⟩ := List.mem_map.1 m
  split
  · exact .inr ⟨rfl, rfl, rfl, rfl⟩
  · next other => exact .inl ⟨here, other⟩

/-- The table after a command opened: what stood there, and the new command, in SENT (R68). -/
theorem Part.openCommand_table {task : Task} {o : Origin} {n : Nat} {c : Command}
    (m : c ∈ (p.openCommand task o n).xt.table) :
    c ∈ p.xt.table ∨ (c.phase = .sent ∧ c.task = task ∧ c.origin = o ∧ c.asked = n) := by
  refine (Part.sendSub_table _ m).imp (fun ⟨here, other⟩ => ?_) id
  refine (List.mem_append.1 here).resolve_right fun new => other ?_
  rw [List.mem_singleton.1 new]

/-- The table after a LIFT admitted (R50). -/
theorem Part.admitLift_table {j : JackId} {n : Nat} {o : Origin} {c : Command} (m : c ∈ (p.admitLift j n o).xt.table) :
    c ∈ p.xt.table ∨ (c.phase = .sent ∧ c.task = .lift j ∧ c.origin = o ∧ c.asked = n) :=
  Part.openCommand_table _ m

/-- An entry admitted. -/
theorem Part.promote_passed {e : Entry} (here : e ∈ p.adm.queue) :
    p.Passed ((p.dropEntry e.jack).admitLift e.jack e.strokes (.deck e.tag)) := by
  refine ⟨rfl, rfl, fun d m => ⟨d, List.mem_of_mem_filter m, rfl⟩, fun c m => ?_⟩
  rcases Part.admitLift_table _ m with m | ⟨sent, drawn⟩
  · exact .inl m
  · exact .inr ⟨sent, .inr ⟨e, here, drawn⟩⟩

theorem Part.issue_passed (j : JackId) : p.Passed (p.admitLift j 1 .device) := by
  refine ⟨rfl, rfl, fun d m => ⟨d, m, rfl⟩, fun c m => ?_⟩
  rcases Part.admitLift_table _ m with m | ⟨sent, drawn⟩
  · exact .inl m
  · exact .inr ⟨sent, .inl ⟨j, drawn⟩⟩

theorem Part.rehold_passed (e : Entry) (r : Reason) : p.Passed (p.rehold e r) := by
  unfold Part.rehold
  split
  · exact .refl p
  · have reasoned : p.Passed (p.setQueue (p.adm.queue.map fun d => if d.jack = e.jack then { d with reason := r } else d)) :=
      ⟨rfl, rfl, fun d m => ?_, fun _ => .inl⟩
    exact reasoned.trans (Part.emit_passed _ _ _ _ _)
    obtain ⟨f, here, rfl⟩ := List.mem_map.1 m
    refine ⟨f, here, ?_⟩
    split <;> rfl

theorem Part.examine_passed (b : Bool) (j : JackId) : p.Passed (p.examine b j) := by
  unfold Part.examine
  split
  · next e found =>
    have here := Part.entryOf_mem found
    unfold Part.examineEntry
    split
    · exact .refl p
    split
    · exact p.refuseEntry_passed _ _
    split
    · exact p.refuseEntry_passed _ _
    split
    · exact p.promote_passed here
    · exact p.rehold_passed _ _
  · exact .refl p

theorem Part.passWith_passed (b : Bool) : p.Passed (p.passWith b) := .foldl (fun p j => p.examine_passed b j) _ p

theorem Part.admPass_passed : p.Passed p.admPass := p.passWith_passed _

theorem Part.offer_passed (j : JackId) : p.Passed (p.offer j) := by
  unfold Part.offer
  split
  · exact ((p.issue_passed j).trans (Part.setMode_passed _ _)).trans (Part.setMode_passed _ _)
  · split
    · exact .refl p
    · exact p.setMode_passed _

theorem Part.endRoundTest_passed : p.Passed p.endRoundTest := by
  unfold Part.endRoundTest
  split
  · exact p.setMode_passed _
  · exact .refl p

theorem Part.dropStuck_passed : p.Passed p.dropStuck := by
  unfold Part.dropStuck
  split
  · exact p.setMode_passed _
  · exact .refl p

theorem Part.creepPassIfWaiting_passed : p.Passed p.creepPassIfWaiting := by
  unfold Part.creepPassIfWaiting
  split
  · exact .refl p
  · exact ((Part.Passed.foldl (fun p j => p.offer_passed j) _ p).trans (Part.dropStuck_passed _)).trans
      (Part.endRoundTest_passed _)

theorem Part.tellMode_passed (pre : Part) (j : JackId) : p.Passed (pre.tellMode p j) := by
  unfold Part.tellMode
  split
  · exact (p.setMode_passed _).trans (Part.endRoundTest_passed _)
  · exact .refl p

theorem Part.commitLayerReport_passed (pre : Part) (k : SectorId) : p.Passed (pre.commitLayerReport p k) := by
  unfold Part.commitLayerReport
  split
  · exact p.admPass_passed
  · exact .refl p

end

/-! ### The deferred queue -/

/-- Within an event but for a new LIFT the jacks of the entries are at most those that stood (R53). -/
theorem Quiet.waiting {p q : Part} (h : Quiet p q) : q.waiting.Sublist p.waiting := by
  induction h with
  | trans _ _ a b => exact b.trans a
  | queue p l sub => exact sub
  | promote p e n o _ _ => exact List.filter_sublist.map _
  | close p q c _ _ ih =>
    unfold Part.releaseOf
    split <;> exact ih
  | _ => exact .refl _

theorem Loud.waiting {p q : Part} (h : Loud p q) : q.waiting.Sublist p.waiting := by
  induction h with
  | quiet h => exact h.waiting
  | trans _ _ a b => exact b.trans a
  | stop p q r _ before _ after => exact after.waiting.trans before.waiting
  | sector p r q inner => exact inner.waiting
  | supOff p => exact .refl _

/-- No jack has two entries, and none gets a second one (R43, R53). -/
theorem Course.waiting_nodup {p q : Part} (h : Course p q) : p.waiting.Nodup → q.waiting.Nodup := by
  induction h with
  | loud h => exact fun n => h.waiting.nodup n
  | trans _ _ a b => exact b ∘ a
  | close p q c _ _ ih =>
    intro n
    have left : q.waiting.Nodup := ih n
    unfold Part.releaseOf
    split <;> exact left
  | defer p e _ _ _ fresh =>
    intro n
    rw [Part.waiting, Part.setQueue_adm, List.map_append, List.nodup_append]
    refine ⟨n, List.nodup_singleton _, fun a ha b hb same => ?_⟩
    rw [List.mem_singleton.1 hb] at same
    rw [same] at ha
    exact Part.entryOf_eq_none.1 fresh ha
  | pour p f k o n room =>
    intro once
    rw [Part.waiting, (p.openCommand_rest (.pour f k) o n).2.2]
    exact once
  | climb p q m _ _ inner _ => exact fun n => inner.waiting.nodup n
  | causes p q _ ih => exact ih
  | _ => exact id

/-- With one entry a jack, the entries left are those not meant (R57 to R60). -/
theorem Part.mem_removeEntries {p : Part} (once : p.waiting.Nodup) {which : Entry → Bool} {r : Reason} {e : Entry} :
    e ∈ (p.removeEntries which r).adm.queue ↔ e ∈ p.adm.queue ∧ which e = false := by
  rw [Part.removeEntries_queue, List.mem_filter, and_congr_right_iff]
  intro here
  simp only [List.all_eq_true, List.mem_filter, and_imp, decide_eq_true_eq]
  constructor
  · intro apart
    exact Bool.eq_false_iff.2 fun meant => apart e here meant rfl
  · intro spared d there meant same
    rw [List.inj_on_of_nodup_map once here there same, meant] at spared
    nomatch spared

/-- What has been told stays told (R175). -/
theorem Part.Tells.grows {p q : Part} {f : Frame} (h : p.Tells f) (grows : Grows p q) : q.Tells f := by
  rcases h with m | full
  · exact .inl (grows.front.subset m)
  · exact .inr (by rw [grows.full full]; exact full)

theorem Part.TellsRefused.grows {p q : Part} {e : Entry} {why : Byte} (h : p.TellsRefused e why) (grows : Grows p q) :
    q.TellsRefused e why :=
  h.imp fun _ tells => tells.grows grows

theorem Part.emit_tells (p : Part) (k : Kind) (s : Byte) (t : Tag) (l : List Byte) :
    (p.emit k s t l).Tells ⟨0, s, k, t, p.summary, l⟩ := by
  by_cases room : p.sendQueue.length < Config.maxSend
  · rw [p.emit_room room]
    exact .inl (by simp)
  · rw [p.emit_full room]
    exact .inr (by simpa using room)

/-- Every entry removed is answered (R57 to R60). -/
theorem Part.removeEntries_tells {p : Part} {which : Entry → Bool} (r : Reason) {e : Entry} (here : e ∈ p.adm.queue)
    (meant : which e = true) : (p.removeEntries which r).TellsRefused e r.code := by
  have told : ∀ (l : List Entry) (q : Part), e ∈ l → (l.foldl (Part.refuseEntry r) q).TellsRefused e r.code := by
    intro l
    induction l with
    | nil => exact fun _ m => nomatch m
    | cons d l ih =>
      intro q m
      rcases List.mem_cons.1 m with rfl | m
      · have first : (q.refuseEntry r e).TellsRefused e r.code := ⟨_, Part.emit_tells _ _ _ _ _⟩
        exact first.grows (Quiet.foldl (fun q d => q.refuseEntry_quiet r d) l _).grows
      · exact ih _ m
  exact told _ p (List.mem_filter.2 ⟨here, meant⟩)

/-! ### A pass leaves no reason COMMIT (R44, R55) -/

/-- With no commit pending no check fails by one (R44). -/
theorem Part.transientCheck_ne_commit {p : Part} (idle : p.commitPending = false) {j : JackId} {n : Nat} {r : Reason}
    (h : p.transientCheck j n = some r) : r ≠ .commit := by
  rintro rfl
  unfold Part.transientCheck at h
  rw [idle, if_neg Bool.false_ne_true] at h
  repeat' split at h
  all_goals nomatch h

/-- What an entry is judged by (log 7) is as it was where jacks, stops and configuration are. -/
theorem Part.entryStands_keeps {p q : Part} (h : Quiet.Keeps p q) (e : Entry) : q.entryStands e = p.entryStands e := by
  simp only [Part.entryStands, Part.jack, Part.sectorOf, Part.jackEntry, Part.bank, h.jacks, h.cfg, h.stopped]

/-- An entry that stands and has been examined with no commit pending does not wait for one. -/
theorem Part.examine_reason {p : Part} (idle : p.commitPending = false) (once : p.waiting.Nodup) (b : Bool)
    {j : JackId} (stands : ∀ e ∈ p.adm.queue, p.entryStands e = true) :
    ∀ e ∈ (p.examine b j).adm.queue, e.jack = j → e.reason ≠ .commit := by
  have dropped : ∀ d : Entry, ∀ e ∈ (p.dropEntry d.jack).adm.queue, e.jack ≠ d.jack := fun d e m => by
    simpa using (List.mem_filter.1 m).2
  have refused : ∀ (d : Entry) (r : Reason), ∀ e ∈ (p.refuseEntry r d).adm.queue, e.jack ≠ d.jack := fun d r e m => by
    refine dropped d e ?_
    simpa [Part.refuseEntry] using m
  intro e m at_
  unfold Part.examine at m
  split at m
  · next d found =>
    have same := Part.entryOf_jack found
    have gone : ¬ e.jack ≠ d.jack := fun h => h (at_.trans same.symm)
    unfold Part.examineEntry at m
    rw [stands d (Part.entryOf_mem found), Bool.not_true, if_neg Bool.false_ne_true] at m
    split at m
    · exact absurd (refused d _ e m) gone
    split at m
    · exact absurd (refused d _ e m) gone
    split at m
    · exact absurd (dropped d e m) gone
    · next r fails =>
      have other := Part.transientCheck_ne_commit idle fails
      unfold Part.rehold at m
      split at m
      · next kept =>
        rw [List.inj_on_of_nodup_map once m (Part.entryOf_mem found) (at_.trans same.symm), kept]
        exact other
      · simp only [Part.held_adm, Part.setQueue_adm, List.mem_map] at m
        obtain ⟨f, -, rfl⟩ := m
        split
        · exact other
        · next elsewhere =>
          rw [if_neg elsewhere, ← same] at at_
          exact absurd at_ elsewhere
  · next none => exact absurd (List.mem_map.2 ⟨e, m, at_⟩) (Part.entryOf_eq_none.1 none)

/-- An examination touches the entry of its jack alone. -/
theorem Part.examine_other {p : Part} {b : Bool} {j : JackId} {e : Entry} (away : e.jack ≠ j)
    (m : e ∈ (p.examine b j).adm.queue) : e ∈ p.adm.queue := by
  unfold Part.examine at m
  split at m
  · next d found =>
    unfold Part.examineEntry at m
    split at m
    · exact m
    split at m
    · rw [Part.refuseEntry, Part.refuse_adm] at m
      exact List.mem_of_mem_filter m
    split at m
    · rw [Part.refuseEntry, Part.refuse_adm] at m
      exact List.mem_of_mem_filter m
    split at m
    · exact List.mem_of_mem_filter m
    · unfold Part.rehold at m
      split at m
      · exact m
      · simp only [Part.held_adm, Part.setQueue_adm, List.mem_map] at m
        obtain ⟨f, here, rfl⟩ := m
        split
        · next there =>
          rw [if_pos there] at away
          exact absurd (there.trans (Part.entryOf_jack found)) away
        · exact here
  · exact m

/-- A pass, with no commit pending, over entries that all stand, leaves none with reason COMMIT (R44, R55). -/
theorem Part.passWith_reason {p : Part} (idle : p.commitPending = false) (once : p.waiting.Nodup) (b : Bool)
    (stands : ∀ e ∈ p.adm.queue, p.entryStands e = true) : ∀ e ∈ (p.passWith b).adm.queue, e.reason ≠ .commit := by
  have go : ∀ (l : List JackId) (q : Part), q.commitPending = false → q.waiting.Nodup →
      (∀ e ∈ q.adm.queue, q.entryStands e = true) → (∀ e ∈ q.adm.queue, e.reason ≠ .commit ∨ e.jack ∈ l) →
      ∀ e ∈ (l.foldl (Part.examine b) q).adm.queue, e.reason ≠ .commit := by
    intro l
    induction l with
    | nil => exact fun q _ _ _ left e m => (left e m).resolve_right List.not_mem_nil
    | cons j l ih =>
      intro q idle once stands left
      have quiet := q.examine_quiet b j
      have passed := q.examine_passed b j
      refine ih _ ?_ (quiet.waiting.nodup once) (fun e m => ?_) fun e m => ?_
      · rw [Part.commitPending, quiet.keeps.cfg]
        exact idle
      · obtain ⟨d, here, same⟩ := passed.queue e m
        rw [Part.entryStands_keeps quiet.keeps, same]
        exact stands d here
      · by_cases at_ : e.jack = j
        · exact .inl (Part.examine_reason idle once b stands e m at_)
        · refine (left e (Part.examine_other at_ m)).imp_right fun m => ?_
          exact (List.mem_cons.1 m).resolve_left at_
  exact go _ p idle once stands fun e m => .inr (List.mem_map.2 ⟨e, m, rfl⟩)

end Sys2Proof.Machine
end

section
/-! SUPPORT. What a commit makes of the jack table, the layer table and the deferred queue: exits and entries (R12),
the catch-up test (R13), retirement (R31) and the removals (R59, R60). -/

namespace Sys2Proof.Machine

/-! ### Exits and entries (R12) -/

/-- A jack that the commit disables (R12). -/
def Part.leaves (p : Part) (j : JackId) : Bool := p.cfg.active.jacks[j].enabled && !p.cfg.shadow.jacks[j].enabled

/-- The lowest ACTIVE position that the exits leave, where jacks enter (R12). -/
def Part.entryLow (p : Part) : Nat :=
  ((((List.finRange 96).filter fun i => (p.jack i).state == .active && !p.leaves i).map fun i =>
    (p.jack i).position).min?).getD 0

/-- A record x of a jack after entries at a position (R12). -/
def Part.joined (p : Part) (low : Nat) (j : JackId) (x : Jack) : Jack :=
  if p.cfg.active.jacks[j].enabled = false ∧ p.cfg.shadow.jacks[j].enabled = true then ⟨.active, low, 0, 1, 0, true⟩
  else if p.cfg.shadow.jacks[j].enabled = true ∧ p.cfg.active.jacks[j].node ≠ p.cfg.shadow.jacks[j].node then
    { x with depth := 1 }
  else x

/-- A jack that leaves does not enter. -/
theorem Part.joined_of_leaves {p : Part} {low : Nat} {j : JackId} {x : Jack} (gone : p.leaves j = true) :
    p.joined low j x = x := by
  obtain ⟨was, off⟩ : p.cfg.active.jacks[j].enabled = true ∧ p.cfg.shadow.jacks[j].enabled = false := by
    simpa only [Part.leaves, Bool.and_eq_true, Bool.not_eq_true'] using gone
  unfold Part.joined
  rw [was, off]
  rfl

/-- A jack's record after exits and entries (R12). -/
def Part.entered (p : Part) (j : JackId) : Jack :=
  if p.leaves j then { p.jack j with state := .absent }
  else if p.cfg.active.jacks[j].enabled = false ∧ p.cfg.shadow.jacks[j].enabled = true then
    ⟨.active, p.entryLow, 0, 1, 0, true⟩
  else if p.cfg.shadow.jacks[j].enabled = true ∧ p.cfg.active.jacks[j].node ≠ p.cfg.shadow.jacks[j].node then
    { p.jack j with depth := 1 }
  else p.jack j

/-- A fold that changes jack by jack. -/
theorem foldl_jack {f : Part → JackId → Part} {g : JackId → Jack → Jack}
    (each : ∀ q j i, (f q j).jack i = if i = j then g i (q.jack i) else q.jack i) (p : Part) (i : JackId) :
    (jackIds.foldl f p).jack i = g i (p.jack i) := by
  have go : ∀ (l : List JackId) (q : Part), l.Nodup →
      (l.foldl f q).jack i = if i ∈ l then g i (q.jack i) else q.jack i := by
    intro l
    induction l with
    | nil => exact fun _ _ => rfl
    | cons j l ih =>
      intro q once
      obtain ⟨out, once⟩ := List.nodup_cons.1 once
      rw [List.foldl_cons, ih _ once, each]
      by_cases here : i = j
      · subst here
        simp [out]
      · simp [here]
  rw [go jackIds p (List.nodup_finRange 96), if_pos (mem_jackIds i)]

theorem exitJacks_jack (p : Part) (q : Part) (j i : JackId) :
    (exitJacks p.cfg.active.jacks p.cfg.shadow.jacks q j).jack i
      = if i = j then (if p.leaves i then { q.jack i with state := .absent } else q.jack i) else q.jack i := by
  unfold exitJacks
  by_cases here : i = j
  · subst here
    rw [if_pos rfl, apply_ite (Part.jack · i), Part.jack_setJack]
    rfl
  · rw [if_neg here]
    split
    · exact q.jack_setJack_ne _ here
    · rfl

theorem enterJacks_jack (p : Part) (low : Nat) (q : Part) (j i : JackId) :
    (enterJacks p.cfg.active.jacks p.cfg.shadow.jacks low q j).jack i
      = if i = j then p.joined low i (q.jack i) else q.jack i := by
  unfold enterJacks
  by_cases here : i = j
  · subst here
    simp only [Bool.and_eq_true, Bool.not_eq_true', bne_iff_ne, if_true, apply_ite (Part.jack · i), Part.jack_setJack,
      Jack.setRod, Nat.zero_le, decide_true, Part.joined]
  · rw [if_neg here]
    split
    · exact q.jack_setJack_ne _ here
    split
    · exact q.jack_setJack_ne _ here
    · rfl

/-- The jack table after exits and entries, in a part with p's jacks and p's shadow in force (R12). -/
theorem Part.jackTransitions_jack {p q : Part} (jacks : q.jacks = p.jacks) (bank : q.bank = p.cfg.shadow) (i : JackId) :
    (q.jackTransitions p.cfg.active).jack i = p.entered i := by
  have start : ∀ i, q.jack i = p.jack i := fun i => by simp only [Part.jack, jacks]
  have exits : ∀ i, (jackIds.foldl (exitJacks p.cfg.active.jacks q.bank.jacks) q).jack i
      = if p.leaves i then { p.jack i with state := .absent } else p.jack i := fun i => by
    rw [bank, foldl_jack (g := fun i x => if p.leaves i then { x with state := .absent } else x) (exitJacks_jack p), start]
  have low : (jackIds.foldl (exitJacks p.cfg.active.jacks q.bank.jacks) q).lowestActive.getD 0 = p.entryLow := by
    unfold Part.lowestActive Part.activePositions Part.entryLow Part.isActive
    simp only [exits]
    have still : ∀ i : JackId, ((if p.leaves i then { p.jack i with state := .absent } else p.jack i : Jack).state == .active)
        = ((p.jack i).state == .active && !p.leaves i) := fun i => by
      cases p.leaves i <;> simp
    have place : ∀ i : JackId, (if p.leaves i then { p.jack i with state := .absent } else p.jack i : Jack).position
        = (p.jack i).position := fun i => by split <;> rfl
    simp only [still, place, jackIds]
  unfold Part.jackTransitions
  dsimp only
  rw [low, bank, foldl_jack (enterJacks_jack p _), ← bank, exits]
  unfold Part.entered
  by_cases gone : p.leaves i = true
  · rw [if_pos gone, if_pos gone, Part.joined_of_leaves gone]
  · rw [if_neg gone, if_neg gone, Part.joined]

/-! ### The catch-up test (R13) -/

theorem Part.passesCatchup_iff (p : Part) (j : JackId) : p.passesCatchup p.highestActive j = true
    ↔ ∀ k, (p.jack k).state = .active → (p.jack k).position ≤ (p.jack j).position + p.bank.spreadAdmit := by
  unfold Part.passesCatchup
  have active : ∀ n, n ∈ p.activePositions ↔ ∃ k, (p.jack k).state = .active ∧ (p.jack k).position = n := by
    intro n
    simp [Part.activePositions, Part.isActive, mem_jackIds]
  cases high : p.highestActive with
  | none =>
    have none := List.max?_eq_none_iff.1 high
    refine iff_of_true rfl fun k here => ?_
    have := (active _).2 ⟨k, here, rfl⟩
    rw [none] at this
    nomatch this
  | some h =>
    rw [decide_eq_true_iff, List.max?_le_iff high]
    exact ⟨fun all k here => all _ ((active _).2 ⟨k, here, rfl⟩), fun all n m => by
      obtain ⟨k, here, same⟩ := (active n).1 m
      exact same ▸ all k here⟩

/-- The catch-up test on the records y (R13). -/
theorem Part.catchUp_caughtUp {p : Part} {y : JackId → Jack} (jacks : ∀ i, p.jack i = y i) :
    CaughtUp p.bank.spreadAdmit y p.catchUp := by
  intro i
  simp only [p.catchUp_jack, p.passesCatchup_iff, jacks]

theorem CaughtUp.congr {limit : Nat} {y : JackId → Jack} {p q : Part} (h : CaughtUp limit y p) (jacks : q.jacks = p.jacks) :
    CaughtUp limit y q := by
  intro i
  rw [Part.jack, jacks]
  exact h i

/-! ### Retirement (R31) -/

/-- At its own floor nothing of a lawful sector retires (R24, R31). -/
theorem Sector.retire_floor {x : Sector} (h : x.Lawful) : x.retire x.floor = x := by
  obtain ⟨floor, layers⟩ := x
  cases layers with
  | nil => simp [Sector.retire]
  | cons l rest =>
    obtain ⟨-, base, pos, -, -⟩ := h
    have above : ¬ l.top ≤ floor := by
      simp only [Layer.top]
      have : l.base = floor := base
      omega
    simp [Sector.retire, above]

/-- Retirement moves no bottom: it is that of the jacks, or else of a floor that retirement finds where it is (R4). -/
theorem Part.sectorBottom_of_retired {p q : Part} {before : Nat} {k : SectorId} (jacks : q.jacks = p.jacks)
    (cfg : q.cfg = p.cfg) (sector : q.sector k = p.retired before k) (lawful : (p.sector k).Lawful) :
    q.sectorBottom k = p.sectorBottom k := by
  have height : q.height = p.height := by
    funext j
    simp only [Part.height, Part.bank, Part.jack, jacks, cfg]
  have floor : ((((jackIds.filter fun j => p.sectorOf j == k && (p.jack j).state.inBottom).map p.height).min?) = none →
      (q.sector k).floor = (p.sector k).floor) := by
    intro none
    have bottom : p.sectorBottom k = (p.sector k).floor := by rw [Part.sectorBottom, none]; rfl
    rw [sector, Part.retired, bottom, Sector.retire_floor lawful, ite_self]
  simp only [Part.sectorBottom, Part.sectorOf, Part.jackEntry, Part.bank, Part.jack, jacks, cfg, height] at floor ⊢
  cases least : ((jackIds.filter fun j => (p.cfg.active.jacks[j]).sector == k && (p.jacks[j]).state.inBottom).map
      p.height).min? with
  | none => exact floor least
  | some n => rfl

/-- The layer table after retirement in every sector. -/
theorem Part.retires_sector (pre p : Part) (k : SectorId) :
    (sectorIds.foldl (fun q k => q.retireFrom (pre.sectorBottom k) k) p).sector k = p.retired (pre.sectorBottom k) k := by
  have go : ∀ (l : List SectorId) (q : Part), l.Nodup →
      (l.foldl (fun q k => q.retireFrom (pre.sectorBottom k) k) q).sector k
        = if k ∈ l then q.retired (pre.sectorBottom k) k else q.sector k := by
    intro l
    induction l with
    | nil => exact fun _ _ => rfl
    | cons i l ih =>
      intro q once
      obtain ⟨out, once⟩ := List.nodup_cons.1 once
      have jacks := q.retireFrom_jacks (pre.sectorBottom i) i
      have cfg := (q.retireFrom_course (pre.sectorBottom i) i).keeps.cfg
      have sector := q.retireFrom_sector (pre.sectorBottom i) i k
      rw [List.foldl_cons, ih _ once]
      by_cases here : k = i
      · subst here
        simp [out, sector]
      · rw [if_neg here] at sector
        simp only [List.mem_cons, here, false_or, Part.retired, Part.sectorBottom_congr jacks cfg sector, sector]
  rw [go sectorIds p (List.nodup_finRange 24), if_pos (mem_sectorIds k)]

/-- A part that stands where retirement has left it (R31, R32). -/
theorem Part.layersRetired {pre p q : Part} (same : p.sectors = pre.sectors) (lawful : pre.LayerLaw)
    (jacks : q.jacks = p.jacks) (cfg : q.cfg = p.cfg)
    (sector : ∀ k, q.sector k = p.retired (pre.sectorBottom k) k) : pre.LayersRetired q := by
  intro k
  have was : p.sector k = pre.sector k := by simp only [Part.sector, same]
  rw [Part.sectorBottom_of_retired jacks cfg (sector k) (was ▸ lawful k), ← was]
  exact sector k

/-! ### The removals (R59, R60) -/

/-- The reason with which the commit removes an entry, if it does (R59, R60). -/
def Part.removal (p : Part) (e : Entry) : Option Byte :=
  if (p.entered e.jack).state ≠ .active ∧ (p.entered e.jack).state ≠ .catchup then some 5
  else if p.cfg.shadow.jacks[e.jack].node.val ≠ e.node.toNat then some 2
  else if p.sectorStopped p.cfg.shadow.jacks[e.jack].sector then some 6
  else none

/-- What removals leave: every entry that still stands, and all else that the three tests read (R59, R60, log 7). -/
theorem Part.mem_commitRemovals {p : Part} (once : p.waiting.Nodup) {e : Entry} :
    e ∈ p.commitRemovals.adm.queue ↔ e ∈ p.adm.queue ∧ p.entryStands e = true := by
  unfold Part.commitRemovals
  dsimp only
  generalize first : p.removeEntries (fun e => !(p.jack e.jack).state.climbs) .jackState = q
  have quiet : Quiet p q := first ▸ p.removeEntries_quiet _ _
  generalize second : q.removeEntries (fun e => (q.jackEntry e.jack).node.val != e.node.toNat) .noNode = r
  have quiet' : Quiet q r := second ▸ q.removeEntries_quiet _ _
  have once' := quiet.waiting.nodup once
  rw [Part.mem_removeEntries (quiet'.waiting.nodup once'), ← second, Part.mem_removeEntries once', second, ← first,
    Part.mem_removeEntries once, first]
  have kept := quiet.keeps.trans quiet'.keeps
  simp only [Part.entryStands, Part.sectorOf, Part.jackEntry, Part.bank, kept.cfg, quiet.keeps.cfg, kept.stopped,
    Bool.and_eq_true, Bool.not_eq_true', Bool.not_eq_false', bne_eq_false_iff_eq, beq_iff_eq]
  tauto

/-- Each entry removed is answered with the reason of the first test it fails (R59, R60). -/
theorem Part.commitRemovals_tells {p : Part} (once : p.waiting.Nodup) {e : Entry} (here : e ∈ p.adm.queue) :
    ((p.jack e.jack).state.climbs = false → p.commitRemovals.TellsRefused e 5)
    ∧ ((p.jack e.jack).state.climbs = true → (p.jackEntry e.jack).node.val ≠ e.node.toNat →
      p.commitRemovals.TellsRefused e 2)
    ∧ ((p.jack e.jack).state.climbs = true → (p.jackEntry e.jack).node.val = e.node.toNat →
      p.sectorStopped (p.sectorOf e.jack) = true → p.commitRemovals.TellsRefused e 6) := by
  unfold Part.commitRemovals
  dsimp only
  generalize first : p.removeEntries (fun e => !(p.jack e.jack).state.climbs) .jackState = q
  have quiet : Quiet p q := first ▸ p.removeEntries_quiet _ _
  generalize second : q.removeEntries (fun e => (q.jackEntry e.jack).node.val != e.node.toNat) .noNode = r
  have quiet' : Quiet q r := second ▸ q.removeEntries_quiet _ _
  have last := r.removeEntries_quiet (fun e => r.sectorStopped (r.sectorOf e.jack)) .sectorStopped
  have once' := quiet.waiting.nodup once
  have kept := quiet.keeps.trans quiet'.keeps
  have entry : q.jackEntry e.jack = p.jackEntry e.jack := by simp only [Part.jackEntry, Part.bank, quiet.keeps.cfg]
  have left : (p.jack e.jack).state.climbs = true → e ∈ q.adm.queue := fun climbs =>
    first ▸ (Part.mem_removeEntries once).2 ⟨here, by simp [climbs]⟩
  refine ⟨fun rests => ?_, fun climbs moved => ?_, fun climbs there stopped => ?_⟩
  · have told := first ▸ Part.removeEntries_tells .jackState here (which := fun e => !(p.jack e.jack).state.climbs)
      (by simp [rests])
    exact told.grows (quiet'.trans last).grows
  · have told := second ▸ Part.removeEntries_tells .noNode (left climbs)
      (which := fun e => (q.jackEntry e.jack).node.val != e.node.toNat) (by simpa [entry] using moved)
    exact told.grows last.grows
  · have stays : e ∈ r.adm.queue :=
      second ▸ (Part.mem_removeEntries once').2 ⟨left climbs, by simpa [entry] using there⟩
    refine Part.removeEntries_tells .sectorStopped stays ?_
    simpa only [Part.sectorOf, Part.jackEntry, Part.bank, kept.cfg, kept.stopped] using stopped

end Sys2Proof.Machine
end

section
/-! SUPPORT. What an assertion does, pair by pair (R125 to R129), and what the tests of an event do where every open
command is in SENT, so that none closes at a stop (R78, R79): each touches its own pair, ending reasons and entries. -/

namespace Sys2Proof.Machine

/-! ### One pair -/

section
variable (p : Part)

theorem Part.pair_setPair_eq (q x : Pair) (r : PairRecord) : (p.setPair q r).pair x = if x = q then r else p.pair x := by
  by_cases here : x = q
  · subst here
    simp
  · rw [p.pair_setPair_ne r here, if_neg here]

/-- The log is no pair's. -/
theorem Part.logAssertion_only (q : Pair) (m : CondMode) (d : Option JackId) :
    p.logAssertion q m d = { p with mon := (p.logAssertion q m d).mon }
      ∧ (p.logAssertion q m d).mon.pairs = p.mon.pairs ∧ (p.logAssertion q m d).mon.blanking = p.mon.blanking
      ∧ (p.logAssertion q m d).mon.alert = p.mon.alert := by
  unfold Part.logAssertion
  split
  · exact ⟨rfl, rfl, rfl, rfl⟩
  · split <;> exact ⟨rfl, rfl, rfl, rfl⟩

theorem Part.pair_of_pairs {p t : Part} (h : t.mon.pairs = p.mon.pairs) (x : Pair) : t.pair x = p.pair x := by
  rw [Part.pair, h]
  rfl

/-- What MON notes of an assertion: its pair PRESENT and in the cause set of its mode; nothing beyond MON (R127). -/
theorem Part.noteAssertion_only (q : Pair) (d : Option JackId) :
    p.noteAssertion q d = { p with mon := (p.noteAssertion q d).mon }
      ∧ (p.noteAssertion q d).mon.blanking = p.mon.blanking ∧ (p.noteAssertion q d).mon.alert = p.mon.alert := by
  unfold Part.noteAssertion
  dsimp only
  obtain ⟨only, -, blanking, alert⟩ := (p.setPairState q (.present (p.bank.condMode q))).logAssertion_only q (p.bank.condMode q) d
  generalize Part.logAssertion q (p.bank.condMode q) d (p.setPairState q (.present (p.bank.condMode q))) = r at *
  split
  · exact ⟨rfl, rfl, rfl⟩
  all_goals exact ⟨by rw [only]; rfl, blanking, alert⟩

theorem Part.noteAssertion_pair (q : Pair) (d : Option JackId) (x : Pair) : (p.noteAssertion q d).pair x =
    if x = q then ⟨.present (p.bank.condMode q), (p.pair q).stopsSector || p.bank.condMode q == .sector,
      (p.pair q).stopsRing || p.bank.condMode q == .ring⟩
    else p.pair x := by
  have set : (p.setPairState q (.present (p.bank.condMode q))).pair x
      = if x = q then { p.pair q with state := .present (p.bank.condMode q) } else p.pair x :=
    p.pair_setPair_eq q x _
  have log := (Part.pair_of_pairs
    ((p.setPairState q (.present (p.bank.condMode q))).logAssertion_only q (p.bank.condMode q) d).2.1 x).trans set
  unfold Part.noteAssertion
  dsimp only
  generalize Part.logAssertion q (p.bank.condMode q) d (p.setPairState q (.present (p.bank.condMode q))) = r at log
  generalize p.bank.condMode q = m at *
  by_cases here : x = q
  · subst here
    rw [if_pos rfl] at log set ⊢
    cases m with
    | ignore => exact set.trans (by simp)
    | warn => exact log.trans (by simp)
    | sector => exact (r.pair_setPair x _).trans (by simp [log])
    | ring => exact (r.pair_setPair x _).trans (by simp [log])
  · rw [if_neg here] at log set ⊢
    cases m with
    | ignore => exact set
    | warn => exact log
    | sector => exact (r.pair_setPair_ne _ here).trans log
    | ring => exact (r.pair_setPair_ne _ here).trans log

theorem Part.cease_pair (q x : Pair) :
    (p.cease q).pair x = if x = q then { p.pair q with state := .notPresent } else p.pair x :=
  p.pair_setPair_eq q x _

/-- The state of a pair that follows its input (R125). -/
def PairState.followed (now : Clock) (input : Bool) (x : PairState) : PairState :=
  if input then (match x with
    | .notPresent => .pending now
    | .pending t => .pending t
    | .present m => .present m)
  else .notPresent

theorem Part.follow_only (q : Pair) (b : Bool) : p.follow q b = { p with mon := (p.follow q b).mon }
    ∧ (p.follow q b).mon.blanking = p.mon.blanking ∧ (p.follow q b).mon.alert = p.mon.alert := by
  unfold Part.follow
  split
  · split <;> exact ⟨rfl, rfl, rfl⟩
  all_goals split <;> exact ⟨rfl, rfl, rfl⟩

theorem Part.follow_pair (q : Pair) (b : Bool) (x : Pair) : (p.follow q b).pair x =
    if x = q then { p.pair q with state := (p.pair q).state.followed p.clock b } else p.pair x := by
  unfold Part.follow
  have same : ∀ s, (p.pair q).state = s → (p.pair x) = if x = q then { p.pair q with state := s } else p.pair x := by
    rintro s rfl
    split
    · next h => rw [h]
    · rfl
  split
  · next h =>
    cases b with
    | true =>
      rw [if_pos rfl, h]
      exact p.pair_setPair_eq q x _
    | false =>
      rw [if_neg Bool.false_ne_true, h]
      exact same _ h
  all_goals
    next h =>
    cases b with
    | true =>
      rw [if_pos rfl, h]
      exact same _ h
    | false =>
      rw [if_neg Bool.false_ne_true]
      exact p.cease_pair q x

end

/-! ### Tests -/

/-- Every open command is in SENT, so that no stop closes one (R79). -/
def Part.AllSent (p : Part) : Prop := ∀ c ∈ p.xt.table, c.phase = .sent

/-- What tests and stops leave where every open command is in SENT: what tests read of the deck; entries and causes of
stops are at most taken away and added, and commands take ending reasons. -/
structure Part.Trims (p t : Part) : Prop where
  jacks : t.jacks = p.jacks
  sectors : t.sectors = p.sectors
  cfg : t.cfg = p.cfg
  clock : t.clock = p.clock
  feeds : t.feeds = p.feeds
  queue : ∀ e ∈ t.adm.queue, e ∈ p.adm.queue
  table : ∀ c ∈ t.xt.table, ∃ d ∈ p.xt.table, c = { d with ending := c.ending }
  sector : ∀ x, (p.pair x).stopsSector = true → (t.pair x).stopsSector = true
  ring : ∀ x, (p.pair x).stopsRing = true → (t.pair x).stopsRing = true

/-- Tests leave the climb mode, supervision and blanking as well. -/
structure Part.Judged (p t : Part) : Prop extends p.Trims t where
  mode : t.mode = p.mode
  sup : t.sup = p.sup
  stopOut : t.stopOut = p.stopOut
  blanking : t.mon.blanking = p.mon.blanking

namespace Part.Trims

variable {p q r t : Part}

/-- What leaves the deck, the queue and the table, and the causes of stops. -/
theorem same (jacks : t.jacks = p.jacks) (sectors : t.sectors = p.sectors) (cfg : t.cfg = p.cfg)
    (clock : t.clock = p.clock) (feeds : t.feeds = p.feeds) (adm : t.adm = p.adm) (xt : t.xt = p.xt)
    (stops : ∀ x, (t.pair x).stopsSector = (p.pair x).stopsSector ∧ (t.pair x).stopsRing = (p.pair x).stopsRing) :
    p.Trims t :=
  ⟨jacks, sectors, cfg, clock, feeds, fun _ m => adm ▸ m, fun c m => ⟨c, xt ▸ m, rfl⟩,
    fun x h => (stops x).1.trans h, fun x h => (stops x).2.trans h⟩

theorem trans (a : p.Trims q) (b : q.Trims r) : p.Trims r := by
  refine ⟨b.jacks.trans a.jacks, b.sectors.trans a.sectors, b.cfg.trans a.cfg, b.clock.trans a.clock,
    b.feeds.trans a.feeds, fun e m => a.queue e (b.queue e m), fun c m => ?_,
    fun x h => b.sector x (a.sector x h), fun x h => b.ring x (a.ring x h)⟩
  obtain ⟨d, here, same⟩ := b.table c m
  obtain ⟨e, there, before⟩ := a.table d here
  exact ⟨e, there, by rw [same, before]⟩

theorem allSent (h : p.Trims t) (sent : p.AllSent) : t.AllSent := fun c m => by
  obtain ⟨d, here, same⟩ := h.table c m
  rw [same]
  exact sent d here

end Part.Trims

namespace Part.Judged

variable {p q r t : Part}

theorem refl (p : Part) : p.Judged p := ⟨.same rfl rfl rfl rfl rfl rfl rfl fun _ => ⟨rfl, rfl⟩, rfl, rfl, rfl, rfl⟩

theorem trans (a : p.Judged q) (b : q.Judged r) : p.Judged r :=
  ⟨a.toTrims.trans b.toTrims, b.mode.trans a.mode, b.sup.trans a.sup, b.stopOut.trans a.stopOut,
    b.blanking.trans a.blanking⟩

/-- What changes MON alone. -/
theorem ofMon (only : t = { p with mon := t.mon }) (blanking : t.mon.blanking = p.mon.blanking)
    (sector : ∀ x, (p.pair x).stopsSector = true → (t.pair x).stopsSector = true)
    (ring : ∀ x, (p.pair x).stopsRing = true → (t.pair x).stopsRing = true) : p.Judged t := by
  refine ⟨⟨?_, ?_, ?_, ?_, ?_, fun e m => ?_, fun c m => ⟨c, ?_, rfl⟩, sector, ring⟩, ?_, ?_, ?_, blanking⟩
  case refine_6 => rwa [only] at m
  case refine_7 => rwa [only] at m
  all_goals rw [only]

end Part.Judged

/-- A test of one pair: the others stay. -/
structure Part.Touches (q : Pair) (p t : Part) : Prop where
  judged : p.Judged t
  others : ∀ x, x ≠ q → t.pair x = p.pair x

section
variable {p : Part}

theorem Part.Touches.refl (q : Pair) (p : Part) : p.Touches q p := ⟨.refl p, fun _ _ => rfl⟩

theorem Part.follow_touches (q : Pair) (b : Bool) : p.Touches q (p.follow q b) := by
  obtain ⟨only, blanking, -⟩ := p.follow_only q b
  have pair := p.follow_pair q b
  refine ⟨.ofMon only blanking (fun x h => ?_) fun x h => ?_, fun x away => by rw [pair, if_neg away]⟩
  all_goals
    rw [pair]
    split
    · next here => subst here; exact h
    · exact h

theorem Part.noteAssertion_touches (q : Pair) (d : Option JackId) : p.Touches q (p.noteAssertion q d) := by
  obtain ⟨only, blanking, -⟩ := p.noteAssertion_only q d
  have pair := p.noteAssertion_pair q d
  refine ⟨.ofMon only blanking (fun x h => ?_) fun x h => ?_, fun x away => by rw [pair, if_neg away]⟩
  all_goals
    rw [pair]
    split
    · next here => subst here; simp [h]
    · exact h

/-- No command in SENT closes at a stop (R79). -/
theorem Part.AllSent.closeStopped (h : p.AllSent) (x : Subject) : p.closeStopped x = p := by
  unfold Part.closeStopped
  split
  · next c found =>
    rw [h c (List.mem_of_find?_eq_some found)]
  · rfl

theorem Part.AllSent.closeStoppeds (h : p.AllSent) (l : List Subject) :
    l.foldl (fun p x => p.closeStopped x) p = p := by
  induction l with
  | nil => rfl
  | cons x l ih => rw [List.foldl_cons, h.closeStopped, ih]

theorem Part.AllSent.markAll (h : p.AllSent) (e : Ending) (which : Command → Bool) : (p.markAll e which).AllSent := by
  intro c m
  obtain ⟨d, here, rfl⟩ := List.mem_map.1 m
  split
  · exact h d here
  · exact h d here

theorem Part.markAll_judged (e : Ending) (which : Command → Bool) : p.Judged (p.markAll e which) := by
  refine ⟨⟨rfl, rfl, rfl, rfl, rfl, fun _ => id, fun c m => ?_, fun _ => id, fun _ => id⟩, rfl, rfl, rfl, rfl⟩
  obtain ⟨d, here, rfl⟩ := List.mem_map.1 m
  refine ⟨d, here, ?_⟩
  split <;> rfl

theorem Part.ringOut_judged (b : Bool) (k : Kind) (d : Byte) (t : Tag) (l : List Byte) : p.Judged (p.ringOut b k d t l) :=
  ⟨.same rfl rfl rfl rfl rfl rfl rfl fun _ => ⟨rfl, rfl⟩, rfl, rfl, rfl, rfl⟩

theorem Part.stillNode_judged (c : Command) : p.Judged (p.stillNode c) := p.ringOut_judged _ _ _ _ _

theorem Part.refuseEntry_judged (r : Reason) (e : Entry) : p.Judged (p.refuseEntry r e) := by
  have passed := p.refuseEntry_passed r e
  have pair := passed.pair
  have quiet := (p.refuseEntry_quiet r e).keeps
  refine ⟨⟨quiet.jacks, quiet.sectors, quiet.cfg, quiet.clock, passed.feeds, fun d m => ?_, fun c m => ⟨c, ?_, rfl⟩,
    fun x h => by rwa [pair], fun x h => by rwa [pair]⟩, ?_, quiet.sup, quiet.stopOut, quiet.blanking⟩
  · rw [Part.refuseEntry, Part.refuse_adm] at m
    exact List.mem_of_mem_filter m
  · rwa [Part.refuseEntry, Part.refuse_xt] at m
  · rw [Part.refuseEntry, Part.refuse_mode]
    rfl

theorem Part.judged_foldl {α : Type} {f : Part → α → Part} (h : ∀ (p : Part) a, p.Judged (f p a)) (l : List α)
    (p : Part) : p.Judged (l.foldl f p) := by
  induction l generalizing p with
  | nil => exact .refl p
  | cons a l ih => exact (h p a).trans (ih _)

theorem Part.removeEntries_judged (which : Entry → Bool) (r : Reason) : p.Judged (p.removeEntries which r) :=
  Part.judged_foldl (fun p e => p.refuseEntry_judged r e) _ p

theorem Part.updateAlert_judged : p.Judged p.updateAlert :=
  ⟨.same rfl rfl rfl rfl rfl rfl rfl fun _ => ⟨rfl, rfl⟩, rfl, rfl, rfl, rfl⟩

/-- A sector stop that closes no command: ending reasons, STILLs, the removals, ALERT (R128). -/
theorem Part.AllSent.stopSector (h : p.AllSent) (k : SectorId) :
    p.Judged (p.stopSector k) ∧ ∀ x, (p.stopSector k).pair x = p.pair x := by
  unfold Part.stopSector
  dsimp only
  have marked := p.markAll_judged .sectorStopped (p.liftsIn k)
  generalize mark : p.markAll .sectorStopped (p.liftsIn k) = q at *
  have pairs : q.mon.pairs = p.mon.pairs := by rw [← mark]; rfl
  have stilled := Part.judged_foldl (fun p c => p.stillNode_judged c) (p.xt.table.filter (p.liftsIn k)) q
  have still : ((p.xt.table.filter (p.liftsIn k)).foldl Part.stillNode q).mon.pairs = q.mon.pairs :=
    foldl_law (f := Part.stillNode) (P := fun r : Part => r.mon.pairs = q.mon.pairs) (fun _ _ h => h) _ q rfl
  generalize (p.xt.table.filter (p.liftsIn k)).foldl Part.stillNode q = r at *
  rw [(stilled.allSent (marked.allSent h)).closeStoppeds]
  refine ⟨((marked.trans stilled).trans (Part.removeEntries_judged _ _)).trans Part.updateAlert_judged, fun x => ?_⟩
  have removed := (r.removeEntries_passed (fun e => r.sectorOf e.jack == k) .sectorStopped).pairs
  exact Part.pair_of_pairs (removed.trans (still.trans pairs)) x

/-- An assertion, with its sector stop (R127, R128). -/
theorem Part.AllSent.assertHere (h : p.AllSent) (q : Pair) (d : Option JackId) :
    p.Touches q (p.assertHere q d) ∧ (p.assertHere q d).pair q = (p.noteAssertion q d).pair q := by
  have noted := p.noteAssertion_touches q d
  unfold Part.assertHere
  split
  · next k _ _ =>
    split
    · exact ⟨noted, rfl⟩
    · obtain ⟨stopped, pair⟩ := (noted.judged.allSent h).stopSector k
      exact ⟨⟨noted.judged.trans stopped, fun x away => (pair x).trans (noted.others x away)⟩, pair q⟩
  · exact ⟨noted, rfl⟩

theorem Part.AllSent.assertHere_state (h : p.AllSent) (q : Pair) (d : Option JackId) :
    ((p.assertHere q d).pair q).state = .present (p.bank.condMode q) := by
  rw [(h.assertHere q d).2, p.noteAssertion_pair, if_pos rfl]

/-- A pair's input taken (R125). -/
theorem Part.AllSent.judging (h : p.AllSent) (q : Pair) (input : Part → Bool) :
    p.Touches q (judging q input p).1
      ∧ (((judging q input p).1.pair q).state
        = if p.assertsNow q (input p) then .present (p.bank.condMode q)
          else (p.pair q).state.followed p.clock (input p)) := by
  unfold Machine.judging
  split
  · exact ⟨(h.assertHere q none).1, h.assertHere_state q none⟩
  · exact ⟨p.follow_touches q _, by rw [p.follow_pair, if_pos rfl]⟩

/-- A pair asserted anew where its mode is no longer its applied mode (R130). -/
theorem Part.AllSent.reasserting (h : p.AllSent) (q : Pair) :
    p.Touches q (reasserting q p).1
      ∧ (∀ m, (p.pair q).state = .present m →
        ((reasserting q p).1.pair q).state = .present (reapplied (p.bank.condMode q) m))
      ∧ ((p.pair q).state.isPresent = false → (reasserting q p).1 = p) := by
  have outmoded : ∀ m, (p.pair q).state = .present m →
      p.outmoded q = (p.bank.condMode q != m && p.bank.condMode q != .ignore) := fun m present => by
    simp only [Part.outmoded, present]
  unfold Machine.reasserting
  split
  · next out =>
    refine ⟨(h.assertHere q none).1, fun m present => ?_, fun absent => ?_⟩
    · rw [outmoded m present, Bool.and_eq_true, bne_iff_ne, bne_iff_ne] at out
      rw [reapplied, if_neg out.2]
      exact h.assertHere_state q none
    · unfold Part.outmoded at out
      split at out
      · next m present => rw [present] at absent; nomatch absent
      all_goals nomatch out
  · next kept =>
    refine ⟨.refl q p, fun m present => ?_, fun _ => rfl⟩
    rw [outmoded m present, Bool.and_eq_true, bne_iff_ne, bne_iff_ne, not_and_or, not_not, not_not] at kept
    rw [present, reapplied]
    rcases kept with same | ignored
    · rw [same, ite_self]
    · rw [if_pos ignored]

end

end Sys2Proof.Machine
end

section
/-! SUPPORT. MON at a commit (R130): what the tests leave of each pair, given what it was and what its input is. -/

namespace Sys2Proof.Machine

/-! ### Folds -/

theorem judgeAll_keeps {P : Part → Prop} {l : List Judging} (step : ∀ f ∈ l, ∀ p, P p → P (f p).1) {p : Part} (h : P p) :
    P (judgeAll l p).1 := by
  induction l generalizing p with
  | nil => exact h
  | cons f l ih => exact ih (fun g m => step g (List.mem_cons_of_mem _ m)) (step f List.mem_cons_self p h)

/-- What one test of a list brings about, and none undoes. -/
theorem judgeAll_reaches {P R : Part → Prop} {l : List Judging} {g : Judging}
    (step : ∀ f ∈ l, ∀ p, P p → P (f p).1) (stays : ∀ f ∈ l, ∀ p, P p → R p → R (f p).1) (here : g ∈ l)
    (sets : ∀ p, P p → R (g p).1) {p : Part} (h : P p) : R (judgeAll l p).1 := by
  induction l generalizing p with
  | nil => nomatch here
  | cons f l ih =>
    have step' := fun g m => step g (List.mem_cons_of_mem f m)
    have stays' := fun g m => stays g (List.mem_cons_of_mem f m)
    have first := step f List.mem_cons_self p h
    rcases List.mem_cons.1 here with rfl | here
    · exact (judgeAll_keeps (P := fun q => P q ∧ R q)
        (fun f m q both => ⟨step' f m q both.1, stays' f m q both.1 both.2⟩) ⟨first, sets p h⟩).2
    · exact ih step' stays' here first

theorem judgeAll_append (l m : List Judging) (p : Part) :
    judgeAll (l ++ m) p = ((judgeAll m (judgeAll l p).1).1, (judgeAll l p).2 || (judgeAll m (judgeAll l p).1).2) := by
  induction l generalizing p with
  | nil => simp [judgeAll]
  | cons f l ih =>
    rw [List.cons_append, judgeAll, ih, judgeAll]
    simp only [Bool.or_assoc]

theorem judgeAll_singleton (f : Judging) (p : Part) : judgeAll [f] p = f p := by simp [judgeAll]

/-- Tests of which none asks for the ring stop ask for none together. -/
theorem judgeAll_calm {P : Part → Prop} {l : List Judging} (step : ∀ f ∈ l, ∀ p, P p → P (f p).1 ∧ (f p).2 = false)
    {p : Part} (h : P p) : (judgeAll l p).2 = false := by
  induction l generalizing p with
  | nil => rfl
  | cons f l ih =>
    obtain ⟨kept, calm⟩ := step f List.mem_cons_self p h
    rw [judgeAll, calm, Bool.false_or]
    exact ih (fun g m => step g (List.mem_cons_of_mem _ m)) kept

/-! ### Inputs (R119, R120) -/

/-- The conditions whose inputs MON takes, but for COMPOUND (R119, R120). -/
def isTaken : Pair → Bool
  | .spread | .bond _ | .starve _ => true
  | _ => false

/-- The input of such a condition (R119, R120). -/
def Part.inputOf (p : Part) : Pair → Bool
  | .spread => p.spreadInput
  | .bond k => p.bondInput k
  | .starve k => p.starveInput k
  | _ => false

/-- The inputs are read from the jacks, the layers, the configuration and the clock; all but BOND's from the climb mode
and blanking as well. -/
theorem Part.inputOf_congr {p t : Part} (jacks : t.jacks = p.jacks) (sectors : t.sectors = p.sectors) (cfg : t.cfg = p.cfg)
    (clock : t.clock = p.clock) : (∀ k, t.bondInput k = p.bondInput k)
    ∧ (t.mode.mode = p.mode.mode → t.mon.blanking = p.mon.blanking → ∀ x, t.inputOf x = p.inputOf x) := by
  have jack : t.jack = p.jack := by funext j; simp only [Part.jack, jacks]
  have sector : t.sector = p.sector := by funext k; simp only [Part.sector, sectors]
  have bank : t.bank = p.bank := by simp only [Part.bank, cfg]
  have entry : t.jackEntry = p.jackEntry := by funext j; simp only [Part.jackEntry, bank]
  have sectorOf : t.sectorOf = p.sectorOf := by funext j; simp only [Part.sectorOf, entry]
  have height : t.height = p.height := by funext j; simp only [Part.height, jack, bank]
  have bottom : t.sectorBottom = p.sectorBottom := by
    funext k
    simp only [Part.sectorBottom, sectorOf, jack, height, sector]
  have active : t.activePositions = p.activePositions := by
    have isActive : t.isActive = p.isActive := by funext j; simp only [Part.isActive, jack]
    simp only [Part.activePositions, isActive, jack]
  have spread : t.spread = p.spread := by simp only [Part.spread, Part.lowestActive, Part.highestActive, active]
  have inUse : t.inUse = p.inUse := by funext k; simp only [Part.inUse, entry, sectorOf]
  have mix : t.mixEntry = p.mixEntry := by funext m; simp only [Part.mixEntry, bank]
  have bond : ∀ k, t.bondInput k = p.bondInput k := fun k => by
    simp only [Part.bondInput, inUse, Part.bond, sector, bottom, mix, clock]
  refine ⟨bond, fun mode blanking x => ?_⟩
  have blanked : t.blanked = p.blanked := by simp only [Part.blanked, mode, blanking]
  cases x with
  | spread => simp only [Part.inputOf, Part.spreadInput, mode, blanked, bank, spread]
  | bond k => exact bond k
  | starve k => simp only [Part.inputOf, Part.starveInput, mode, blanked, inUse, Part.fillLow, sector, bottom, bank]
  | _ => rfl

/-- Tests do not change what they read. -/
theorem Part.Judged.inputOf {p t : Part} (h : p.Judged t) (x : Pair) : t.inputOf x = p.inputOf x :=
  (Part.inputOf_congr h.jacks h.sectors h.cfg h.clock).2 (congrArg (·.mode) h.mode) h.blanking x

/-- Nor which tests the jacks meet (R117, R121). -/
theorem Part.meets_congr {p t : Part} (jacks : t.jacks = p.jacks) (cfg : t.cfg = p.cfg) (j : JackId) :
    t.meets j = p.meets j := by
  simp only [Part.meets, Part.jack, Part.sectorOf, Part.jackEntry, Part.bank, jacks, cfg] <;> rfl

theorem Part.Trims.meets {p t : Part} (h : p.Trims t) (j : JackId) : t.meets j = p.meets j :=
  Part.meets_congr h.jacks h.cfg j

theorem Part.Trims.condMode {p t : Part} (h : p.Trims t) (x : Pair) : t.bank.condMode x = p.bank.condMode x := by
  simp only [Part.bank, h.cfg]

/-- The test that a jack meets is one of those judged from the jack table (R121). -/
theorem Part.judgedOfJacks_of_meets {p : Part} {j : JackId} {x : Pair} (h : p.meets j = some x) :
    judgedOfJacks x = true := by
  unfold Part.meets at h
  split at h
  case h_4 | h_5 =>
    split at h
    · rw [← Option.some.inj h]; rfl
    · nomatch h
  case h_6 | h_7 | h_8 => nomatch h
  all_goals rw [← Option.some.inj h]; rfl

/-! ### The tests at a commit -/

/-- The tests at a commit but for COMPOUND (R127, R130). -/
def commitTests (pre : Part) : List Judging :=
  jackIds.map (commitJudging pre)
    ++ sectorIds.flatMap (fun k =>
      [bondJudging k, reasserting (.bond k), starveJudging k, reasserting (.starve k)])
    ++ feedIds.map (fun f => reasserting (.feed f))
    ++ [spreadJudging, reasserting .spread, reasserting .deck]

theorem Part.commitMon_eq (pre p : Part) : pre.commitMon p = p.ceaseAllUnmet.event (commitTests pre ++ [compoundJudging]) := by
  simp [Part.commitMon, commitTests]

/-- A test of a pair that no jack meets: its input taken, or asserted anew. -/
inductive Judging.On : Judging → Pair → Prop
  | takes (q : Pair) (taken : isTaken q = true) : On (judging q fun p => p.inputOf q) q
  | again (q : Pair) (listed : isTaken q = true ∨ q = .deck ∨ ∃ i, q = .feed i) : On (reasserting q) q

theorem Judging.On.other {f : Judging} {x : Pair} (on : f.On x) : judgedOfJacks x = false := by
  cases on with
  | takes x taken => cases x <;> first | rfl | nomatch taken
  | again x listed =>
    rcases listed with taken | rfl | ⟨i, rfl⟩
    · cases x <;> first | rfl | nomatch taken
    · rfl
    · rfl

theorem commitTests_cases {pre : Part} {f : Judging} (m : f ∈ commitTests pre) :
    (∃ j, f = commitJudging pre j) ∨ ∃ q, f.On q := by
  simp only [commitTests, List.mem_append, List.mem_map, List.mem_flatMap, List.mem_cons, List.not_mem_nil, or_false] at m
  rcases m with ((⟨j, -, rfl⟩ | ⟨k, -, rfl | rfl | rfl | rfl⟩) | ⟨i, -, rfl⟩) | rfl | rfl | rfl
  · exact .inl ⟨j, rfl⟩
  · exact .inr ⟨.bond k, .takes _ rfl⟩
  · exact .inr ⟨.bond k, .again _ (.inl rfl)⟩
  · exact .inr ⟨.starve k, .takes _ rfl⟩
  · exact .inr ⟨.starve k, .again _ (.inl rfl)⟩
  · exact .inr ⟨.feed i, .again _ (.inr (.inr ⟨i, rfl⟩))⟩
  · exact .inr ⟨.spread, .takes _ rfl⟩
  · exact .inr ⟨.spread, .again _ (.inl rfl)⟩
  · exact .inr ⟨.deck, .again _ (.inr (.inl rfl))⟩

theorem mem_feedIds (f : FeedId) : f ∈ feedIds := List.mem_finRange f

theorem takes_mem_commitTests {pre : Part} {x : Pair} (taken : isTaken x = true) :
    (judging x fun p => p.inputOf x) ∈ commitTests pre := by
  simp only [commitTests, List.mem_append, List.mem_map, List.mem_flatMap, List.mem_cons, List.not_mem_nil, or_false]
  cases x with
  | spread => exact .inr (.inl rfl)
  | bond k => exact .inl (.inl (.inr ⟨k, mem_sectorIds k, .inl rfl⟩))
  | starve k => exact .inl (.inl (.inr ⟨k, mem_sectorIds k, .inr (.inr (.inl rfl))⟩))
  | _ => nomatch taken

/-- The pairs asserted anew at a commit, but for those that jacks meet (R130). -/
theorem again_mem_commitTests {pre : Part} {x : Pair} (h : isTaken x = true ∨ x = .deck ∨ ∃ i, x = .feed i) :
    reasserting x ∈ commitTests pre := by
  simp only [commitTests, List.mem_append, List.mem_map, List.mem_flatMap, List.mem_cons, List.not_mem_nil, or_false]
  rcases h with taken | rfl | ⟨i, rfl⟩
  · cases x with
    | spread => exact .inr (.inr (.inl rfl))
    | bond k => exact .inl (.inl (.inr ⟨k, mem_sectorIds k, .inr (.inl rfl)⟩))
    | starve k => exact .inl (.inl (.inr ⟨k, mem_sectorIds k, .inr (.inr (.inr rfl))⟩))
    | _ => nomatch taken
  · exact .inr (.inr (.inr rfl))
  · exact .inl (.inr ⟨i, mem_feedIds i, rfl⟩)

section
variable {base p : Part}

theorem Part.AllSent.on (h : p.AllSent) {f : Judging} {q : Pair} (on : f.On q) : p.Touches q (f p).1 := by
  cases on with
  | takes q _ => exact (h.judging q _).1
  | again q _ => exact (h.reasserting q).1

/-- A jack's test at a commit: nothing, or that of the pair whose test it meets (R121, R130). -/
theorem Part.AllSent.commitJudging (h : p.AllSent) (pre : Part) (j : JackId) :
    (commitJudging pre j p).1 = p ∨ ∃ x, p.meets j = some x ∧ p.Touches x (commitJudging pre j p).1 := by
  unfold Machine.commitJudging
  split
  · next x meets =>
    refine .inr ⟨x, meets, ?_⟩
    split
    · split
      · exact .refl x p
      · exact (h.reasserting x).1
    · exact (h.assertHere x (some j)).1
  · exact .inl rfl

theorem Part.AllSent.commitTest (h : p.AllSent) {pre : Part} {f : Judging} (m : f ∈ commitTests pre) : p.Judged (f p).1 := by
  rcases commitTests_cases m with ⟨j, rfl⟩ | ⟨q, on⟩
  · rcases h.commitJudging pre j with same | ⟨x, -, touches⟩
    · rw [same]; exact .refl p
    · exact touches.judged
  · exact (h.on on).judged

/-- What holds of the parts that the tests go through. -/
structure Part.Within (base p : Part) : Prop where
  judged : base.Judged p
  sent : p.AllSent

theorem Part.Within.test (h : base.Within p) {pre : Part} {f : Judging} (m : f ∈ commitTests pre) :
    base.Within (f p).1 :=
  have judged := h.sent.commitTest m
  ⟨h.judged.trans judged, judged.allSent h.sent⟩

/-- A test does not touch another pair. -/
theorem Part.Within.other (h : base.Within p) {pre : Part} {f : Judging} (m : f ∈ commitTests pre) {x : Pair}
    (jack : ∀ j, base.meets j ≠ some x ∨ f ≠ Machine.commitJudging pre j) (on : ¬ f.On x) : (f p).1.pair x = p.pair x := by
  rcases commitTests_cases m with ⟨j, rfl⟩ | ⟨q, here⟩
  · rcases h.sent.commitJudging pre j with same | ⟨y, meets, touches⟩
    · rw [same]
    · refine touches.others x fun same => ?_
      rw [h.judged.meets, ← same] at meets
      exact (jack j).elim (absurd meets) fun no => no rfl
  · exact (h.sent.on here).others x fun same => on (same ▸ here)

/-! ### What becomes of the pairs -/

theorem reapplied_reapplied (a b : CondMode) : reapplied a (reapplied a b) = reapplied a b := by
  unfold reapplied
  split <;> rfl

/-- A pair that jacks do not meet, and whose input, if it has one, is true, stays PRESENT, under its new mode (R130). -/
theorem Part.commitTests_again {pre : Part} (sent : base.AllSent) {x : Pair} {m : CondMode}
    (listed : isTaken x = true ∨ x = .deck ∨ ∃ i, x = .feed i) (true_ : isTaken x = true → base.inputOf x = true)
    (present : (base.pair x).state = .present m) :
    ((judgeAll (commitTests pre) base).1.pair x).state = .present (reapplied (base.bank.condMode x) m) := by
  have other : judgedOfJacks x = false := (Judging.On.again x listed).other
  have met : ∀ j, base.meets j ≠ some x := fun j meets => by
    rw [Part.judgedOfJacks_of_meets meets] at other
    nomatch other
  have cases_ : ∀ f ∈ commitTests pre, ∀ p, base.Within p → (f.On x → f = reasserting x ∨
      (f = judging x fun p => p.inputOf x) ∧ p.inputOf x = true) := fun f _ p within on => by
    cases on with
    | takes x taken => exact .inr ⟨rfl, by rw [within.judged.inputOf]; exact true_ taken⟩
    | again x _ => exact .inl rfl
  have keeps : ∀ f ∈ commitTests pre, ∀ p, base.Within p → ∀ n, (p.pair x).state = .present n →
      ((f p).1.pair x).state = .present n
        ∨ ((f p).1.pair x).state = .present (reapplied (base.bank.condMode x) n) := fun f m p within n here => by
    by_cases on : f.On x
    · rcases cases_ f m p within on with rfl | ⟨rfl, input⟩
      · exact .inr (by rw [(within.sent.reasserting x).2.1 n here, within.judged.condMode])
      · refine .inl ?_
        rw [(within.sent.judging x _).2, here, input]
        simp [Part.assertsNow, here, PairState.followed]
    · exact .inl (by rw [within.other m (fun j => .inl (met j)) on]; exact here)
  refine judgeAll_reaches (l := commitTests pre) (g := reasserting x)
    (P := fun p => base.Within p ∧ ((p.pair x).state = .present m
      ∨ (p.pair x).state = .present (reapplied (base.bank.condMode x) m)))
    (R := fun p => (p.pair x).state = .present (reapplied (base.bank.condMode x) m))
    (fun f mem p ⟨within, here⟩ => ⟨within.test mem, ?_⟩) (fun f mem p ⟨within, _⟩ here => ?_)
    (again_mem_commitTests listed) (fun p ⟨within, here⟩ => ?_) ⟨⟨.refl base, sent⟩, .inl present⟩
  · rcases here with here | here
    · exact keeps f mem p within m here
    · exact .inr (by simpa only [reapplied_reapplied, or_self] using keeps f mem p within _ here)
  · simpa only [reapplied_reapplied, or_self] using keeps f mem p within _ here
  · rcases here with here | here
    · rw [(within.sent.reasserting x).2.1 m here, within.judged.condMode]
    · rw [(within.sent.reasserting x).2.1 _ here, within.judged.condMode, reapplied_reapplied]

/-- A pair whose input is found false ceases (R125). -/
theorem Part.commitTests_ceases {pre : Part} (sent : base.AllSent) {x : Pair} (taken : isTaken x = true)
    (false_ : base.inputOf x = false) : ((judgeAll (commitTests pre) base).1.pair x).state = .notPresent := by
  have other := (Judging.On.takes x taken).other
  have met : ∀ j, base.meets j ≠ some x := fun j meets => by
    rw [Part.judgedOfJacks_of_meets meets] at other
    nomatch other
  have sets : ∀ p, base.Within p → ((judging x (fun p => p.inputOf x) p).1.pair x).state = .notPresent := fun p within => by
    rw [(within.sent.judging x _).2, within.judged.inputOf, false_]
    rfl
  refine judgeAll_reaches (l := commitTests pre) (P := base.Within) (R := fun p => (p.pair x).state = .notPresent)
    (fun f m p within => within.test m) (fun f m p within here => ?_) (takes_mem_commitTests taken) sets
    ⟨.refl base, sent⟩
  by_cases on : f.On x
  · cases on with
    | takes x taken => exact sets p within
    | again x _ => rwa [(within.sent.reasserting x).2.2 (by rw [here]; rfl)]
  · rwa [within.other m (fun j => .inl (met j)) on]

/-- A pair whose test no jack meets is not asserted (R121). -/
theorem Part.commitTests_unmet {pre : Part} (sent : base.AllSent) {x : Pair} (jacks : judgedOfJacks x = true)
    (unmet : ∀ j, base.meets j ≠ some x) (absent : (base.pair x).state.isPresent = false) :
    ((judgeAll (commitTests pre) base).1.pair x).state.isPresent = false := by
  refine (judgeAll_keeps (P := fun p => base.Within p ∧ (p.pair x).state.isPresent = false)
    (fun f m p ⟨within, here⟩ => ⟨within.test m, ?_⟩) ⟨⟨.refl base, sent⟩, absent⟩).2
  rwa [within.other m (fun j => .inl (unmet j)) fun on => by rw [on.other] at jacks; nomatch jacks]

/-- What a jack's test does to the pair it meets: assert it, where the jack has come to meet it; else assert it anew,
unless another jack has (R121, R130, log 21). -/
theorem Part.AllSent.commitJudging_met (h : p.AllSent) {pre : Part} {j : JackId} {x : Pair} (meets : p.meets j = some x) :
    (pre.meets j ≠ some x → ((Machine.commitJudging pre j p).1.pair x).state = .present (p.bank.condMode x))
    ∧ (pre.meets j = some x → pre.newlyMet p x = true → (Machine.commitJudging pre j p).1 = p)
    ∧ (pre.meets j = some x → pre.newlyMet p x = false →
      (Machine.commitJudging pre j p).1 = (Machine.reasserting x p).1) := by
  unfold Machine.commitJudging
  simp only [meets]
  refine ⟨fun new => ?_, fun old newly => ?_, fun old none => ?_⟩
  · rw [if_neg new]
    exact h.assertHere_state x (some j)
  · rw [if_pos old, if_pos newly]
  · rw [if_pos old, none, if_neg Bool.false_ne_true]

theorem Part.Trims.newlyMet {t : Part} (h : p.Trims t) (pre : Part) (x : Pair) : pre.newlyMet t x = pre.newlyMet p x := by
  simp only [Part.newlyMet, h.meets]

/-- A pair whose test a jack has come to meet is PRESENT under its mode (R121). -/
theorem Part.commitTests_met {pre : Part} (sent : base.AllSent) {x : Pair} {j : JackId} (meets : base.meets j = some x)
    (new : pre.meets j ≠ some x) :
    ((judgeAll (commitTests pre) base).1.pair x).state = .present (base.bank.condMode x) := by
  have jacks := Part.judgedOfJacks_of_meets meets
  have newly : pre.newlyMet base x = true :=
    List.any_eq_true.2 ⟨j, mem_jackIds j, by simp [meets, new]⟩
  refine judgeAll_reaches (l := commitTests pre) (g := Machine.commitJudging pre j) (P := base.Within)
    (R := fun p => (p.pair x).state = .present (base.bank.condMode x)) (fun f m p within => within.test m)
    (fun f m p within here => ?_) ?_ (fun p within => ?_) ⟨.refl base, sent⟩
  · have away : ¬ f.On x := fun on => by rw [on.other] at jacks; nomatch jacks
    by_cases mine : ∃ i, base.meets i = some x ∧ f = Machine.commitJudging pre i
    · obtain ⟨i, met, rfl⟩ := mine
      have tests := within.sent.commitJudging_met (pre := pre) ((within.judged.meets i).trans met)
      by_cases old : pre.meets i = some x
      · rwa [tests.2.1 old (by rw [within.judged.newlyMet]; exact newly)]
      · rw [tests.1 old, within.judged.condMode]
    · rwa [within.other m (fun i => not_and_or.1 fun both => mine ⟨i, both⟩) away]
  · simp only [commitTests, List.mem_append, List.mem_map]
    exact .inl (.inl (.inl ⟨j, mem_jackIds j, rfl⟩))
  · rw [(within.sent.commitJudging_met ((within.judged.meets j).trans meets)).1 new, within.judged.condMode]

/-- A pair whose test jacks meet that all met it before stays PRESENT, under its new mode (R130). -/
theorem Part.commitTests_stillMet {pre : Part} (sent : base.AllSent) {x : Pair} {j : JackId} {m : CondMode}
    (meets : base.meets j = some x) (old : ∀ i, base.meets i = some x → pre.meets i = some x)
    (present : (base.pair x).state = .present m) :
    ((judgeAll (commitTests pre) base).1.pair x).state = .present (reapplied (base.bank.condMode x) m) := by
  have jacks := Part.judgedOfJacks_of_meets meets
  have none : pre.newlyMet base x = false := by
    refine List.any_eq_false.2 fun i _ both => ?_
    simp only [Bool.and_eq_true, beq_iff_eq, bne_iff_ne] at both
    exact both.2 (old i both.1)
  have keeps : ∀ f ∈ commitTests pre, ∀ p, base.Within p → ∀ n, (p.pair x).state = .present n →
      ((f p).1.pair x).state = .present n
        ∨ ((f p).1.pair x).state = .present (reapplied (base.bank.condMode x) n) := fun f mem p within n here => by
    by_cases mine : ∃ i, base.meets i = some x ∧ f = Machine.commitJudging pre i
    · obtain ⟨i, met, rfl⟩ := mine
      have tests := within.sent.commitJudging_met (pre := pre) ((within.judged.meets i).trans met)
      rw [tests.2.2 (old i met) (by rw [within.judged.newlyMet]; exact none), (within.sent.reasserting x).2.1 n here,
        within.judged.condMode]
      exact .inr rfl
    · refine .inl ?_
      rwa [within.other mem (fun i => not_and_or.1 fun both => mine ⟨i, both⟩) fun on => by
        rw [on.other] at jacks; nomatch jacks]
  refine judgeAll_reaches (l := commitTests pre) (g := Machine.commitJudging pre j)
    (P := fun p => base.Within p ∧ ((p.pair x).state = .present m
      ∨ (p.pair x).state = .present (reapplied (base.bank.condMode x) m)))
    (R := fun p => (p.pair x).state = .present (reapplied (base.bank.condMode x) m))
    (fun f mem p ⟨within, here⟩ => ⟨within.test mem, ?_⟩) (fun f mem p ⟨within, _⟩ here => ?_)
    ?_ (fun p ⟨within, here⟩ => ?_) ⟨⟨.refl base, sent⟩, .inl present⟩
  · rcases here with here | here
    · exact keeps f mem p within m here
    · exact .inr (by simpa only [reapplied_reapplied, or_self] using keeps f mem p within _ here)
  · simpa only [reapplied_reapplied, or_self] using keeps f mem p within _ here
  · simp only [commitTests, List.mem_append, List.mem_map]
    exact .inl (.inl (.inl ⟨j, mem_jackIds j, rfl⟩))
  · rw [(within.sent.commitJudging_met ((within.judged.meets j).trans meets)).2.2 (old j meets)
      (by rw [within.judged.newlyMet]; exact none)]
    rcases here with here | here
    · rw [(within.sent.reasserting x).2.1 m here, within.judged.condMode]
    · rw [(within.sent.reasserting x).2.1 _ here, within.judged.condMode, reapplied_reapplied]

end

end Sys2Proof.Machine
end

section
/-! SUPPORT. MON at a commit, from end to end: pairs that no jack meets any more cease, the tests are made, and the ring
stops if one of them asks for it (R105, R121, R127, R130). -/

namespace Sys2Proof.Machine

/-! ### Pairs that no jack meets any more (R121) -/

section
variable {p : Part}

theorem Part.ceaseUnmet_touches (q : Pair) : p.Touches q (p.ceaseUnmet q) := by
  unfold Part.ceaseUnmet
  split
  · refine ⟨.ofMon rfl rfl (fun x h => ?_) fun x h => ?_, fun x away => by rw [p.cease_pair, if_neg away]⟩
    all_goals
      rw [p.cease_pair]
      split
      · next here => subst here; exact h
      · exact h
  · exact .refl q p

/-- A pair ceases here only if no jack meets its test. -/
theorem Part.ceaseUnmet_pair (q x : Pair) : (p.ceaseUnmet q).pair x = p.pair x
    ∨ (x = q ∧ (∀ j, p.meets j ≠ some x) ∧ ((p.ceaseUnmet q).pair x).state = .notPresent) := by
  unfold Part.ceaseUnmet
  split
  · next unmet =>
    rw [Bool.and_eq_true, Bool.not_eq_true', List.any_eq_false] at unmet
    rw [p.cease_pair]
    split
    · next here =>
      subst here
      exact .inr ⟨rfl, fun j meets => unmet.2 j (mem_jackIds j) (by simp [meets]), rfl⟩
    · exact .inl rfl
  · exact .inl rfl

theorem Part.ceaseAllUnmet_judged : p.Judged p.ceaseAllUnmet :=
  Part.judged_foldl (fun _ q => (Part.ceaseUnmet_touches q).judged) _ p

/-- The pairs after it: those that a jack meets, or that no jack can meet, stay; no other is PRESENT. -/
theorem Part.ceaseAllUnmet_pair (x : Pair) :
    ((∃ j, p.meets j = some x) ∨ judgedOfJacks x = false → p.ceaseAllUnmet.pair x = p.pair x)
    ∧ (judgedOfJacks x = true → (∀ j, p.meets j ≠ some x) → (p.ceaseAllUnmet.pair x).state.isPresent = false) := by
  have fault : ∀ q ∈ sectorIds.flatMap faultPairs, judgedOfJacks q = true := fun q m => by
    obtain ⟨k, -, m⟩ := List.mem_flatMap.1 m
    simp only [faultPairs, List.mem_cons, List.not_mem_nil, or_false] at m
    rcases m with rfl | rfl | rfl | rfl <;> rfl
  constructor
  · intro kept
    have go : ∀ (l : List Pair) (q : Part), (∀ y ∈ l, judgedOfJacks y = true) → p.Judged q → q.pair x = p.pair x →
        (l.foldl Part.ceaseUnmet q).pair x = p.pair x := by
      intro l
      induction l with
      | nil => exact fun _ _ _ h => h
      | cons y l ih =>
        intro q jacks judged here
        refine ih _ (fun z m => jacks z (List.mem_cons_of_mem _ m)) (judged.trans (Part.ceaseUnmet_touches y).judged) ?_
        rcases q.ceaseUnmet_pair y x with same | ⟨rfl, unmet, -⟩
        · exact same.trans here
        · rcases kept with ⟨j, meets⟩ | other
          · exact absurd ((judged.meets j).trans meets) (unmet j)
          · rw [jacks x List.mem_cons_self] at other
            nomatch other
    exact go _ p fault (.refl p) rfl
  · intro jacks unmet
    have listed : x ∈ sectorIds.flatMap faultPairs := by
      cases x
      case pressure k | silent k | trouble k | rod k =>
        exact List.mem_flatMap.2 ⟨k, mem_sectorIds k, by simp [faultPairs]⟩
      all_goals nomatch jacks
    have stays : ∀ (q : Part) (y : Pair), (q.pair x).state.isPresent = false →
        ((q.ceaseUnmet y).pair x).state.isPresent = false := fun q y here => by
      rcases q.ceaseUnmet_pair y x with same | ⟨-, -, gone⟩
      · rwa [same]
      · rw [gone]; rfl
    have go : ∀ (l : List Pair) (q : Part), x ∈ l → p.Judged q →
        ((l.foldl Part.ceaseUnmet q).pair x).state.isPresent = false := by
      intro l
      induction l with
      | nil => exact fun _ m => nomatch m
      | cons y l ih =>
        intro q m judged
        rcases List.mem_cons.1 m with rfl | m
        · refine foldl_law (P := fun r : Part => (r.pair x).state.isPresent = false) (fun r z => stays r z) l _ ?_
          by_cases present : (q.pair x).state.isPresent = true
          · have none : jackIds.any (q.meets · == some x) = false := List.any_eq_false.2 fun j _ meets =>
              unmet j ((judged.meets j).symm.trans (beq_iff_eq.1 meets))
            rw [Part.ceaseUnmet, if_pos (by rw [present, none]; rfl), q.cease_pair, if_pos rfl]
            rfl
          · exact stays q x (Bool.eq_false_iff.2 present)
        · exact ih _ m (judged.trans (Part.ceaseUnmet_touches y).judged)
    exact go _ p listed (.refl p)

/-! ### The ring stop (R105) -/

/-- The part with its mode STOPPED and, out of SLIP, its queue flushed (R57, R105). -/
def Part.stopFlushed (p : Part) : Part :=
  if p.mode.mode = .slip then (p.setMode p.stoppedRecord).flush .stopped else p.setMode p.stoppedRecord

/-- Its commands with ending reasons, and those in RESEND closed (R78, R79). -/
def Part.stopClosed (p : Part) : Part := (p.stopFlushed.markAll .stopped fun _ => true).closeAllStopped

/-- The broadcast STILL, STOP OUT, and the end test of the round (R105, R106, R114). -/
def Part.stopTold (p : Part) : Part :=
  ({ p.stopClosed.ringOut false .still 127 0 [] with stopOut := true } : Part).endRoundTest

/-- Every STARVE found false (R120). -/
def Part.unstarved (p : Part) : Part := sectorIds.foldl (fun p k => p.follow (.starve k) false) p

theorem Part.toldOfStopped_eq (p : Part) : p.toldOfStopped = (spreadJudging p.endBlanking.updateAlert.unstarved).1 := rfl

/-- Supervision no longer active (R138). -/
def Part.supOff (p : Part) : Part := { p with sup := { p.sup with active := false } }

theorem Part.supOff_trims : p.Trims p.supOff := .same rfl rfl rfl rfl rfl rfl rfl fun _ => ⟨rfl, rfl⟩

theorem Part.enterStopped_eq (runs : p.mode.mode.isStopped = false) :
    p.enterStopped = p.stopTold.toldOfStopped.supOff := by
  unfold Part.enterStopped Part.stopTold Part.stopClosed Part.stopFlushed
  cases mode : p.mode.mode with
  | stopped l => rw [mode] at runs; nomatch runs
  | _ => simp only [Part.stoppedRecord, mode]; rfl

theorem Part.enterStopped_stopped (stopped : p.mode.mode.isStopped = true) : p.enterStopped = p := by
  unfold Part.enterStopped
  cases mode : p.mode.mode with
  | stopped l => rfl
  | _ => rw [mode] at stopped; nomatch stopped

/-- What a ring stop leaves where every open command is in SENT. -/
structure Part.Halted (p t : Part) : Prop extends p.Trims t where
  mode : t.mode.mode = .stopped p.mode.mode.left
  stopOut : t.stopOut = true
  sup : t.sup.active = false
  empty : t.adm.queue = []
  starve : ∀ k, t.pair (.starve k) = { p.pair (.starve k) with state := .notPresent }
  pairs : ∀ x, x ≠ .spread → (∀ k, x ≠ .starve k) → t.pair x = p.pair x

theorem Part.unstarved_judged : p.Judged p.unstarved ∧ ∀ x, (∀ k, x ≠ .starve k) → p.unstarved.pair x = p.pair x := by
  unfold Part.unstarved
  generalize sectorIds = l
  induction l generalizing p with
  | nil => exact ⟨.refl p, fun _ _ => rfl⟩
  | cons k l ih =>
    have first := Part.follow_touches (p := p) (.starve k) false
    obtain ⟨judged, others⟩ := ih (p := p.follow (.starve k) false)
    exact ⟨first.judged.trans judged, fun x away => (others x away).trans (first.others x (away k))⟩

/-- Every STARVE is NOT-PRESENT then (R120). -/
theorem Part.unstarved_starve (k : SectorId) :
    p.unstarved.pair (.starve k) = { p.pair (.starve k) with state := .notPresent } := by
  have go : ∀ (l : List SectorId) (q : Part), (l.foldl (fun p k => p.follow (.starve k) false) q).pair (.starve k)
      = if k ∈ l then { q.pair (.starve k) with state := .notPresent } else q.pair (.starve k) := by
    intro l
    induction l with
    | nil => exact fun _ => rfl
    | cons i l ih =>
      intro q
      rw [List.foldl_cons, ih, q.follow_pair]
      by_cases here : k = i
      · subst here
        simp [PairState.followed]
      · simp [here]
  exact (go sectorIds p).trans (if_pos (mem_sectorIds k))

/-- MON told of STOPPED touches SPREAD and STARVE alone (R105). -/
theorem Part.AllSent.toldOfStopped (h : p.AllSent) : p.Trims p.toldOfStopped ∧ p.toldOfStopped.mode = p.mode
    ∧ p.toldOfStopped.stopOut = p.stopOut
    ∧ (∀ k, p.toldOfStopped.pair (.starve k) = { p.pair (.starve k) with state := .notPresent })
    ∧ ∀ x, x ≠ .spread → (∀ k, x ≠ .starve k) → p.toldOfStopped.pair x = p.pair x := by
  have told : p.Trims p.endBlanking.updateAlert := .same rfl rfl rfl rfl rfl rfl rfl fun _ => ⟨rfl, rfl⟩
  obtain ⟨judged, others⟩ := Part.unstarved_judged (p := p.endBlanking.updateAlert)
  have spread := ((judged.allSent (told.allSent h)).judging .spread Part.spreadInput).1
  rw [Part.toldOfStopped_eq, spreadJudging]
  have all := judged.trans spread.judged
  exact ⟨told.trans all.toTrims, all.mode, all.stopOut,
    fun k => (spread.others (.starve k) nofun).trans (Part.unstarved_starve k),
    fun x away starve => (spread.others x away).trans (others x starve)⟩

theorem Part.endRoundTest_trims : p.Trims p.endRoundTest ∧ p.endRoundTest.mode.mode = p.mode.mode
    ∧ p.endRoundTest.stopOut = p.stopOut ∧ ∀ x, p.endRoundTest.pair x = p.pair x := by
  unfold Part.endRoundTest
  split <;> exact ⟨.same rfl rfl rfl rfl rfl rfl rfl fun _ => ⟨rfl, rfl⟩, rfl, rfl, fun _ => rfl⟩

theorem Part.stopFlushed_trims (flushed : p.Flushed) : p.Trims p.stopFlushed ∧ p.stopFlushed.adm.queue = []
    ∧ p.stopFlushed.mode = p.stoppedRecord ∧ ∀ x, p.stopFlushed.pair x = p.pair x := by
  have set : p.Trims (p.setMode p.stoppedRecord) := .same rfl rfl rfl rfl rfl rfl rfl fun _ => ⟨rfl, rfl⟩
  unfold Part.stopFlushed
  split
  · have removed := Part.removeEntries_judged (p := p.setMode p.stoppedRecord)
      (fun _ => true) .stopped
    exact ⟨set.trans removed.toTrims, Part.flush_queue _ _, removed.mode, (Part.removeEntries_passed _ _ _).pair⟩
  · next away => exact ⟨set, flushed away, rfl, fun _ => rfl⟩

/-- The entry into STOPPED (R105). -/
theorem Part.AllSent.enterStopped (h : p.AllSent) (runs : p.mode.mode.isStopped = false) (flushed : p.Flushed) :
    p.Halted p.enterStopped := by
  obtain ⟨trims, empty, mode, pairs⟩ := p.stopFlushed_trims flushed
  have marked := Part.markAll_judged (p := p.stopFlushed) .stopped fun _ => true
  have closed : p.stopClosed = p.stopFlushed.markAll .stopped fun _ => true :=
    (marked.allSent (trims.allSent h)).closeStoppeds _
  have out : p.stopFlushed.Trims { p.stopClosed.ringOut false .still 127 0 [] with stopOut := true } := by
    rw [closed]
    exact ⟨rfl, rfl, rfl, rfl, rfl, fun _ => id, marked.table, fun _ => id, fun _ => id⟩
  obtain ⟨tested, testedMode, testedOut, testedPairs⟩ :=
    Part.endRoundTest_trims (p := { p.stopClosed.ringOut false .still 127 0 [] with stopOut := true })
  have before := out.trans tested
  obtain ⟨told, toldMode, toldOut, toldStarve, toldPairs⟩ := (before.allSent (trims.allSent h)).toldOfStopped
  have after := (before.trans told).trans Part.supOff_trims
  rw [Part.enterStopped_eq runs, Part.stopTold]
  generalize ({ p.stopClosed.ringOut false .still 127 0 [] with stopOut := true } : Part).endRoundTest = r at *
  generalize r.toldOfStopped = t at *
  have first : ∀ x, r.pair x = p.pair x := fun x => (testedPairs x).trans (Eq.trans (by rw [closed]; rfl) (pairs x))
  refine ⟨trims.trans after, ?_, toldOut.trans testedOut, rfl, ?_, fun k => ?_, fun x away starve => ?_⟩
  · refine (congrArg (·.mode) toldMode).trans (testedMode.trans ?_)
    rw [closed]
    exact congrArg (·.mode) mode
  · refine List.eq_nil_iff_forall_not_mem.2 fun e m => ?_
    have := after.queue e m
    rw [empty] at this
    nomatch this
  · exact (toldStarve k).trans (by rw [first])
  · exact (toldPairs x away starve).trans (first x)

/-- The ring stop stops no sector more. -/
theorem Part.Halted.stoppedSectors {t : Part} (h : p.Halted t) : t.stoppedSectors = p.stoppedSectors := by
  unfold Part.stoppedSectors
  refine congrArg sectorIds.countP (funext fun k => ?_)
  unfold Part.sectorStopped
  refine Bool.eq_iff_iff.2 ?_
  simp only [List.any_eq_true]
  refine exists_congr fun x => and_congr_right fun m => ?_
  have sector := Quiet.sectorPairs_sector m
  by_cases starve : ∃ i, x = .starve i
  · obtain ⟨i, rfl⟩ := starve
    rw [h.starve]
  · rw [h.pairs x (fun same => by rw [same] at sector; nomatch sector) fun i same => starve ⟨i, same⟩]

end

end Sys2Proof.Machine
end

section
/-! SUPPORT. What MON makes of a commit, end to end (R130): the pairs it leaves, by what jacks meet and inputs are, and the
ring stop, where a test asks for it. -/

namespace Sys2Proof.Machine

/-! ### Conditions that stop nothing -/

/-- A test that moves no sector stop and asks for no ring stop. -/
def Part.Mild (p : Part) (r : Part × Bool) : Prop :=
  (∀ x, (r.1.pair x).stopsSector = (p.pair x).stopsSector) ∧ r.2 = false

section
variable {p : Part}

theorem Part.follow_mild (q : Pair) (b : Bool) : p.Mild (p.follow q b, false) := by
  refine ⟨fun x => ?_, rfl⟩
  rw [p.follow_pair]
  split
  · next here => rw [here]
  · rfl

theorem Part.AllSent.assertion_mild (h : p.AllSent) {q : Pair} (d : Option JackId)
    (soft : p.bank.condMode q = .ignore ∨ p.bank.condMode q = .warn) : p.Mild (assertion q d p) := by
  obtain ⟨touches, pair⟩ := h.assertHere q d
  constructor
  · intro x
    by_cases here : x = q
    · subst here
      change ((p.assertHere x d).pair x).stopsSector = _
      rw [pair, p.noteAssertion_pair, if_pos rfl]
      rcases soft with soft | soft <;> simp [soft]
    · exact congrArg (·.stopsSector) (touches.others x here)
  · change (p.bank.condMode q == .ring) = false
    rcases soft with soft | soft <;> rw [soft] <;> rfl

theorem Part.AllSent.judging_mild (h : p.AllSent) {q : Pair} (input : Part → Bool)
    (soft : p.bank.condMode q = .ignore ∨ p.bank.condMode q = .warn) : p.Mild (Machine.judging q input p) := by
  unfold Machine.judging
  split
  · exact h.assertion_mild none soft
  · exact Part.follow_mild q _

theorem Part.AllSent.reasserting_mild (h : p.AllSent) {q : Pair}
    (soft : p.bank.condMode q = .ignore ∨ p.bank.condMode q = .warn) : p.Mild (Machine.reasserting q p) := by
  unfold Machine.reasserting
  split
  · exact h.assertion_mild none soft
  · exact ⟨fun _ => rfl, rfl⟩

theorem Part.AllSent.commitTest_mild (h : p.AllSent) {pre : Part} {f : Judging} (m : f ∈ commitTests pre)
    (soft : ∀ q, q = .stopin ∨ q = .compound ∨ q = .request ∨ p.bank.condMode q = .ignore ∨ p.bank.condMode q = .warn) :
    p.Mild (f p) := by
  rcases commitTests_cases m with ⟨j, rfl⟩ | ⟨q, on⟩
  · unfold Machine.commitJudging
    split
    · next x meets =>
      have jacks := Part.judgedOfJacks_of_meets meets
      have soft : p.bank.condMode x = .ignore ∨ p.bank.condMode x = .warn := by
        rcases soft x with rfl | rfl | rfl | soft
        · nomatch jacks
        · nomatch jacks
        · nomatch jacks
        · exact soft
      split
      · split
        · exact ⟨fun _ => rfl, rfl⟩
        · exact h.reasserting_mild soft
      · exact h.assertion_mild (some j) soft
    · exact ⟨fun _ => rfl, rfl⟩
  · have named : isTaken q = true ∨ q = .deck ∨ ∃ i, q = .feed i := by
      cases on with
      | takes q taken => exact .inl taken
      | again q listed => exact listed
    have soft : p.bank.condMode q = .ignore ∨ p.bank.condMode q = .warn := by
      rcases soft q with rfl | rfl | rfl | soft
      · rcases named with h | h | ⟨i, h⟩ <;> nomatch h
      · rcases named with h | h | ⟨i, h⟩ <;> nomatch h
      · rcases named with h | h | ⟨i, h⟩ <;> nomatch h
      · exact soft
    cases on with
    | takes q _ => exact h.judging_mild _ soft
    | again q _ => exact h.reasserting_mild soft

/-- Which sectors are stopped, read from the cause sets (R128). -/
theorem Part.stoppedSectors_congr {t : Part} (h : ∀ x, (t.pair x).stopsSector = (p.pair x).stopsSector) :
    t.stoppedSectors = p.stoppedSectors := by
  unfold Part.stoppedSectors
  exact congrArg sectorIds.countP (funext fun k => Quiet.sectorStopped_congr h k)

/-! ### COMPOUND (R124) -/

/-- COMPOUND stops no sector of its own. -/
theorem Part.Touches.stoppedSectors {t : Part} (h : p.Touches .compound t) : t.stoppedSectors = p.stoppedSectors := by
  unfold Part.stoppedSectors
  refine congrArg sectorIds.countP (funext fun k => ?_)
  unfold Part.sectorStopped
  refine Bool.eq_iff_iff.2 ?_
  simp only [List.any_eq_true]
  refine exists_congr fun x => and_congr_right fun m => ?_
  rw [h.others x fun same => by have sector := Quiet.sectorPairs_sector m; rw [same] at sector; nomatch sector]

/-- COMPOUND judged: PRESENT, or not NOT-PRESENT at least, exactly while more sectors are stopped than the limit. -/
theorem Part.AllSent.compoundJudging (h : p.AllSent) : p.Touches .compound (compoundJudging p).1
    ∧ (((Machine.compoundJudging p).1.pair .compound).state ≠ .notPresent
      ↔ p.bank.sectorStopLimit < (Machine.compoundJudging p).1.stoppedSectors)
    ∧ (p.stoppedSectors ≤ p.bank.sectorStopLimit → (Machine.compoundJudging p).2 = false) := by
  obtain ⟨touches, state⟩ := h.judging .compound Part.compoundInput
  have input : p.compoundInput = decide (p.bank.sectorStopLimit < p.stoppedSectors) := rfl
  refine ⟨touches, ?_, fun low => ?_⟩
  · unfold Machine.compoundJudging
    rw [touches.stoppedSectors, state, input]
    by_cases over_ : p.bank.sectorStopLimit < p.stoppedSectors
    · refine iff_of_true ?_ over_
      rw [decide_eq_true over_]
      split
      · nofun
      · cases (p.pair .compound).state <;> nofun
    · refine iff_of_false ?_ over_
      rw [decide_eq_false over_, not_not]
      rfl
  · have none : p.assertsNow .compound p.compoundInput = false := by
      rw [input, decide_eq_false (by omega)]
      rfl
    unfold Machine.compoundJudging Machine.judging
    rw [none]
    rfl

/-! ### The whole -/

/-- What MON makes of a commit in a part p, given the part before it (R130). -/
structure Part.CommitJudged (pre p t : Part) : Prop extends p.Trims t where
  unmet : ∀ x, judgedOfJacks x = true → (∀ j, p.meets j ≠ some x) → (t.pair x).state.isPresent = false
  met : ∀ x j, p.meets j = some x → pre.meets j ≠ some x → (t.pair x).state = .present (p.bank.condMode x)
  stillMet : ∀ x j m, p.meets j = some x → (∀ i, p.meets i = some x → pre.meets i = some x) →
    (p.pair x).state = .present m → (t.pair x).state = .present (reapplied (p.bank.condMode x) m)
  again : ∀ x, (x = .deck ∨ ∃ i, x = .feed i) → ((p.pair x).state.isPresent = false → t.pair x = p.pair x)
    ∧ ∀ m, (p.pair x).state = .present m → (t.pair x).state = .present (reapplied (p.bank.condMode x) m)
  bond : ∀ k, (p.bondInput k = false → (t.pair (.bond k)).state = .notPresent)
    ∧ (p.bondInput k = true → ∀ m, (p.pair (.bond k)).state = .present m →
      (t.pair (.bond k)).state = .present (reapplied (p.bank.condMode (.bond k)) m))
  compound : (t.pair .compound).state ≠ .notPresent ↔ p.bank.sectorStopLimit < t.stoppedSectors
  runs : (p.Judged t ∧ ∀ x, isTaken x = true → (p.inputOf x = false → (t.pair x).state = .notPresent)
      ∧ (p.inputOf x = true → ∀ m, (p.pair x).state = .present m →
        (t.pair x).state = .present (reapplied (p.bank.condMode x) m)))
    ∨ (p.mode.mode.isStopped = false ∧ t.mode.mode = .stopped p.mode.mode.left ∧ t.stopOut = true
      ∧ t.sup.active = false ∧ t.adm.queue = [])
  soft : p.Soft → t.mode.mode = p.mode.mode

/-- A FEED or DECK pair that is not PRESENT stays as it was (R130). -/
theorem Part.commitTests_absent {pre : Part} (sent : p.AllSent) {x : Pair} (named : x = .deck ∨ ∃ i, x = .feed i)
    (absent : (p.pair x).state.isPresent = false) : (judgeAll (commitTests pre) p).1.pair x = p.pair x := by
  have other : judgedOfJacks x = false := (Judging.On.again x (.inr named)).other
  refine (judgeAll_keeps (P := fun q => p.Within q ∧ q.pair x = p.pair x) (fun f m q ⟨within, here⟩ =>
    ⟨within.test m, ?_⟩) ⟨⟨.refl p, sent⟩, rfl⟩).2
  by_cases on : f.On x
  · cases on with
    | takes x taken => rcases named with rfl | ⟨i, rfl⟩ <;> nomatch taken
    | again x _ => rwa [(within.sent.reasserting x).2.2 (by rw [here]; exact absent)]
  · rwa [within.other m (fun j => .inl fun meets => by
      rw [Part.judgedOfJacks_of_meets meets] at other
      nomatch other) on]

theorem Part.Within.tests (h : p.Within p) (pre : Part) : p.Within (judgeAll (commitTests pre) p).1 :=
  judgeAll_keeps (fun _ m _ within => within.test m) h

/-- The tests of a commit, COMPOUND's the last, before the ring stops. -/
theorem Part.commitTests_judged (pre : Part) (sent : p.AllSent) (q : Part) (r : Part)
    (tests : (judgeAll (commitTests pre) p).1 = q) (compound : (Machine.compoundJudging q).1 = r) :
    p.Judged r ∧ r.AllSent ∧ (∀ x, x ≠ .compound → r.pair x = q.pair x)
      ∧ ((r.pair .compound).state ≠ .notPresent ↔ p.bank.sectorStopLimit < r.stoppedSectors) := by
  have within := Part.Within.tests ⟨.refl p, sent⟩ pre
  rw [tests] at within
  obtain ⟨touches, state, -⟩ := within.sent.compoundJudging
  rw [compound] at touches state
  refine ⟨within.judged.trans touches.judged, touches.judged.allSent within.sent, touches.others, ?_⟩
  rwa [Part.bank, within.judged.cfg] at state

theorem Part.commitTests_calm (pre : Part) (sent : p.AllSent) (soft : p.Soft) :
    (judgeAll (commitTests pre ++ [Machine.compoundJudging]) p).2 = false := by
  have start : p.Within p ∧ ∀ x, (p.pair x).stopsSector = (p.pair x).stopsSector := ⟨⟨.refl p, sent⟩, fun _ => rfl⟩
  have step : ∀ f ∈ commitTests pre, ∀ q, p.Within q ∧ (∀ x, (q.pair x).stopsSector = (p.pair x).stopsSector) →
      (p.Within (f q).1 ∧ ∀ x, ((f q).1.pair x).stopsSector = (p.pair x).stopsSector) ∧ (f q).2 = false := by
    intro f m q ⟨within, stops⟩
    obtain ⟨same, calm⟩ := within.sent.commitTest_mild m fun x => by
      simpa only [Part.bank, within.judged.cfg] using soft.1 x
    exact ⟨⟨within.test m, fun x => (same x).trans (stops x)⟩, calm⟩
  obtain ⟨within, stops⟩ := judgeAll_keeps (fun f m q h => (step f m q h).1) start
  have low : (judgeAll (commitTests pre) p).1.stoppedSectors ≤ (judgeAll (commitTests pre) p).1.bank.sectorStopLimit := by
    rw [Part.stoppedSectors_congr stops, Part.bank, within.judged.cfg]
    exact soft.2
  have calm := judgeAll_calm step start
  rw [judgeAll_append, judgeAll_singleton]
  generalize (judgeAll (commitTests pre) p).1 = q at *
  rw [calm, within.sent.compoundJudging.2.2 low]
  rfl

theorem isTaken_ne {x : Pair} (h : isTaken x = true) : x ≠ .compound := by
  rintro rfl
  nomatch h

/-- A commit judged, from the part in which the pairs that no jack meets have ceased. -/
theorem Part.commitEvent (pre : Part) (sent : p.AllSent) (flushed : p.Flushed)
    (unmet : ∀ x, judgedOfJacks x = true → (∀ j, p.meets j ≠ some x) → (p.pair x).state.isPresent = false) :
    pre.CommitJudged p (p.event (commitTests pre ++ [Machine.compoundJudging])) := by
  generalize tests : (judgeAll (commitTests pre) p).1 = q
  generalize compound : (Machine.compoundJudging q).1 = r
  obtain ⟨judged, sent', others, state⟩ := Part.commitTests_judged pre sent q r tests compound
  have result : (judgeAll (commitTests pre ++ [Machine.compoundJudging]) p).1 = r := by
    rw [judgeAll_append, judgeAll_singleton, ← compound, ← tests]
  have flushed' : r.Flushed := fun away => by
    refine List.eq_nil_iff_forall_not_mem.2 fun e m => ?_
    have := judged.queue e m
    rw [flushed (by rw [← judged.mode]; exact away)] at this
    nomatch this
  have jackPair : ∀ x, judgedOfJacks x = true → x ≠ .compound ∧ x ≠ .spread ∧ ∀ k, x ≠ .starve k := fun x h => by
    refine ⟨?_, ?_, fun k => ?_⟩ <;> rintro rfl <;> nomatch h
  have unmet' : ∀ x, judgedOfJacks x = true → (∀ j, p.meets j ≠ some x) → (r.pair x).state.isPresent = false :=
    fun x jacks none => by
      rw [others x (jackPair x jacks).1, ← tests]
      exact Part.commitTests_unmet sent jacks none (unmet x jacks none)
  have met : ∀ x j, p.meets j = some x → pre.meets j ≠ some x → (r.pair x).state = .present (p.bank.condMode x) :=
    fun x j meets new => by
      rw [others x (jackPair x (Part.judgedOfJacks_of_meets meets)).1, ← tests]
      exact Part.commitTests_met sent meets new
  have stillMet : ∀ x j m, p.meets j = some x → (∀ i, p.meets i = some x → pre.meets i = some x) →
      (p.pair x).state = .present m → (r.pair x).state = .present (reapplied (p.bank.condMode x) m) :=
    fun x j m meets old present => by
      rw [others x (jackPair x (Part.judgedOfJacks_of_meets meets)).1, ← tests]
      exact Part.commitTests_stillMet sent meets old present
  have again : ∀ x, (x = .deck ∨ ∃ i, x = .feed i) → ((p.pair x).state.isPresent = false → r.pair x = p.pair x)
      ∧ ∀ m, (p.pair x).state = .present m → (r.pair x).state = .present (reapplied (p.bank.condMode x) m) :=
    fun x named => by
      have away : x ≠ .compound := by rcases named with rfl | ⟨i, rfl⟩ <;> nofun
      rw [others x away, ← tests]
      exact ⟨Part.commitTests_absent sent named, fun m present =>
        Part.commitTests_again sent (.inr named) (fun taken => by
          rcases named with rfl | ⟨i, rfl⟩ <;> nomatch taken) present⟩
  have taken : ∀ x, isTaken x = true → (p.inputOf x = false → (r.pair x).state = .notPresent)
      ∧ (p.inputOf x = true → ∀ m, (p.pair x).state = .present m →
        (r.pair x).state = .present (reapplied (p.bank.condMode x) m)) := fun x taken => by
    rw [others x (isTaken_ne taken), ← tests]
    exact ⟨Part.commitTests_ceases sent taken, fun input m present =>
      Part.commitTests_again sent (.inl taken) (fun _ => input) present⟩
  have calm := Part.commitTests_calm (p := p) pre sent
  unfold Part.event
  dsimp only
  rw [result]
  by_cases stops : (judgeAll (commitTests pre ++ [Machine.compoundJudging]) p).2 = true ∧ r.mode.mode.isStopped = false
  · obtain ⟨asks, running⟩ := stops
    rw [if_pos asks]
    have halted := sent'.enterStopped running flushed'
    have mode : r.mode.mode = p.mode.mode := by rw [judged.mode]
    have named : ∀ x, (x = .deck ∨ ∃ i, x = .feed i) → r.enterStopped.pair x = r.pair x := fun x named =>
      halted.pairs x (by rcases named with rfl | ⟨i, rfl⟩ <;> nofun) (by rcases named with rfl | ⟨i, rfl⟩ <;> nofun)
    have jacks : ∀ x, judgedOfJacks x = true → r.enterStopped.pair x = r.pair x := fun x h =>
      halted.pairs x (jackPair x h).2.1 (jackPair x h).2.2
    refine ⟨judged.toTrims.trans halted.toTrims, fun x h none => ?_, fun x j meets new => ?_,
      fun x j m meets old present => ?_, fun x h => ?_, fun k => ?_, ?_, .inr ⟨mode ▸ running, ?_, halted.stopOut,
        halted.sup, halted.empty⟩, fun soft => ?_⟩
    · rw [jacks x h]; exact unmet' x h none
    · rw [jacks x (Part.judgedOfJacks_of_meets meets)]; exact met x j meets new
    · rw [jacks x (Part.judgedOfJacks_of_meets meets)]; exact stillMet x j m meets old present
    · rw [named x h]; exact again x h
    · rw [halted.pairs (.bond k) nofun nofun]; exact taken (.bond k) rfl
    · rw [halted.pairs .compound nofun nofun, halted.stoppedSectors]; exact state
    · rw [halted.mode, mode]
    · rw [calm soft] at asks
      nomatch asks
  · have kept : (if (judgeAll (commitTests pre ++ [Machine.compoundJudging]) p).2 = true then r.enterStopped else r) = r := by
      split
      · next asks => exact Part.enterStopped_stopped (by simpa [asks] using stops)
      · rfl
    rw [kept]
    exact ⟨judged.toTrims, unmet', met, stillMet, again, fun k => taken (.bond k) rfl, state, .inl ⟨judged, taken⟩,
      fun _ => by rw [judged.mode]⟩

end

end Sys2Proof.Machine
end

section
/-! SUPPORT. A commit applied (R161), up to MON: the tables, the deferred queue and the feed nodes. -/

namespace Sys2Proof.Machine

/-! ### The tables alone -/

/-- Only the jack table and the layer table differ. -/
def DeckOnly (p q : Part) : Prop := q = { p with jacks := q.jacks, sectors := q.sectors }

theorem DeckOnly.refl (p : Part) : DeckOnly p p := rfl

theorem DeckOnly.trans {p q r : Part} (a : DeckOnly p q) (b : DeckOnly q r) : DeckOnly p r := by
  unfold DeckOnly at *
  rw [b, a]

theorem DeckOnly.of_jacks {p q : Part} (h : JacksOnly p q) : DeckOnly p q := by
  unfold JacksOnly at h
  unfold DeckOnly
  rw [h]

theorem Part.retireFrom_only (p : Part) (n : Nat) (k : SectorId) : DeckOnly p (p.retireFrom n k) := by
  unfold Part.retireFrom
  split <;> rfl

theorem Part.retires_only (p : Part) (bottom : SectorId → Nat) (l : List SectorId) :
    DeckOnly p (l.foldl (fun q k => q.retireFrom (bottom k) k) p) := by
  induction l generalizing p with
  | nil => exact .refl p
  | cons k l ih => exact (p.retireFrom_only (bottom k) k).trans (ih _)

/-! ### Feed nodes at a commit (R96) -/

/-- A feed node that the commit disables or moves to another address (R96). -/
def Bank.drops (old new : Bank) (f : FeedId) : Prop :=
  old.feeds[f].enabled = true ∧ (new.feeds[f].enabled = false ∨ old.feeds[f].node ≠ new.feeds[f].node)

/-- What R96 makes of the feed nodes of a list. -/
structure Part.FeedsMoved (old : Bank) (l : List FeedId) (p q : Part) : Prop where
  adm : q.adm = p.adm
  xt : q.xt = p.xt
  bank : q.bank = p.bank
  dropped : ∀ f ∈ l, old.drops p.bank f → q.feed f = ⟨.ready, none⟩ ∧ (q.pair (.feed f)).state = .notPresent
  kept : ∀ f, f ∉ l ∨ ¬ old.drops p.bank f → q.feed f = p.feed f ∧ q.pair (.feed f) = p.pair (.feed f)
  others : ∀ x, (∀ f, x ≠ .feed f) → q.pair x = p.pair x
  stops : ∀ x, (q.pair x).stopsSector = (p.pair x).stopsSector ∧ (q.pair x).stopsRing = (p.pair x).stopsRing

theorem Part.feedTransition_moves (old : Bank) (p : Part) (f : FeedId) : p.FeedsMoved old [f] (p.feedTransition old f) := by
  have test : (old.feeds[f].enabled
      && (!(p.feedEntry f).enabled || old.feeds[f].node != (p.feedEntry f).node)) = true ↔ old.drops p.bank f := by
    simp only [Bool.and_eq_true, Bool.or_eq_true, Bool.not_eq_true', bne_iff_ne, Bank.drops]
    rfl
  unfold Part.feedTransition
  split
  · next h =>
    have drops := test.1 h
    have pair := fun x => (p.setFeed f ⟨.ready, none⟩).cease_pair (.feed f) x
    refine ⟨rfl, rfl, rfl, fun i m _ => ?_, fun i out => ?_, fun x away => ?_, fun x => ?_⟩
    · rw [List.mem_singleton.1 m, pair, if_pos rfl]
      exact ⟨p.feed_setFeed f _, rfl⟩
    · have away : i ≠ f := by
        rintro rfl
        exact out.elim (fun no => no (List.mem_singleton_self i)) fun no => no drops
      rw [pair, if_neg fun same => away (Pair.feed.inj same)]
      exact ⟨p.feed_setFeed_ne _ away, rfl⟩
    · rw [pair, if_neg (away f)]
      rfl
    · rw [pair]
      split
      · next same => rw [same]; exact ⟨rfl, rfl⟩
      · exact ⟨rfl, rfl⟩
  · next h =>
    refine ⟨rfl, rfl, rfl, fun i m drops => ?_, fun _ _ => ⟨rfl, rfl⟩, fun _ _ => rfl, fun _ => ⟨rfl, rfl⟩⟩
    rw [List.mem_singleton.1 m] at drops
    exact absurd (test.2 drops) h

theorem Part.FeedsMoved.cons {old : Bank} {f : FeedId} {l : List FeedId} {p q r : Part} (out : f ∉ l)
    (a : p.FeedsMoved old [f] q) (b : q.FeedsMoved old l r) : p.FeedsMoved old (f :: l) r := by
  refine ⟨b.adm.trans a.adm, b.xt.trans a.xt, b.bank.trans a.bank, fun i m drops => ?_, fun i stays => ?_,
    fun x away => (b.others x away).trans (a.others x away),
    fun x => ⟨(b.stops x).1.trans (a.stops x).1, (b.stops x).2.trans (a.stops x).2⟩⟩
  · rcases List.mem_cons.1 m with rfl | m
    · obtain ⟨feed, pair⟩ := b.kept i (.inl out)
      rw [feed, pair]
      exact a.dropped i (List.mem_singleton_self i) drops
    · exact b.dropped i m (a.bank ▸ drops)
  · obtain ⟨feed, pair⟩ := b.kept i (stays.imp (fun no m => no (List.mem_cons_of_mem _ m)) (a.bank ▸ ·))
    obtain ⟨feed', pair'⟩ := a.kept i (stays.imp_left fun no m => no (List.mem_singleton.1 m ▸ List.mem_cons_self))
    exact ⟨feed.trans feed', pair.trans pair'⟩

theorem Part.feedTransitions_moves (old : Bank) (p : Part) :
    p.FeedsMoved old feedIds (feedIds.foldl (Part.feedTransition old) p) := by
  have go : ∀ (l : List FeedId) (q : Part), l.Nodup → q.FeedsMoved old l (l.foldl (Part.feedTransition old) q) := by
    intro l
    induction l with
    | nil => exact fun q _ => ⟨rfl, rfl, rfl, nofun, fun _ _ => ⟨rfl, rfl⟩, fun _ _ => rfl, fun _ => ⟨rfl, rfl⟩⟩
    | cons f l ih =>
      intro q once
      obtain ⟨out, once⟩ := List.nodup_cons.1 once
      exact .cons out (q.feedTransition_moves old f) (ih _ once)
  exact go feedIds p (List.nodup_finRange 8)

/-! ### What the queue and the table hold at a commit -/

/-- The queue holds entries of a list, and the table LIFTs in SENT that passes have opened for them or for the round. -/
structure Part.Drawn (l : List Entry) (p : Part) : Prop where
  queue : ∀ e ∈ p.adm.queue, ∃ d ∈ l, e = { d with reason := e.reason }
  table : ∀ c ∈ p.xt.table, c.phase = .sent ∧ c.DrawnFrom l

namespace Part.Drawn

variable {l : List Entry} {p q : Part}

theorem passed (h : p.Drawn l) (next : p.Passed q) : q.Drawn l := by
  refine ⟨fun e m => ?_, fun c m => ?_⟩
  · obtain ⟨d, here, same⟩ := next.queue e m
    obtain ⟨f, there, before⟩ := h.queue d here
    exact ⟨f, there, by rw [same, before]⟩
  · rcases next.table c m with m | ⟨sent, drawn⟩
    · exact h.table c m
    · exact ⟨sent, drawn.mono h.queue⟩

theorem trims (h : p.Drawn l) (next : p.Trims q) : q.Drawn l := by
  refine ⟨fun e m => h.queue e (next.queue e m), fun c m => ?_⟩
  obtain ⟨d, here, same⟩ := next.table c m
  rw [same]
  exact h.table d here

theorem congr (h : p.Drawn l) (adm : q.adm = p.adm) (xt : q.xt = p.xt) : q.Drawn l :=
  ⟨adm ▸ h.queue, xt ▸ h.table⟩

theorem allSent (h : p.Drawn l) : p.AllSent := fun c m => (h.table c m).1

end Part.Drawn

/-! ### Up to MON -/

/-- The shadow in force and the REPLY COMMITTED (R161). -/
def Part.banked (p : Part) (tag : Tag) : Part :=
  ({ p with cfg := ⟨p.cfg.shadow, p.cfg.shadow, .idle, p.cfg.shadow.tableSum⟩ } : Part).reply tag codeCommit outCommitted []

/-- The jack table and the layer table at a commit (R12, R13, R31, R40). -/
def Part.resited (p : Part) (tag : Tag) : Part :=
  sectorIds.foldl (fun q k => q.retireFrom (p.sectorBottom k) k) ((p.banked tag).jackTransitions p.bank).catchUp

/-- After the removals: a pass, where a jack has moved or its state changed, and the round list without the jacks that
climb no more (R6). -/
def Part.commitTold (pre p r : Part) : Part := jackIds.foldl pre.tellMode (if pre.stirred p then r.admPass else r)

theorem Part.commitJackReport_eq (pre p : Part) : pre.commitJackReport p = pre.commitTold p.catchUp
    (sectorIds.foldl (fun q k => q.retireFrom (pre.sectorBottom k) k) p.catchUp).commitRemovals := rfl

theorem Part.commitTold_passed (pre p r : Part) : Quiet r (pre.commitTold p r) ∧ r.Passed (pre.commitTold p r) := by
  unfold Part.commitTold
  split
  · exact ⟨r.admPass_quiet.trans (Quiet.foldl (fun q j => q.tellMode_quiet pre j) _ _),
      r.admPass_passed.trans (.foldl (fun q j => q.tellMode_passed pre j) _ _)⟩
  · exact ⟨Quiet.foldl (fun q j => q.tellMode_quiet pre j) _ _, .foldl (fun q j => q.tellMode_passed pre j) _ _⟩

/-- Admission and MODE told of the tables (R6, R59, R60). -/
def Part.resitedTold (p : Part) (tag : Tag) : Part :=
  p.commitTold ((p.banked tag).jackTransitions p.bank).catchUp (p.resited tag).commitRemovals

/-- Feed nodes, the layer table's report and the last pass (R40, R96, R161). -/
def Part.passedAll (p : Part) (tag : Tag) : Part :=
  (sectorIds.foldl p.commitLayerReport (feedIds.foldl (Part.feedTransition p.bank) (p.resitedTold tag))).admPass

theorem Part.applyBank_eq (p : Part) (tag : Tag) :
    p.applyBank tag = (p.commitMon (p.passedAll tag)).creepPassIfWaiting := by
  unfold Part.passedAll Part.resitedTold Part.resited
  rw [← Part.commitJackReport_eq]
  rfl

section
variable (p : Part) (tag : Tag)

theorem Part.banked_rest : (p.banked tag).jacks = p.jacks ∧ (p.banked tag).sectors = p.sectors
    ∧ (p.banked tag).adm = p.adm ∧ (p.banked tag).xt = p.xt ∧ (p.banked tag).feeds = p.feeds
    ∧ (p.banked tag).mode = p.mode ∧ (p.banked tag).sup = p.sup ∧ (p.banked tag).stopOut = p.stopOut
    ∧ (p.banked tag).cfg = ⟨p.cfg.shadow, p.cfg.shadow, .idle, p.cfg.shadow.tableSum⟩
    ∧ (∀ x, (p.banked tag).pair x = p.pair x) ∧ (p.banked tag).mon.blanking = p.mon.blanking := by
  refine ⟨?_, ?_, ?_, ?_, ?_, ?_, ?_, ?_, ?_, fun x => ?_, ?_⟩
  case refine_10 => exact Part.emit_pair _ _ _ _ _ x
  case refine_11 => exact Part.emit_blanking _ _ _ _ _
  all_goals simp [Part.banked]

theorem Part.resited_only : DeckOnly (p.banked tag) (p.resited tag) :=
  ((DeckOnly.of_jacks ((p.banked tag).jackTransitions_only p.bank)).trans
    (.of_jacks (Part.catchUp_only _))).trans (Part.retires_only _ _ _)

theorem Part.resited_rest : (p.resited tag).adm = p.adm ∧ (p.resited tag).xt = p.xt ∧ (p.resited tag).feeds = p.feeds
    ∧ (p.resited tag).mode = p.mode ∧ (p.resited tag).sup = p.sup ∧ (p.resited tag).stopOut = p.stopOut
    ∧ (p.resited tag).cfg = ⟨p.cfg.shadow, p.cfg.shadow, .idle, p.cfg.shadow.tableSum⟩
    ∧ (∀ x, (p.resited tag).pair x = p.pair x) ∧ (p.resited tag).mon.blanking = p.mon.blanking := by
  obtain ⟨-, -, adm, xt, feeds, mode, sup, stopOut, cfg, pairs, blanking⟩ := p.banked_rest tag
  have only := p.resited_only tag
  have mon : (p.resited tag).mon = (p.banked tag).mon := congrArg (·.mon) only
  exact ⟨(congrArg (·.adm) only).trans adm, (congrArg (·.xt) only).trans xt, (congrArg (·.feeds) only).trans feeds,
    (congrArg (·.mode) only).trans mode, (congrArg (·.sup) only).trans sup,
    (congrArg (·.stopOut) only).trans stopOut, (congrArg (·.cfg) only).trans cfg,
    fun x => (Part.pair_of_pairs (congrArg (·.pairs) mon) x).trans (pairs x), (congrArg (·.blanking) mon).trans blanking⟩

/-- The tables at a commit (R12, R13, R31). -/
theorem Part.resited_tables (layers : p.LayerLaw) : CaughtUp p.cfg.shadow.spreadAdmit p.entered (p.resited tag)
    ∧ p.LayersRetired (p.resited tag) := by
  obtain ⟨jacks, sectors, -, -, -, -, -, -, cfg, -, -⟩ := p.banked_rest tag
  have first := (p.banked tag).jackTransitions_only p.bank
  have second := ((p.banked tag).jackTransitions p.bank).catchUp_only
  have third := (((p.banked tag).jackTransitions p.bank).catchUp).retires_rest p.sectorBottom sectorIds
  have bank : ((p.banked tag).jackTransitions p.bank).bank = p.cfg.shadow := by rw [Part.bank, first.cfg, cfg]
  have caught := Part.catchUp_caughtUp (p := (p.banked tag).jackTransitions p.bank)
    (Part.jackTransitions_jack (p := p) jacks (by rw [Part.bank, cfg]))
  rw [bank] at caught
  refine ⟨caught.congr third.1, Part.layersRetired ?_ layers third.1 third.2.1 fun k => Part.retires_sector _ _ k⟩
  exact ((congrArg (·.sectors) second).trans (congrArg (·.sectors) first)).trans sectors

end

end Sys2Proof.Machine
end

section
/-! SUPPORT. A commit applied (R161), as the rules give it, and so the end of every event (R148, R160 to R162). -/

namespace Sys2Proof.Machine

/-! ### The part that MON finds -/

/-- The part that MON finds at a commit: the tables, the queue, the table of commands and the feed nodes. -/
structure Part.CommitReady (p t : Part) : Prop where
  caught : CaughtUp p.cfg.shadow.spreadAdmit p.entered t
  layers : p.LayersRetired t
  drawn : t.Drawn (p.adm.queue.filter fun e => p.removal e = none)
  reason : ∀ e ∈ t.adm.queue, e.reason ≠ .commit
  told : ∀ e ∈ p.adm.queue, ∀ why, p.removal e = some why → t.TellsRefused e why
  dropped : ∀ f, Bank.drops p.cfg.active p.cfg.shadow f → t.feed f = ⟨.ready, none⟩
    ∧ (t.pair (.feed f)).state = .notPresent
  kept : ∀ f, ¬ Bank.drops p.cfg.active p.cfg.shadow f → t.feed f = p.feed f ∧ t.pair (.feed f) = p.pair (.feed f)
  others : ∀ x, (∀ f, x ≠ .feed f) → t.pair x = p.pair x
  stops : ∀ x, (t.pair x).stopsSector = (p.pair x).stopsSector ∧ (t.pair x).stopsRing = (p.pair x).stopsRing
  cfg : t.cfg = ⟨p.cfg.shadow, p.cfg.shadow, .idle, p.cfg.shadow.tableSum⟩
  mode : t.mode.mode = p.mode.mode
  timer : t.mode.creepTimer = p.mode.creepTimer
  sup : t.sup = p.sup
  stopOut : t.stopOut = p.stopOut
  blanking : t.mon.blanking = p.mon.blanking

/-- Whether an entry stands is no matter of its reason. -/
theorem Part.entryStands_reason (p : Part) (e : Entry) (r : Reason) :
    p.entryStands { e with reason := r } = p.entryStands e := rfl

section
variable {p : Part} {tag : Tag}

/-- Whether an entry stands in the new tables is whether the commit does not remove it (R59, R60). -/
theorem Part.resited_stands (layers : p.LayerLaw) (e : Entry) :
    (p.resited tag).entryStands e = true ↔ p.removal e = none := by
  obtain ⟨-, -, -, -, -, -, cfg, pairs, -⟩ := p.resited_rest tag
  obtain ⟨caught, -⟩ := p.resited_tables tag layers
  have climbs : ((p.resited tag).jack e.jack).state.climbs = true
      ↔ ¬((p.entered e.jack).state ≠ .active ∧ (p.entered e.jack).state ≠ .catchup) := by
    rw [caught e.jack, ← JackState.climbs_false, Bool.not_eq_false]
    split
    · next h => rw [h.1]; rfl
    · rfl
  have stopped : (p.resited tag).sectorStopped = p.sectorStopped := by
    funext k
    exact Quiet.sectorStopped_congr (fun x => by rw [pairs]) k
  have bank : (p.resited tag).bank = p.cfg.shadow := by rw [Part.bank, cfg]
  simp only [Part.entryStands, Bool.and_eq_true, Bool.not_eq_true', climbs, Part.sectorOf, Part.jackEntry, bank, stopped,
    beq_iff_eq, Part.removal]
  split_ifs <;> simp_all

/-- What removals leave of the queue, and the empty table (R59, R60). -/
theorem Part.resited_drawn (layers : p.LayerLaw) (once : p.waiting.Nodup) (table : p.xt.table = []) :
    (p.resited tag).commitRemovals.Drawn (p.adm.queue.filter fun e => p.removal e = none) := by
  obtain ⟨adm, xt, -⟩ := p.resited_rest tag
  have once' : (p.resited tag).waiting.Nodup := by rwa [Part.waiting, adm]
  refine ⟨fun e m => ⟨e, ?_, rfl⟩, fun c m => ?_⟩
  · rw [Part.mem_commitRemovals once', Part.resited_stands layers, adm] at m
    exact List.mem_filter.2 ⟨m.1, by simpa using m.2⟩
  · rw [show (p.resited tag).commitRemovals.xt = (p.resited tag).xt by simp [Part.commitRemovals, Part.removeEntries_xt],
      xt, table] at m
    nomatch m

/-- Each entry removed is answered (R59, R60). -/
theorem Part.resited_tells (layers : p.LayerLaw) (once : p.waiting.Nodup) {e : Entry} (here : e ∈ p.adm.queue)
    {why : Byte} (removed : p.removal e = some why) : (p.resited tag).commitRemovals.TellsRefused e why := by
  obtain ⟨adm, -, -, -, -, -, cfg, pairs, -⟩ := p.resited_rest tag
  obtain ⟨caught, -⟩ := p.resited_tables tag layers
  have once' : (p.resited tag).waiting.Nodup := by rwa [Part.waiting, adm]
  obtain ⟨rests, moved, stopped⟩ := Part.commitRemovals_tells once' (e := e) (by rwa [adm])
  have climbs : ((p.resited tag).jack e.jack).state.climbs = (p.entered e.jack).state.climbs := by
    rw [caught e.jack]
    split
    · next h => rw [h.1]; rfl
    · rfl
  have halted : (p.resited tag).sectorStopped = p.sectorStopped := by
    funext k
    exact Quiet.sectorStopped_congr (fun x => by rw [pairs]) k
  simp only [climbs, Part.jackEntry, Part.sectorOf, Part.bank, cfg, halted] at rests moved stopped
  unfold Part.removal at removed
  split at removed
  · next off =>
    cases removed
    exact rests (JackState.climbs_false.2 off)
  · next on =>
    have on : (p.entered e.jack).state.climbs = true := Bool.not_eq_false _ ▸ fun off => on (JackState.climbs_false.1 off)
    split at removed
    · next away =>
      cases removed
      exact moved on away
    · next there =>
      split at removed
      · next stop =>
        cases removed
        exact stopped on (not_not.1 there) stop
      · nomatch removed

/-- The REPLY COMMITTED is the first frame of the commit (R161). -/
theorem Part.passedAll_grows (p : Part) (tag : Tag) : Grows (p.banked tag) (p.passedAll tag) := by
  have told := (p.commitTold_passed ((p.banked tag).jackTransitions p.bank).catchUp (p.resited tag).commitRemovals).1
  have fed := Quiet.foldl (fun q f => q.feedTransition_quiet p.bank f) feedIds (p.resitedTold tag)
  have reports := Quiet.foldl (fun q k => q.commitLayerReport_quiet p k) sectorIds
    (feedIds.foldl (Part.feedTransition p.bank) (p.resitedTold tag))
  have same : Grows (p.banked tag) (p.resited tag) := .same (congrArg (·.sendQueue) (p.resited_only tag))
  exact same.trans ((p.resited tag).commitRemovals_quiet.trans
    (told.trans (fed.trans (reports.trans (Part.admPass_quiet _))))).grows

/-- Everything a commit does before MON acts (R161). -/
theorem Part.passedAll_ready (layers : p.LayerLaw) (once : p.waiting.Nodup) (table : p.xt.table = []) :
    p.CommitReady (p.passedAll tag) := by
  obtain ⟨adm, xt, feeds, mode, sup, stopOut, cfg, pairs, blanking⟩ := p.resited_rest tag
  obtain ⟨caught, retired⟩ := p.resited_tables tag layers
  have removed := (p.resited tag).commitRemovals_quiet
  obtain ⟨told, passed⟩ := p.commitTold_passed ((p.banked tag).jackTransitions p.bank).catchUp (p.resited tag).commitRemovals
  have moves := Part.feedTransitions_moves p.bank (p.resitedTold tag)
  have fed := Quiet.foldl (fun q f => q.feedTransition_quiet p.bank f) feedIds (p.resitedTold tag)
  have reports := Quiet.foldl (fun q k => q.commitLayerReport_quiet p k) sectorIds
    (feedIds.foldl (Part.feedTransition p.bank) (p.resitedTold tag))
  have reported := Part.Passed.foldl (fun q k => q.commitLayerReport_passed p k) sectorIds
    (feedIds.foldl (Part.feedTransition p.bank) (p.resitedTold tag))
  unfold Part.passedAll
  change Quiet _ (p.resitedTold tag) at told
  change Part.Passed _ (p.resitedTold tag) at passed
  generalize p.resitedTold tag = a at *
  generalize feedIds.foldl (Part.feedTransition p.bank) a = b at *
  generalize sectorIds.foldl p.commitLayerReport b = c at *
  have before : Quiet (p.resited tag) c := removed.trans (told.trans (fed.trans reports))
  have quiet := before.trans c.admPass_quiet
  have keeps := quiet.keeps
  have drawn : c.Drawn (p.adm.queue.filter fun e => p.removal e = none) :=
    (((Part.resited_drawn layers once table).passed passed).congr moves.adm moves.xt).passed reported
  have stands : ∀ e ∈ c.adm.queue, c.entryStands e = true := fun e m => by
    obtain ⟨d, here, same⟩ := drawn.queue e m
    rw [Part.entryStands_keeps before.keeps, same, Part.entryStands_reason]
    exact (Part.resited_stands layers d).2 (by simpa using (List.mem_filter.1 here).2)
  have idle : c.commitPending = false := by rw [Part.commitPending, before.keeps.cfg, cfg]; rfl
  have once' : c.waiting.Nodup := before.waiting.nodup (by rwa [Part.waiting, adm])
  have bank : a.bank = p.cfg.shadow := by rw [Part.bank, (removed.trans told).keeps.cfg, cfg]
  have lastPass := reported.trans c.admPass_passed
  have removedPass : (p.resited tag).Passed a := by
    refine .trans ?_ passed
    exact ((Part.removeEntries_passed _ _ _).trans (Part.removeEntries_passed _ _ _)).trans
      (Part.removeEntries_passed _ _ _)
  have pair : ∀ x, a.pair x = p.pair x := fun x => (removedPass.pair x).trans (pairs x)
  refine ⟨caught.congr keeps.jacks, ?_, drawn.passed c.admPass_passed, Part.passWith_reason idle once' _ stands,
    fun e here why out => ?_, fun f drops => ?_, fun f stays => ?_, fun x away => ?_, fun x => ?_, keeps.cfg.trans cfg,
    keeps.climb.trans (congrArg (·.mode) mode), keeps.timer.trans (congrArg (·.creepTimer) mode),
    keeps.sup.trans sup, keeps.stopOut.trans stopOut, keeps.blanking.trans blanking⟩
  · intro k
    have sector : c.admPass.sector k = (p.resited tag).sector k := by simp only [Part.sector, keeps.sectors]
    rw [Part.sectorBottom_congr keeps.jacks keeps.cfg sector, sector]
    exact retired k
  · exact (Part.resited_tells layers once here out).grows (told.trans (fed.trans (reports.trans c.admPass_quiet))).grows
  · obtain ⟨feed, state⟩ := moves.dropped f (mem_feedIds f) (bank ▸ drops)
    exact ⟨(lastPass.feed f).trans feed, by rw [lastPass.pair]; exact state⟩
  · obtain ⟨feed, same⟩ := moves.kept f (.inr (bank ▸ stays))
    refine ⟨(lastPass.feed f).trans (feed.trans ((removedPass.feed f).trans ?_)), (lastPass.pair _).trans (same.trans (pair _))⟩
    simp only [Part.feed, feeds]
  · exact (lastPass.pair x).trans ((moves.others x away).trans (pair x))
  · rw [lastPass.pair, (moves.stops x).1, (moves.stops x).2, pair]
    exact ⟨rfl, rfl⟩

end

/-! ### The commit as a whole -/

section
variable {p : Part}

theorem Part.meets_iff {j : JackId} {x : Pair} : p.meets j = some x ↔ p.Meets j x := by
  unfold Part.meets Part.Meets
  cases state : (p.jack j).state with
  | faulted cause => cases cause <;> simp [eq_comm]
  | active | catchup => by_cases rod : (p.jack j).rod = 0 <;> simp [rod, eq_comm]
  | _ => simp

theorem Part.offer_queue (j : JackId) : (p.offer j).adm.queue = p.adm.queue := by
  unfold Part.offer
  split
  · rfl
  · split <;> rfl

/-- Creep defers nothing. -/
theorem Part.creepPassIfWaiting_queue : p.creepPassIfWaiting.adm.queue = p.adm.queue := by
  have tested (q : Part) : q.dropStuck.endRoundTest.adm.queue = q.adm.queue := by
    unfold Part.endRoundTest Part.dropStuck
    split <;> split <;> rfl
  unfold Part.creepPassIfWaiting
  split
  · rfl
  · exact (tested _).trans (foldl_law (P := fun q : Part => q.adm.queue = p.adm.queue)
      (fun q j h => (Part.offer_queue j).trans h) _ p rfl)

/-- What the pairs that cease at a commit leave of the part that MON finds (R121). -/
theorem Part.CommitReady.judged {pre : Part} (h : pre.CommitReady p) (flushed : pre.Flushed) :
    pre.CommitJudged p.ceaseAllUnmet (pre.commitMon p) := by
  have ceased := Part.ceaseAllUnmet_judged (p := p)
  rw [Part.commitMon_eq]
  refine Part.commitEvent pre (ceased.allSent h.drawn.allSent) (fun away => ?_) fun x jacks unmet => ?_
  · refine List.eq_nil_iff_forall_not_mem.2 fun e m => ?_
    obtain ⟨d, here, -⟩ := h.drawn.queue e (ceased.queue e m)
    have empty := flushed (by rw [← h.mode, ← ceased.mode]; exact away)
    rw [empty] at here
    nomatch here
  · exact (p.ceaseAllUnmet_pair x).2 jacks fun j => by rw [← ceased.meets]; exact unmet j

/-- A commit applied where no command is open (R161). -/
theorem Part.applyBank_applied (tag : Tag) (once : p.waiting.Nodup) (flushed : p.Flushed) (layers : p.LayerLaw)
    (table : p.xt.table = []) : p.CommitApplied (p.applyBank tag) tag := by
  have ready := Part.passedAll_ready (tag := tag) layers once table
  have judged := ready.judged flushed
  have rests := (p.applyBank_rests tag).1
  have grown := p.passedAll_grows tag
  have mon := (p.passedAll tag).commitMon_loud p
  rw [p.applyBank_eq tag] at rests ⊢
  generalize p.passedAll tag = a at *
  have ceased := Part.ceaseAllUnmet_judged (p := a)
  have base := fun x => (a.ceaseAllUnmet_pair x).1
  generalize p.commitMon a = b at *
  have creep := b.creepPassIfWaiting_quiet
  have keeps := creep.keeps
  have passed := b.creepPassIfWaiting_passed
  have queue := Part.creepPassIfWaiting_queue (p := b)
  generalize b.creepPassIfWaiting = t at *
  have drawn := (ready.drawn.trims (ceased.toTrims.trans judged.toTrims)).passed passed
  have later := mon.grows.trans creep.grows
  have jacks : t.jacks = a.jacks := (keeps.jacks.trans judged.jacks).trans ceased.jacks
  have cfg : t.cfg = a.cfg := (keeps.cfg.trans judged.cfg).trans ceased.cfg
  have sectors : t.sectors = a.sectors := (keeps.sectors.trans judged.sectors).trans ceased.sectors
  have clock : t.clock = a.clock := (keeps.clock.trans judged.clock).trans ceased.clock
  have mode : ∀ x, a.ceaseAllUnmet.bank.condMode x = p.cfg.shadow.condMode x := fun x => by
    rw [Part.bank, ceased.cfg, ready.cfg]
  have meets : ∀ j x, a.ceaseAllUnmet.meets j = some x ↔ t.Meets j x := fun j x => by
    rw [← Part.meets_iff, ceased.meets, Part.meets_congr jacks cfg]
  have stopped : t.stoppedSectors = b.stoppedSectors := Part.stoppedSectors_congr fun x => by rw [passed.pair]
  have still : ∀ x, (∀ f, x ≠ .feed f) → judgedOfJacks x = false → a.ceaseAllUnmet.pair x = p.pair x :=
    fun x away other => (base x (.inr other)).trans (ready.others x away)
  have feeds : ∀ f, t.feed f = a.feed f := fun f => (passed.feed f).trans (by
    simp only [Part.feed, judged.feeds, ceased.feeds])
  have bond : ∀ k, t.bondInput k = a.ceaseAllUnmet.bondInput k := (Part.inputOf_congr (jacks.trans ceased.jacks.symm)
    (sectors.trans ceased.sectors.symm) (cfg.trans ceased.cfg.symm) (clock.trans ceased.clock.symm)).1
  have judged' : ∀ x, (∃ k, x = .pressure k ∨ x = .silent k ∨ x = .trouble k ∨ x = .rod k) → judgedOfJacks x = true := by
    rintro x ⟨k, rfl | rfl | rfl | rfl⟩ <;> rfl
  refine ⟨cfg.trans ready.cfg, ?_, ?_, ready.caught.congr jacks, fun f => ⟨fun drops => ?_, fun stays => ?_⟩, ?_,
    fun e here why out => ⟨fun m => ?_, (ready.told e here why out).grows later⟩, fun e m => ⟨?_, ?_⟩, fun c m => ?_,
    fun x => ⟨fun on => ?_, fun on => ?_⟩, ?_, fun x jackPair => ⟨fun none => ?_, fun ⟨j, met, new⟩ => ?_,
      fun m ⟨j, met⟩ old present => ?_⟩, fun m present => ?_, fun f m stays present => ?_,
    fun k => ⟨?_, fun input m present => ?_⟩, ?_, fun soft => ?_⟩
  · exact Part.answers_of_grows (q := { p with cfg := ⟨p.cfg.shadow, p.cfg.shadow, .idle, p.cfg.shadow.tableSum⟩ }) rfl
      (grown.trans later)
  · exact ⟨cfg.trans ready.cfg, rests.clock, rests.owed, rests.resetCause, rests.resetWait, rests.stopIn,
      rests.resetLine, rests.order⟩
  · obtain ⟨feed, state⟩ := ready.dropped f drops
    have same := base (.feed f) (.inr rfl)
    refine ⟨(feeds f).trans feed, ?_⟩
    rw [passed.pair, (judged.again (.feed f) (.inr ⟨f, rfl⟩)).1 (by rw [same, state]; rfl), same, state]
  · exact (feeds f).trans (ready.kept f stays).1
  · intro k
    have sector : t.sector k = a.sector k := by simp only [Part.sector, sectors]
    rw [Part.sectorBottom_congr jacks cfg sector, sector]
    exact ready.layers k
  · obtain ⟨d, here, same⟩ := drawn.queue e m
    have kept : p.removal d = none := by simpa using (List.mem_filter.1 here).2
    have same : p.removal e = p.removal d := by rw [same]; rfl
    exact nomatch (out.symm.trans (same.trans kept))
  · exact ready.reason e (ceased.queue e (judged.queue e (queue ▸ m)))
  · obtain ⟨d, here, same⟩ := drawn.queue e m
    obtain ⟨here, kept⟩ := List.mem_filter.1 here
    exact ⟨d, here, of_decide_eq_true kept, same⟩
  · obtain ⟨-, round | ⟨e, here, drawn⟩⟩ := drawn.table c m
    · exact .inl round
    · obtain ⟨here, kept⟩ := List.mem_filter.1 here
      exact .inr ⟨e, here, of_decide_eq_true kept, drawn⟩
  · rw [passed.pair]
    exact judged.sector x (ceased.sector x ((ready.stops x).1.trans on))
  · rw [passed.pair]
    exact judged.ring x (ceased.ring x ((ready.stops x).2.trans on))
  · rw [passed.pair, stopped, judged.compound, Part.bank, ceased.cfg, ready.cfg]
  · rw [passed.pair]
    exact judged.unmet x (judged' x jackPair) fun j met => none j ((meets j x).1 met)
  · rw [passed.pair, judged.met x j ((meets j x).2 met) fun was => new (Part.meets_iff.1 was), mode]
  · have met' := (meets j x).2 met
    have same : a.ceaseAllUnmet.pair x = p.pair x :=
      (base x (.inl ⟨j, by rwa [ceased.meets] at met'⟩)).trans (ready.others x fun f same => by
        rw [same] at jackPair
        rcases jackPair with ⟨k, h | h | h | h⟩ <;> nomatch h)
    rw [passed.pair, judged.stillMet x j m met' (fun i met => Part.meets_iff.2 (old i ((meets i x).1 met)))
      (by rw [same]; exact present), mode]
  · rw [passed.pair, (judged.again .deck (.inl rfl)).2 m (by rw [still .deck nofun rfl]; exact present), mode]
  · have same := (base (.feed f) (.inr rfl)).trans (ready.kept f stays).2
    rw [passed.pair, (judged.again (.feed f) (.inr ⟨f, rfl⟩)).2 m (by rw [same]; exact present), mode]
  · rw [passed.pair, bond]
    cases input : a.ceaseAllUnmet.bondInput k with
    | true => exact .inr rfl
    | false => exact .inl ((judged.bond k).1 input)
  · rw [bond] at input
    rw [passed.pair, (judged.bond k).2 input m (by rw [still (.bond k) nofun rfl]; exact present), mode]
  · rcases judged.runs with ⟨runs, taken⟩ | ⟨running, halted, out, off, empty⟩
    · have climb : t.mode.mode = a.ceaseAllUnmet.mode.mode := keeps.climb.trans (by rw [runs.mode])
      have input := (Part.inputOf_congr (p := a.ceaseAllUnmet) (t := t) (jacks.trans ceased.jacks.symm)
        (sectors.trans ceased.sectors.symm) (cfg.trans ceased.cfg.symm) (clock.trans ceased.clock.symm)).2 climb
        (keeps.blanking.trans runs.blanking)
      refine .inl ⟨climb.trans ((congrArg (·.mode) ceased.mode).trans ready.mode),
        keeps.timer.trans ((congrArg (·.creepTimer) (runs.mode.trans ceased.mode)).trans ready.timer),
        keeps.sup.trans ((runs.sup.trans ceased.sup).trans ready.sup),
        keeps.stopOut.trans ((runs.stopOut.trans ceased.stopOut).trans ready.stopOut), fun x off => ?_,
        fun x m on present => ?_⟩
      · have ⟨named, off⟩ : isTaken x = true ∧ t.inputOf x = false := by
          rcases off with ⟨rfl, off⟩ | ⟨k, rfl, off⟩ <;> exact ⟨rfl, off⟩
        rw [passed.pair, (taken x named).1 ((input x).symm.trans off)]
      · have ⟨named, on⟩ : isTaken x = true ∧ t.inputOf x = true := by
          rcases on with ⟨rfl, on⟩ | ⟨k, rfl, on⟩ <;> exact ⟨rfl, on⟩
        have same : a.ceaseAllUnmet.pair x = p.pair x :=
          still x (fun f same => by rw [same] at named; nomatch named) (Judging.On.takes x named).other
        rw [passed.pair, (taken x named).2 ((input x).symm.trans on) m (by rw [same]; exact present), mode]
    · have climb : a.ceaseAllUnmet.mode.mode = p.mode.mode := (congrArg (·.mode) ceased.mode).trans ready.mode
      exact .inr ⟨climb ▸ running, keeps.climb.trans (by rw [halted, climb]), keeps.stopOut.trans out,
        by rw [keeps.sup]; exact off, queue.trans empty⟩
  · refine keeps.climb.trans ((judged.soft ?_).trans ((congrArg (·.mode) ceased.mode).trans ready.mode))
    refine ⟨fun x => by rw [mode]; exact soft.1 x, ?_⟩
    have sectors : a.ceaseAllUnmet.stoppedSectors = p.stoppedSectors :=
      (congrArg sectorIds.countP (funext fun k => a.ceaseAllUnmet_quiet.keeps.stopped k)).trans
        (Part.stoppedSectors_congr fun x => (ready.stops x).1)
    rw [sectors, Part.bank, ceased.cfg, ready.cfg]
    exact soft.2

end

end Sys2Proof.Machine
end

section
/-! SUPPORT. The end of every event (R148, R160 to R162), for whatever a course of effects has left. -/

namespace Sys2Proof.Machine

section
variable {p t : Part}

/-! ### The live checks (R161, R162) -/

/-- The first index of all that fails. -/
theorem find_finRange {n : Nat} {bad : Fin n → Bool} {j : Fin n} (here : bad j = true) (first : ∀ i, i < j → bad i = false) :
    (List.finRange n).find? bad = some j := by
  rw [List.find?_eq_some_iff_getElem]
  refine ⟨here, j.val, by simp, by simp, fun i before => ?_⟩
  have := first ⟨i, before.trans j.isLt⟩ before
  simpa using this

theorem Part.spliceMoved_iff (j : JackId) : p.spliceMoved j = true ↔ p.SpliceMoved j := by
  simp only [Part.spliceMoved, Part.SpliceMoved, Bool.and_eq_true, beq_iff_eq, Bool.not_eq_true', Bool.and_eq_false_iff,
    beq_eq_false_iff_ne, Part.sectorOf, Part.jackEntry, Part.bank, not_and_or, Bool.not_eq_true]

/-- Check 6 or else check 8 fails now (R162). -/
theorem Part.liveFailing_of_fails {n table index : Nat} (live : n = 6 ∨ (n = 8 ∧ ¬ p.CheckFails 6 0 0))
    (fails : p.CheckFails n table index) : p.liveFailing = some (table, index) := by
  rcases live with rfl | ⟨rfl, fits⟩
  · obtain ⟨named, low⟩ := fails
    obtain ⟨rfl, rfl⟩ := Prod.mk.inj named
    have low : p.spliceLimitLow = true := decide_eq_true low
    simp [Part.liveFailing, failIf, low]
  · obtain ⟨j, named, moved, first⟩ := fails
    obtain ⟨rfl, rfl⟩ := Prod.mk.inj named
    have fits : p.spliceLimitLow = false := decide_eq_false fun low => fits ⟨rfl, low⟩
    have found : jackIds.find? p.spliceMoved = some j := find_finRange ((Part.spliceMoved_iff j).2 moved)
      fun i before => Bool.eq_false_iff.2 fun moved => first i before ((Part.spliceMoved_iff i).1 moved)
    simp [Part.liveFailing, failIf, fits, firstFailing, found]

/-- Neither fails now. -/
theorem Part.liveFailing_of_passes (passes : ∀ table index, ¬ p.CheckFails 6 table index ∧ ¬ p.CheckFails 8 table index) :
    p.liveFailing = none := by
  have fits : p.spliceLimitLow = false := decide_eq_false fun low => (passes 0 0).1 ⟨rfl, low⟩
  have none : jackIds.find? p.spliceMoved = none := by
    rw [List.find?_eq_none]
    intro j _ moved
    obtain ⟨i, least, before⟩ := wellFounded_lt.has_min {j | p.SpliceMoved j} ⟨j, (Part.spliceMoved_iff j).1 moved⟩
    exact (passes 1 i.val).2 ⟨i, rfl, least, fun h below moved => before h moved below⟩
  simp [Part.liveFailing, failIf, fits, firstFailing, none]

/-! ### The end of an event -/

/-- A commit met by quiescence, applied (R161). -/
theorem Part.quiesce_applies {tag : Tag} {accepted : Clock} (pending : p.cfg.commit = .pending tag accepted)
    (empty : p.xt.table = []) (passes : p.liveFailing = none) : p.quiesce = p.leaseGranted (p.applyBank tag) := by
  unfold Part.quiesce
  simp only [pending, empty, List.isEmpty_nil, if_true, Part.applyPending, passes, Part.leaseSince_eq]

/-- The end of an event whose effects are a course from p to t, as the rules give it (R148, R160 to R162). -/
theorem Course.quiesced (h : Course p t) : p.Quiesced t (p.finish t) := by
  unfold Part.Quiesced Part.finish
  rw [Part.leaseSince_eq]
  have later : Course p (p.leaseGranted t) := h.trans (.quiet (Part.leaseSince_eq p t ▸ t.leaseSince_quiet p))
  generalize p.leaseGranted t = v at *
  refine ⟨fun rests => ?_, fun tag accepted pending empty deferred open_ layers => ⟨fun n table index live fails => ?_,
    fun passes => ?_⟩⟩
  · exact Part.quiesce_eq fun pending empty => rests.elim (fun idle => by rw [idle] at pending; nomatch pending)
      fun busy => busy empty
  · have once := later.waiting_nodup deferred.2.1
    have single : v.Single := by
      rw [Part.Single, Part.lifted, empty, List.filterMap_nil, List.append_nil]
      exact once
    exact Part.quiesce_cancels single pending empty (Part.liveFailing_of_fails live fails)
  · exact ⟨_, v.applyBank_applied tag (later.waiting_nodup deferred.2.1) (later.flushed deferred.2.2)
      (later.layerLaw layers) empty, Part.quiesce_applies pending empty (Part.liveFailing_of_passes passes)⟩

end

end Sys2Proof.Machine
end

section
/-! SUPPORT. A WAIT of a node, and the resend that it asks for (R76, R77). -/

namespace Sys2Proof.Machine

section
variable {p : Part}

/-- A command's record replaced leaves a pending commit its open command (R160). -/
theorem Part.setCommand_commitLaw (law : p.CommitLaw) (c : Command) : (p.setCommand c).CommitLaw :=
  fun pending empty => law pending (List.map_eq_nil_iff.1 empty)

/-- A WAIT that no command in SENT awaits (R77). -/
theorem Part.takeWait_unsolicited {source : Byte} {tag : Tag}
    (stray : ∀ c, p.openAt source = some c → c.tag ≠ tag ∨ c.phase = .resend) :
    p.takeWait source tag = p.raise .unsolicited := by
  unfold Part.takeWait
  split
  · next c here =>
    refine if_neg fun both => (stray c here).elim (fun other => other both.1) fun waits => ?_
    rw [waits] at both
    nomatch both.2
  · rfl

theorem Part.takeWait_answered {source : Byte} {tag : Tag} {c : Command} (here : p.openAt source = some c)
    (current : c.tag = tag) (sent : c.phase = .sent) : p.takeWait source tag = p.answeredWait c := by
  unfold Part.takeWait
  rw [here]
  exact if_pos ⟨current, sent⟩

/-- A WAIT that ends its command (R77, R79). -/
theorem Part.answeredWait_closes (single : p.Single) {c : Command} (ends : c.ending ≠ none ∨ p.bank.retryLimit ≤ c.retries) :
    p.answeredWait c = p.waitClosed c := by
  unfold Part.answeredWait Part.waitClosed
  cases ending : c.ending with
  | some e => exact Part.closeEnded_eq single c e.reason
  | none =>
    have spent : ¬ c.retries < p.bank.retryLimit := by
      rcases ends with other | spent
      · exact absurd ending other
      · omega
    exact (if_neg spent).trans (Part.closeEnded_eq (p := p.raise .nodeBusy) (single.of_eq rfl rfl) c .nodeBusy)

/-- The frame of a command under its current tag, sent again (R76). -/
theorem Part.resend_eq {node : Byte} {c : Command} (here : p.openAt node = some c) : p.resend c = { p with
    xt := ⟨p.xt.table.map fun d => if d.subject = c.subject then { c with phase := .sent, sent := p.clock } else d, p.xt.nodes⟩
    ringQueue := p.ringQueue ++ [⟨⟨node, 0, c.kind, c.tag, 0,
      match c.task with
      | .lift _ => [octet c.size]
      | .pour _ k => octet k.val :: octets2 c.size⟩, false⟩] } := by
  have dest : addrOctet (p.addrOf c.subject) = node := by
    have same : (p.addrOf c.subject).val = node.toNat := by simpa using List.find?_some here
    rw [addrOctet, octet, same, BitVec.ofNat_toNat, BitVec.setWidth_eq]
  rw [← dest]
  obtain ⟨task, _⟩ := c
  cases task <;> rfl

end

/-- A node's share of an advance that has nothing due at it. -/
theorem Part.nodeShare_idle {p : Part} {node : Byte} {due : Part → Command → Bool}
    (idle : Share.transactions ∉ p.owed ∨ ∀ c, p.openAt node = some c → due p c = false) : p.nodeShare node due = p := by
  unfold Part.nodeShare
  split
  · next owed =>
    split
    · next c here =>
      refine if_neg ?_
      rw [idle.resolve_left (not_not.2 (List.contains_iff_mem.1 owed)) c here]
      nofun
    · rfl
  · rfl

/-- Settles O53: the WAIT unsolicited, with retries left, and closing its command; the resend not due, and due. -/
theorem waitResendsOrCloses : Obligations.WaitResendsOrCloses := by
  unfold Obligations.WaitResendsOrCloses
  refine ⟨fun s source tag ready low high => ?_, fun s node wait law => ?_⟩
  · have node : isNode source = true := by simp [isNode, low, high]
    have taken : exec (.wait source tag) s = .next { s with part := s.part.finish (s.part.takeWait source tag) } := by
      have form := State.takeFrame_ready (f := Part.fromNode source (Part.takeWait source tag)) ready
      rwa [Part.fromNode, if_pos node] at form
    dsimp only
    refine ⟨fun stray => ?_, fun c here current sent => ⟨fun open_ left => ?_, fun single ends => ?_⟩⟩
    · have rest : s.part.finish (s.part.raise .unsolicited) = s.part.raise .unsolicited :=
        Part.finish_eq (Part.leaseSince_keep rfl rfl) ready.1.2.2
      rw [taken, Part.takeWait_unsolicited stray, rest]
      rfl
    · have retry : s.part.answeredWait c
          = s.part.setCommand { c with retries := c.retries + 1, phase := .resend, sent := s.part.clock } := by
        unfold Part.answeredWait
        rw [open_]
        exact if_pos left
      have rest := Part.finish_eq (p := s.part) (q := s.part.setCommand _) (Part.leaseSince_keep rfl rfl)
        (Part.setCommand_commitLaw ready.1.2.2
          { c with retries := c.retries + 1, phase := .resend, sent := s.part.clock })
      rw [taken, Part.takeWait_answered here current sent, retry, rest]
      rfl
    · refine ⟨_, taken, ?_⟩
      rw [Part.takeWait_answered here current sent, ← Part.answeredWait_closes (.of_open single) ends]
      exact (Course.quiet (Part.answeredWait_quiet _ (Part.openAt_mem here))).quiesced
  · dsimp only
    have taken : exec (.resendDue node) s
        = .next { s with part := s.part.finish (s.part.nodeShare node Part.resendDue) } := State.due_settled wait
    refine ⟨fun idle => ?_, fun c owed here waits late => ?_⟩
    · rw [taken, Part.nodeShare_idle, Part.finish_self law]
      refine idle.imp_right fun early c here => ?_
      rcases early c here with sent | early
      · simp [Part.resendDue, sent]
      · simp [Part.resendDue, Config.resendPause, early]
    · have due : s.part.resendDue c = true := by simp [Part.resendDue, Config.resendPause, waits, late]
      have share : s.part.nodeShare node Part.resendDue = s.part.resend c := by
        unfold Part.nodeShare Part.dueCommand
        simp [owed, here, due, Part.timedOut, waits]
      have rest : s.part.finish (s.part.resend c) = s.part.resend c := by
        rw [Part.resend_eq here]
        exact Part.finish_eq (Part.leaseSince_keep rfl rfl) fun pending empty => law pending (List.map_eq_nil_iff.1 empty)
      rw [taken, share, rest]
      exact congrArg (fun part => Host.Outcome.next { s with part := part }) (Part.resend_eq here)

end Sys2Proof.Machine
end

section
/-! SUPPORT. What the tests of an event leave of MODE, deck supervision and MON's blanking while none of them stops the ring,
and what the ring stop makes of them (R105, R127, R128). -/

namespace Sys2Proof.Machine

section
variable (p : Part)

/-! ### The heartbeat flag, which only MODE and SUP move (R97) -/

@[simp] theorem Part.refuseEntry_beat (r : Reason) (e : Entry) :
    (p.refuseEntry r e).mode.heartbeatSinceHold = p.mode.heartbeatSinceHold := by
  rw [Part.refuseEntry, Part.refuse_mode]
  rfl

@[simp] theorem Part.rehold_beat (e : Entry) (r : Reason) :
    (p.rehold e r).mode.heartbeatSinceHold = p.mode.heartbeatSinceHold := by
  unfold Part.rehold
  split
  · rfl
  · rw [Part.held_mode]
    rfl

@[simp] theorem Part.admitLift_beat (j : JackId) (n : Nat) (o : Origin) :
    (p.admitLift j n o).mode.heartbeatSinceHold = p.mode.heartbeatSinceHold := rfl

/-- Steps along a list leave the flag where each of them does. -/
theorem Part.foldl_beat {α : Type} {f : Part → α → Part}
    (h : ∀ (p : Part) a, (f p a).mode.heartbeatSinceHold = p.mode.heartbeatSinceHold) (l : List α) (p : Part) :
    (l.foldl f p).mode.heartbeatSinceHold = p.mode.heartbeatSinceHold :=
  foldl_law (P := fun q : Part => q.mode.heartbeatSinceHold = p.mode.heartbeatSinceHold)
    (fun q a here => (h q a).trans here) l p rfl

@[simp] theorem Part.examine_beat (b : Bool) (j : JackId) :
    (p.examine b j).mode.heartbeatSinceHold = p.mode.heartbeatSinceHold := by
  unfold Part.examine
  split
  · next e _ =>
    unfold Part.examineEntry
    split
    · rfl
    split
    · exact p.refuseEntry_beat _ e
    split
    · exact p.refuseEntry_beat _ e
    split
    · rfl
    · exact p.rehold_beat e _
  · rfl

@[simp] theorem Part.admPass_beat : p.admPass.mode.heartbeatSinceHold = p.mode.heartbeatSinceHold :=
  Part.foldl_beat (fun p j => p.examine_beat _ j) _ p

@[simp] theorem Part.removeEntries_beat (which : Entry → Bool) (r : Reason) :
    (p.removeEntries which r).mode.heartbeatSinceHold = p.mode.heartbeatSinceHold :=
  Part.foldl_beat (fun p e => p.refuseEntry_beat r e) _ p

@[simp] theorem Part.offer_beat (j : JackId) : (p.offer j).mode.heartbeatSinceHold = p.mode.heartbeatSinceHold := by
  unfold Part.offer
  split
  · rfl
  · split <;> rfl

@[simp] theorem Part.dropStuck_beat : p.dropStuck.mode.heartbeatSinceHold = p.mode.heartbeatSinceHold := by
  unfold Part.dropStuck
  split <;> rfl

@[simp] theorem Part.endRoundTest_beat : p.endRoundTest.mode.heartbeatSinceHold = p.mode.heartbeatSinceHold := by
  unfold Part.endRoundTest
  split <;> rfl

@[simp] theorem Part.creepPassIfWaiting_beat :
    p.creepPassIfWaiting.mode.heartbeatSinceHold = p.mode.heartbeatSinceHold := by
  unfold Part.creepPassIfWaiting
  split
  · rfl
  · unfold Part.creepPass
    rw [Part.endRoundTest_beat, Part.dropStuck_beat]
    exact Part.foldl_beat (fun p j => p.offer_beat j) _ p

@[simp] theorem Part.toldOfClose_beat (o : Origin) :
    (p.toldOfClose o).mode.heartbeatSinceHold = p.mode.heartbeatSinceHold := by
  unfold Part.toldOfClose
  split <;> simp [Part.setMode]

@[simp] theorem Part.answerEnded_beat (c : Command) (r : Reason) :
    (p.answerEnded c r).mode.heartbeatSinceHold = p.mode.heartbeatSinceHold := by
  unfold Part.answerEnded
  split
  · rw [Part.ended_mode]
  · rfl

@[simp] theorem Part.subjectReturn_beat (c : Command) :
    (p.subjectReturn c).mode.heartbeatSinceHold = p.mode.heartbeatSinceHold := by
  unfold Part.subjectReturn
  split
  · rfl
  · unfold Part.feedReturn
    split <;> rfl

@[simp] theorem Part.closeEnded_beat (c : Command) (r : Reason) :
    (p.closeEnded c r).mode.heartbeatSinceHold = p.mode.heartbeatSinceHold := by
  have returned : ((Part.subjectReturn c (Part.answerEnded c r (p.removeCommand c.subject)))).mode.heartbeatSinceHold
      = p.mode.heartbeatSinceHold := by
    rw [Part.subjectReturn_beat, Part.answerEnded_beat]
    rfl
  unfold Part.closeEnded Part.closeWith
  dsimp only
  rw [Part.toldOfClose_beat, Part.admPass_beat]
  split <;> exact returned

@[simp] theorem Part.closeStopped_beat (x : Subject) :
    (p.closeStopped x).mode.heartbeatSinceHold = p.mode.heartbeatSinceHold := by
  unfold Part.closeStopped
  split
  · split
    · exact p.closeEnded_beat _ _
    · rfl
  · rfl

theorem Part.stopSector_beat (k : SectorId) :
    (p.stopSector k).mode.heartbeatSinceHold = p.mode.heartbeatSinceHold := by
  unfold Part.stopSector
  dsimp only
  rw [Part.updateAlert_mode, Part.removeEntries_beat, Part.foldl_beat (fun p x => p.closeStopped_beat x),
    Part.foldl_beat (f := Part.stillNode) fun _ _ => rfl]
  rfl

end

/-! ### The tests of an event -/

/-- What tests leave of MODE, supervision, STOP OUT and blanking, and an empty deferred queue. -/
structure Part.Runs (p t : Part) : Prop where
  climb : t.mode.mode = p.mode.mode
  timer : t.mode.creepTimer = p.mode.creepTimer
  beat : t.mode.heartbeatSinceHold = p.mode.heartbeatSinceHold
  sup : t.sup = p.sup
  stopOut : t.stopOut = p.stopOut
  blanking : t.mon.blanking = p.mon.blanking
  empty : p.adm.queue = [] → t.adm.queue = []

namespace Part.Runs

variable {p q r : Part}

theorem refl (p : Part) : p.Runs p := ⟨rfl, rfl, rfl, rfl, rfl, rfl, id⟩

theorem trans (a : p.Runs q) (b : q.Runs r) : p.Runs r :=
  ⟨b.climb.trans a.climb, b.timer.trans a.timer, b.beat.trans a.beat, b.sup.trans a.sup, b.stopOut.trans a.stopOut,
    b.blanking.trans a.blanking, b.empty ∘ a.empty⟩

theorem ofQuiet (quiet : Quiet p q) (beat : q.mode.heartbeatSinceHold = p.mode.heartbeatSinceHold) : p.Runs q :=
  have keeps := quiet.keeps
  ⟨keeps.climb, keeps.timer, beat, keeps.sup, keeps.stopOut, keeps.blanking, quiet.queue_empty⟩

theorem ofJudged (judged : p.Judged q) : p.Runs q :=
  ⟨congrArg (·.mode) judged.mode, congrArg (·.creepTimer) judged.mode, congrArg (·.heartbeatSinceHold) judged.mode,
    judged.sup, judged.stopOut, judged.blanking, fun empty => List.eq_nil_iff_forall_not_mem.2 fun e m => by
      have before := judged.queue e m
      rw [empty] at before
      nomatch before⟩

end Part.Runs

section
variable {p : Part}

theorem Part.stopSector_runs (k : SectorId) : p.Runs (p.stopSector k) := by
  obtain ⟨q, quiet, stop⟩ := p.stopSector_quiet k
  have beat := p.stopSector_beat k
  rw [stop] at beat ⊢
  have first := Part.Runs.ofQuiet quiet beat
  exact first.trans (.ofJudged Part.updateAlert_judged)

theorem Part.assertHere_runs (q : Pair) (d : Option JackId) : p.Runs (p.assertHere q d) := by
  have noted := Part.Runs.ofJudged (p.noteAssertion_touches q d).judged
  unfold Part.assertHere
  split
  · split
    · exact noted
    · exact noted.trans (Part.stopSector_runs _)
  · exact noted

theorem judging_runs (q : Pair) (input : Part → Bool) (p : Part) : p.Runs (judging q input p).1 := by
  unfold judging
  split
  · exact p.assertHere_runs q none
  · exact .ofJudged (p.follow_touches q _).judged

/-- The tests made one after the other. -/
theorem judgeAll_runs {l : List Judging} (h : ∀ f ∈ l, ∀ p : Part, p.Runs (f p).1) (p : Part) :
    p.Runs (judgeAll l p).1 :=
  judgeAll_keeps (P := fun q => p.Runs q) (fun f m q before => before.trans (h f m q)) (.refl p)

/-- What a ring stop leaves of MODE, supervision, the lines and the queue, whatever it closes (R105, R138). -/
structure Part.Stopped (p t : Part) : Prop where
  climb : t.mode.mode = .stopped p.mode.mode.left
  timer : t.mode.creepTimer = none
  sup : t.sup = { p.sup with active := false }
  stopOut : t.stopOut = true
  blanking : t.mon.blanking = none
  empty : t.adm.queue = []

theorem Part.stopFlushed_quiet : Quiet (p.setMode p.stoppedRecord) p.stopFlushed := by
  unfold Part.stopFlushed
  split
  · exact Part.flush_quiet _ _
  · exact .refl _

theorem Part.enterStopped_leaves (runs : p.mode.mode.isStopped = false) (flushed : p.Flushed) :
    p.Stopped p.enterStopped := by
  have closed : Quiet p.stopFlushed p.stopClosed :=
    (p.stopFlushed.markAll_quiet .stopped fun _ => true).trans (Part.closeAllStopped_quiet _)
  have before := ((Part.stopFlushed_quiet (p := p)).trans closed).keeps
  have tested : Quiet { p.stopClosed.ringOut false .still 127 0 [] with stopOut := true } p.stopTold :=
    Part.endRoundTest_quiet _
  have after := tested.keeps
  have told := p.stopTold.toldOfStopped_quiet
  have last := told.keeps
  have flush := (p.stopFlushed_trims flushed).2.1
  rw [Part.enterStopped_eq runs]
  generalize p.stopTold = d at *
  generalize p.stopClosed = c at *
  generalize d.toldOfStopped = t at *
  refine ⟨last.climb.trans (after.climb.trans before.climb), last.timer.trans (after.timer.trans before.timer), ?_,
    last.stopOut.trans after.stopOut, last.blanking, ?_⟩
  · have same : t.sup = p.sup := last.sup.trans (after.sup.trans before.sup)
    exact congrArg (fun x : Supervision => { x with active := false }) same
  · exact told.queue_empty (tested.queue_empty (closed.queue_empty flush))

/-- An event's tests, and the ring stop where one of them asks for it. -/
theorem Part.event_outcome {l : List Judging} (h : ∀ f ∈ l, ∀ p : Part, p.Runs (f p).1) (runs : p.mode.mode.isStopped = false)
    (empty : p.adm.queue = []) : p.Runs (p.event l) ∨ p.Stopped (p.event l) := by
  have judged := judgeAll_runs h p
  unfold Part.event
  dsimp only
  generalize judgeAll l p = r at judged
  split
  · have stop := Part.enterStopped_leaves (judged.climb ▸ runs) fun _ => judged.empty empty
    refine .inr ⟨?_, stop.timer, ?_, stop.stopOut, stop.blanking, stop.empty⟩
    · rw [stop.climb, judged.climb]
    · rw [stop.sup, judged.sup]
  · exact .inl judged

theorem deckTests_run : ∀ f ∈ sectorIds.map starveJudging ++ [spreadJudging, compoundJudging], ∀ p : Part, p.Runs (f p).1 := by
  intro f m p
  simp only [List.mem_append, List.mem_map, List.mem_cons, List.not_mem_nil, or_false] at m
  rcases m with ⟨k, -, rfl⟩ | rfl | rfl
  · exact judging_runs _ _ p
  · exact judging_runs _ _ p
  · exact judging_runs _ _ p

end
end Sys2Proof.Machine
end

section
/-! SUPPORT. CONTROL HOLD (R101): the answer, the flush, and what MON is told; where nothing it judges then stops anything,
MON's records alone move. -/

namespace Sys2Proof.Machine

/-! ### Tests that MON keeps to itself -/

/-- SPREAD, COMPOUND and STARVE, which MON judges at a mode change (R99, R119, R120). -/
def ofModeChange (q : Pair) : Prop := q = .spread ∨ q = .compound ∨ ∃ k, q = .starve k

/-- What such a test leaves where it stops no sector: all but MON, the other pairs, and the sector stops. -/
structure Part.Watched (p t : Part) : Prop where
  only : t = { p with mon := t.mon }
  others : ∀ x, ¬ ofModeChange x → t.pair x = p.pair x
  stops : ∀ x k, pairSector x = some k → (t.pair x).stopsSector = (p.pair x).stopsSector

section
variable {p : Part}

theorem Part.Watched.refl (p : Part) : p.Watched p := ⟨rfl, fun _ _ => rfl, fun _ _ _ => rfl⟩

theorem Part.Watched.trans {q r : Part} (a : p.Watched q) (b : q.Watched r) : p.Watched r := by
  refine ⟨?_, fun x away => (b.others x away).trans (a.others x away),
    fun x k of => (b.stops x k of).trans (a.stops x k of)⟩
  have first := a.only
  have second := b.only
  rw [first] at second
  exact second

theorem Part.follow_watched {q : Pair} (named : ofModeChange q) (b : Bool) : p.Watched (p.follow q b) := by
  have pair := p.follow_pair q b
  refine ⟨(p.follow_only q b).1, fun x away => ?_, fun x k _ => ?_⟩
  · rw [pair, if_neg]
    rintro rfl
    exact away named
  · rw [pair]
    split
    · next here => rw [here]
    · rfl

/-- An assertion of such a condition under a mode that stops no sector. -/
theorem Part.noteAssertion_watched {q : Pair} (named : ofModeChange q)
    (soft : p.bank.condMode q = .sector → pairSector q = none) : p.Watched (p.noteAssertion q none) := by
  have pair := p.noteAssertion_pair q none
  refine ⟨(p.noteAssertion_only q none).1, fun x away => ?_, fun x k of => ?_⟩
  · rw [pair, if_neg]
    rintro rfl
    exact away named
  · rw [pair]
    split
    · next here =>
      subst here
      have other : p.bank.condMode x ≠ .sector := fun mode => by
        rw [soft mode] at of
        nomatch of
      simp [other]
    · rfl

theorem judging_watched {q : Pair} (named : ofModeChange q) (input : Part → Bool)
    (soft : p.bank.condMode q = .sector → pairSector q = none) : p.Watched (judging q input p).1 := by
  have noted : p.assertHere q none = p.noteAssertion q none := by
    unfold Part.assertHere
    split
    · next k mode of =>
      rw [soft mode] at of
      nomatch of
    · rfl
  unfold judging
  split
  · change p.Watched (p.assertHere q none)
    rw [noted]
    exact Part.noteAssertion_watched named soft
  · exact Part.follow_watched named _

theorem judging_calm {q : Pair} (input : Part → Bool) (soft : p.bank.condMode q ≠ .ring) : (judging q input p).2 = false := by
  unfold judging
  split
  · exact beq_false_of_ne soft
  · rfl

theorem Part.Watched.bank {t : Part} (h : p.Watched t) : t.bank = p.bank := by
  rw [h.only]
  rfl

/-- As many sectors are stopped as before (R128). -/
theorem Part.Watched.stoppedSectors {t : Part} (h : p.Watched t) : t.stoppedSectors = p.stoppedSectors := by
  unfold Part.stoppedSectors
  refine congrArg sectorIds.countP (funext fun k => ?_)
  unfold Part.sectorStopped
  refine Bool.eq_iff_iff.2 ?_
  simp only [List.any_eq_true]
  exact exists_congr fun x => and_congr_right fun m => by rw [h.stops x k (Quiet.sectorPairs_sector m)]

/-- COMPOUND, with no more sectors stopped than the limit (R124). -/
theorem compoundJudging_watched (low : p.stoppedSectors ≤ p.bank.sectorStopLimit) :
    p.Watched (compoundJudging p).1 ∧ (compoundJudging p).2 = false := by
  have none : p.assertsNow .compound p.compoundInput = false := by
    have input : p.compoundInput = false := decide_eq_false (by omega)
    rw [input]
    rfl
  unfold compoundJudging judging
  rw [none]
  exact ⟨Part.follow_watched (.inr (.inl rfl)) _, rfl⟩

/-- MON told of a mode change where nothing that it judges stops anything. -/
theorem Part.judgeDeck_watched (spread : p.bank.condMode .spread ≠ .ring) (sector : p.bank.condMode (.starve 0) ≠ .sector)
    (ring : p.bank.condMode (.starve 0) ≠ .ring) (low : p.stoppedSectors ≤ p.bank.sectorStopLimit) :
    p.Watched p.judgeDeck := by
  have step : ∀ f ∈ sectorIds.map starveJudging ++ [spreadJudging], ∀ q, p.Watched q →
      p.Watched (f q).1 ∧ (f q).2 = false := by
    intro f m q before
    have bank := before.bank
    simp only [List.mem_append, List.mem_map, List.mem_singleton] at m
    rcases m with ⟨k, -, rfl⟩ | rfl
    · have mode : q.bank.condMode (.starve k) = p.bank.condMode (.starve 0) := by rw [bank]; rfl
      exact ⟨before.trans (judging_watched (.inr (.inr ⟨k, rfl⟩)) _ fun at_ => absurd (mode ▸ at_) sector),
        judging_calm _ (mode ▸ ring)⟩
    · exact ⟨before.trans (judging_watched (.inl rfl) _ fun _ => rfl), judging_calm _ (by rwa [bank])⟩
  have first := judgeAll_keeps (fun f m q before => (step f m q before).1) (.refl p)
  have calm := judgeAll_calm step (.refl p)
  have split : sectorIds.map starveJudging ++ [spreadJudging, compoundJudging]
      = (sectorIds.map starveJudging ++ [spreadJudging]) ++ [compoundJudging] := by simp
  unfold Part.judgeDeck Part.event
  rw [split, judgeAll_append, judgeAll_singleton, calm]
  generalize (judgeAll (sectorIds.map starveJudging ++ [spreadJudging]) p).1 = q at *
  obtain ⟨last, still⟩ := compoundJudging_watched (p := q) (by rw [first.stoppedSectors, first.bank]; exact low)
  dsimp only
  rw [still]
  exact first.trans last

end

/-! ### The flush (R57) -/

section
variable (p : Part)

/-- Only the deferred queue, the send queue and MON's records differ. -/
def QueuesOnly (p q : Part) : Prop :=
  q = { p with adm := ⟨q.adm.queue, p.adm.occupancy⟩, sendQueue := q.sendQueue, mon := q.mon }

theorem QueuesOnly.trans {p q r : Part} (a : QueuesOnly p q) (b : QueuesOnly q r) : QueuesOnly p r := by
  unfold QueuesOnly at *
  rw [b, a]

theorem QueuesOnly.watched {p q r : Part} (a : QueuesOnly p q) (b : q.Watched r) : QueuesOnly p r :=
  a.trans (by have only := b.only; unfold QueuesOnly; rw [only])

theorem Part.emit_only (k : Kind) (a : Byte) (t : Tag) (l : List Byte) : QueuesOnly p (p.emit k a t l) := by
  by_cases room : p.sendQueue.length < Config.maxSend
  · rw [p.emit_room room]
    rfl
  · rw [p.emit_full room]
    rfl

/-- Removals move the deferred queue, the send queue and MON's events alone. -/
theorem Part.removeEntries_only (which : Entry → Bool) (r : Reason) : QueuesOnly p (p.removeEntries which r) := by
  have dropped : ∀ (q : Part) (j : JackId), QueuesOnly q (q.dropEntry j) := fun _ _ => rfl
  exact foldl_law (f := Part.refuseEntry r) (P := QueuesOnly p) (fun q (e : Entry) before => (before.trans (dropped q e.jack)).trans (Part.emit_only _ _ _ _ _))
    _ p rfl

end

/-! ### The entry into HOLD -/

section
variable {p : Part}

/-- The part as it is when MON is told of HOLD. -/
def Part.holdFlushed (p : Part) (tag : Tag) : Part :=
  (((p.setMode (p.holdRecord .request)).ack tag codeControl).flush .flushed).endBlanking.updateAlert

theorem Part.controlHold_eq {tag : Tag} (slip : p.mode.mode = .slip) :
    p.controlHold tag = (p.holdFlushed tag).judgeDeck := by
  unfold Part.controlHold
  rw [if_neg (not_not.2 slip)]
  rfl

/-- Its queue is empty, its blanking ended, and but for the queues and MON it has the mode record of HOLD alone. -/
theorem Part.holdFlushed_only (p : Part) (tag : Tag) : (p.holdFlushed tag).adm.queue = []
    ∧ (p.holdFlushed tag).mon.blanking = none ∧ (∀ x, (p.holdFlushed tag).pair x = p.pair x)
    ∧ QueuesOnly (p.setMode (p.holdRecord .request)) (p.holdFlushed tag) := by
  have acked := (p.setMode (p.holdRecord .request)).emit_only .reply 0 tag [codeControl, outAck]
  have flushed := ((p.setMode (p.holdRecord .request)).ack tag codeControl).removeEntries_only (fun _ => true) .flushed
  refine ⟨Part.flush_queue _ _, rfl, fun x => ?_, ((acked.trans flushed).trans rfl)⟩
  have pairs := (((p.setMode (p.holdRecord .request)).ack tag codeControl).removeEntries_passed (fun _ => true) .flushed).pair x
  exact pairs.trans (Part.emit_pair _ _ _ _ _ _)

/-- An acceptance moves no round, so that the end of the event is the same before and after it (R140, R148). -/
theorem Part.finish_acceptAny (p t : Part) : p.finish t = p.acceptAny.finish t := by
  have round : p.acceptAny.grantTest = p.grantTest := by
    rw [Part.grantTest, Part.grantTest, p.acceptAny_keeps.mode]
  unfold Part.finish Part.leaseSince
  rw [round]

theorem exec_controlHold {s : State} {tag : Tag} (ready : s.part.Ready) : exec (.controlHold tag) s
    = .next { s with part := s.part.acceptAny.finish (s.part.acceptAny.controlHold tag) } := by
  rw [← Part.finish_acceptAny]
  exact State.takeRequest_ready ready

/-- What HOLD leaves of MODE, SUP, STOP OUT and blanking: HOLD, or the ring stop that MON asked for (R101, R105). -/
theorem Part.controlHold_outcome {tag : Tag} (slip : p.mode.mode = .slip) :
    (p.holdFlushed tag).Runs (p.controlHold tag) ∨ (p.holdFlushed tag).Stopped (p.controlHold tag) := by
  obtain ⟨empty, -, -, only⟩ := p.holdFlushed_only tag
  rw [Part.controlHold_eq slip]
  refine Part.event_outcome deckTests_run ?_ empty
  rw [only]
  rfl

/-- HOLD where nothing that MON judges then stops anything. -/
theorem Part.controlHold_watched {tag : Tag} (slip : p.mode.mode = .slip) (spread : p.bank.condMode .spread ≠ .ring)
    (sector : p.bank.condMode (.starve 0) ≠ .sector) (ring : p.bank.condMode (.starve 0) ≠ .ring)
    (low : p.stoppedSectors ≤ p.bank.sectorStopLimit) : (p.holdFlushed tag).Watched (p.controlHold tag) := by
  obtain ⟨-, -, pairs, only⟩ := p.holdFlushed_only tag
  have bank : (p.holdFlushed tag).bank = p.bank := by
    rw [only]
    rfl
  have stopped := Part.stoppedSectors_congr fun x => congrArg (·.stopsSector) (pairs x)
  rw [Part.controlHold_eq slip]
  refine Part.judgeDeck_watched ?_ ?_ ?_ ?_
  all_goals rw [bank]
  · exact spread
  · exact sector
  · exact ring
  · rwa [stopped]

theorem Part.controlHold_flush {tag : Tag} (slip : p.mode.mode = .slip) {e : Entry} (here : e ∈ p.adm.queue) :
    (p.controlHold tag).TellsRefused e 17 := by
  have kept : e ∈ ((p.setMode (p.holdRecord .request)).ack tag codeControl).adm.queue := by
    rwa [Part.ack_adm]
  have told := Part.removeEntries_tells (which := fun _ => true) .flushed kept rfl
  rw [Part.controlHold_eq slip]
  exact told.grows ((Part.endBlanking_course _).trans (Part.tellMonMode_course _)).grows

theorem Part.controlHold_answers {tag : Tag} (slip : p.mode.mode = .slip) : p.Answers (p.controlHold tag)
    ⟨0, 0, .reply, tag, (p.setMode (p.holdRecord .request)).summary, [9, 0]⟩ := by
  have flushed := ((p.setMode (p.holdRecord .request)).ack tag codeControl).flush_quiet .flushed
  rw [Part.controlHold_eq slip]
  exact Part.answers_of_grows (q := p.setMode (p.holdRecord .request)) rfl
    (((Course.quiet flushed).trans (Part.endBlanking_course _)).trans (Part.tellMonMode_course _)).grows

end

/-- Settles O30: the answer, the flush and MON in turn; the tests either run on in HOLD or stop the ring. -/
theorem controlHoldEntersHold : Obligations.ControlHoldEntersHold := by
  unfold Obligations.ControlHoldEntersHold
  intro s tag ready
  dsimp only
  generalize accepted : s.part.acceptAny = p
  intro slip
  have taken := exec_controlHold (tag := tag) ready
  rw [accepted] at taken
  have course := p.controlHold_course tag
  have answers := Part.controlHold_answers (tag := tag) slip
  have told := fun e here => Part.controlHold_flush (tag := tag) (e := e) slip here
  have outcome := Part.controlHold_outcome (tag := tag) slip
  have watched := Part.controlHold_watched (tag := tag) slip
  obtain ⟨empty, blanking, pairs, only⟩ := p.holdFlushed_only tag
  have keeps : Loud.Keeps (p.holdFlushed tag) (p.controlHold tag) := by
    rw [Part.controlHold_eq slip]
    exact (Part.judgeDeck_loud _).keeps
  generalize p.controlHold tag = t at *
  generalize p.holdFlushed tag = q at *
  refine ⟨t, p.finish t, taken, course.quiesced, answers, ?_, ?_, told, ?_, ?_, ?_, ?_, fun spread sector ring low => ?_⟩
  · refine outcome.imp (fun runs => ?_) fun stop => ?_
    · refine ⟨runs.climb.trans ?_, runs.timer.trans ?_, runs.beat.trans ?_, runs.sup.trans ?_, runs.stopOut.trans ?_⟩
      all_goals
        rw [only]
        rfl
    · refine ⟨stop.climb.trans ?_, stop.timer, stop.sup.trans ?_, stop.stopOut⟩
      all_goals
        rw [only]
        rfl
  · exact outcome.elim (fun runs => runs.empty empty) fun stop => stop.empty
  · exact outcome.elim (fun runs => runs.blanking.trans blanking) fun stop => stop.blanking
  · rw [keeps.jacks, only]
    rfl
  · rw [keeps.sectors, only]
    rfl
  · refine ⟨keeps.cfg.trans ?_, keeps.clock.trans ?_, keeps.owed.trans ?_, keeps.resetCause.trans ?_,
      keeps.resetWait.trans ?_, keeps.stopIn.trans ?_, keeps.resetLine.trans ?_, keeps.order.trans ?_⟩
    all_goals
      rw [only]
      rfl
  · have watched := watched spread sector ring low
    refine ⟨fun x away compound starve => (watched.others x fun named => ?_).trans (pairs x), ?_⟩
    · rcases named with named | named | ⟨k, named⟩
      · exact away named
      · exact compound named
      · exact starve k named
    · have whole := only.watched watched
      have last : t.adm.queue = [] := by
        rw [watched.only]
        exact empty
      unfold QueuesOnly at whole
      rw [whole, last]
      rfl

end Sys2Proof.Machine
end

section
/-! SUPPORT. A pair without deglitch, PENDING all the same, whose ring stop closes the POUR that keeps its feed node POURING
(R79, R91). -/

namespace Sys2Proof.Machine

/-- A POUR of feed node 0 in RESEND, its node POURING, and FEED of that node, under RING, PENDING when the deglitch share is
owed. -/
def feedPending : Part :=
  let p := State.reset.part
  ({ p with
    cfg := { p.cfg with active := { p.cfg.active with profile := p.cfg.active.profile.set 33 3 } }
    xt := { p.xt with table := [⟨.pour 0 0, .deck 6, 20, 0, 1, 20, .resend, 0, 0, none, none⟩] }
    feeds := p.feeds.set 0 ⟨.pouring, none⟩
    owed := [.deglitch] } : Part).setPair (.feed 0) ⟨.pending 0, false, false⟩

/-- The ring stop of its own assertion closes the POUR, and FEED ceases. -/
theorem feedPending_ceases :
    ((feedPending.finish (feedPending.pairShare (.feed 0))).pair (.feed 0)).state = .notPresent := by decide +kernel

/-- Where no commit is pending, the end of an event moves no pair. -/
theorem Part.Quiesced.pair {p t u : Part} (h : p.Quiesced t u) (cfg : t.cfg = p.cfg) (idle : p.commitPending = false)
    (x : Pair) : u.pair x = t.pair x := by
  have granted : (p.leaseGranted t).cfg = t.cfg ∧ (p.leaseGranted t).pair x = t.pair x := by
    rw [← Part.leaseSince_eq]
    unfold Part.leaseSince Part.leaseTest
    split
    · exact ⟨rfl, rfl⟩
    · split
      · split
        · exact ⟨Part.reply_cfg _ _ _ _ _, Part.emit_pair _ _ _ _ _ _⟩
        · exact ⟨rfl, rfl⟩
      all_goals exact ⟨rfl, rfl⟩
  obtain ⟨rests, -⟩ := h
  rw [rests (.inl _), granted.2]
  rw [Part.commitPending, granted.1, cfg]
  exact idle

/-- Refutes O41: FEED of a node that pours, PENDING as no run makes it, asserts under RING, and its ring stop closes the POUR,
by which the pair ceases (R91). -/
theorem not_deglitchedPairAsserts : ¬ Obligations.DeglitchedPairAsserts := by
  unfold Obligations.DeglitchedPairAsserts
  intro holds
  have wait : feedPending.resetWait ≠ some 0 := by decide +kernel
  have idle : feedPending.commitPending = false := by decide +kernel
  obtain ⟨-, asserts⟩ := holds ⟨feedPending, []⟩ (.feed 0) wait (fun pending => by rw [idle] at pending; nomatch pending)
    (by unfold Part.DeferredLaw; decide +kernel) (by decide +kernel)
  obtain ⟨t, u, taken, quiesced, -, -, ⟨cfg, -⟩, state, -⟩ :=
    asserts 0 (by decide +kernel) (by decide +kernel) (by decide +kernel)
  have present : (t.pair (.feed 0)).state = .present (feedPending.bank.condMode (.feed 0)) :=
    (state nofun).2 fun ⟨_, named⟩ => by
      rcases named with ⟨k, named⟩ | ⟨named, -⟩
      · nomatch named
      · nomatch named
  have reached : exec (.deglitchExpiry (.feed 0)) ⟨feedPending, []⟩
      = .next ⟨feedPending.finish (feedPending.pairShare (.feed 0)), []⟩ := State.due_settled wait
  have ceased := feedPending_ceases
  rw [taken] at reached
  generalize feedPending.finish (feedPending.pairShare (.feed 0)) = v at reached ceased
  injection reached with same
  injection same with same
  rw [← same, quiesced.pair cfg idle, present] at ceased
  nomatch ceased

end Sys2Proof.Machine
end

section
/-! SUPPORT. The closes of a stop (R79), where no entry waits and no jack is left in the creep list: each answers its
command, frees its place and its feed node, and lowers round commands, and does nothing else (R71, R72, R91, R114). -/

namespace Sys2Proof.Machine

/-- A LIFT whose jack belongs to a pump group (R51). -/
def Part.liftOfGroup (p : Part) (g : GroupId) (c : Command) : Bool :=
  match c.task with
  | .lift j => p.groupOf j == g
  | .pour _ _ => false

/-- No entry waits and no jack is left in the creep list, so that a close re-examines and offers nothing (R54, R112). -/
structure Part.NoneWaiting (p : Part) : Prop where
  queue : p.adm.queue = []
  list : p.mode.roundList = []

/-- What the closes of the commands l, each with its ending reason, make of the part (R71, R72, R79, R91, R114). -/
structure Part.ClosesAll (p : Part) (l : List Command) (t : Part) : Prop where
  quiet : Quiet p t
  ring : t.ringQueue = p.ringQueue
  xt : t.xt = ⟨p.xt.table.filter fun d => l.all (·.subject ≠ d.subject), p.xt.nodes⟩
  queue : t.adm.queue = p.adm.queue
  mode : t.mode = { p.mode with
    roundInProgress := t.mode.roundInProgress
    roundCommands := p.mode.roundCommands - l.countP (·.origin == .device) }
  round : (t.mode.roundInProgress && t.mode.roundCommands != 0) = (p.mode.roundInProgress && t.mode.roundCommands != 0)
  pairs : ∀ x, (∀ f, x ≠ .feed f) → t.pair x = p.pair x
  log : ∀ r ∈ p.mon.log, (∀ f, r.pair ≠ .feed f) → r ∈ t.mon.log
  told : ∀ c ∈ l, ∀ g, c.origin = .deck g → ∃ e summary, c.ending = some e ∧ t.Tells ⟨0, 0, .ended, g, summary,
    [octet (p.addrOf c.subject).val, g.setWidth 8] ++ octets2 c.done ++ [e.reason.code]⟩
  feeds : ∀ f, t.feed f = if (p.feed f).state = .pouring ∧ l.any (·.subject == .feed f) = true then
    ⟨.ready, (p.feed f).lastSector⟩ else p.feed f
  occupancy : ∀ g, t.occupancy g = p.occupancy g - l.countP (p.liftOfGroup g)

section
variable {p q t : Part} {l m : List Command}

theorem Part.addrOf_cfg (h : q.cfg = p.cfg) (x : Subject) : q.addrOf x = p.addrOf x := by
  cases x <;> simp only [Part.addrOf, Part.jackEntry, Part.feedEntry, Part.bank, h]

theorem Part.liftOfGroup_cfg (h : q.cfg = p.cfg) (g : GroupId) : q.liftOfGroup g = p.liftOfGroup g := by
  funext c
  simp only [Part.liftOfGroup, Part.groupOf, Part.jackEntry, Part.bank, h]

theorem Part.ClosesAll.refl (p : Part) : p.ClosesAll [] p := by
  refine ⟨.refl p, rfl, ?_, rfl, rfl, rfl, fun _ _ => rfl, fun _ m _ => m, nofun, fun f => ?_, fun _ => rfl⟩
  · simp
  · simp

theorem Part.ClosesAll.trans (a : p.ClosesAll l q) (b : q.ClosesAll m t) : p.ClosesAll (l ++ m) t := by
  have cfg := a.quiet.keeps.cfg
  have lowered : q.mode.roundCommands = p.mode.roundCommands - l.countP (·.origin == .device) := by rw [a.mode]
  have lowered' : t.mode.roundCommands = q.mode.roundCommands - m.countP (·.origin == .device) := by rw [b.mode]
  refine ⟨a.quiet.trans b.quiet, b.ring.trans a.ring, ?_, b.queue.trans a.queue, ?_, ?_,
    fun x away => (b.pairs x away).trans (a.pairs x away), fun r here away => b.log r (a.log r here away) away, ?_,
    fun f => ?_, fun g => ?_⟩
  case refine_1 =>
    rw [b.xt, a.xt]
    simp only [List.filter_filter, List.all_append, Bool.and_comm]
  case refine_2 =>
    have whole := b.mode
    rw [a.mode] at whole
    rw [List.countP_append, ← Nat.sub_sub]
    exact whole
  case refine_3 =>
    rw [b.round]
    by_cases none : t.mode.roundCommands = 0
    · simp [none]
    · have before : q.mode.roundCommands ≠ 0 := by omega
      have round := a.round
      rw [bne_iff_ne.2 before] at round
      rw [bne_iff_ne.2 none]
      exact round
  case refine_4 =>
    intro c here g deck
    rcases List.mem_append.1 here with here | here
    · obtain ⟨e, summary, ending, tells⟩ := a.told c here g deck
      exact ⟨e, summary, ending, tells.grows b.quiet.grows⟩
    · obtain ⟨e, summary, ending, tells⟩ := b.told c here g deck
      rw [Part.addrOf_cfg cfg] at tells
      exact ⟨e, summary, ending, tells⟩
  case refine_5 =>
    rw [b.feeds, a.feeds, List.any_append]
    by_cases pouring : (p.feed f).state = .pouring
    · cases l.any (·.subject == .feed f) <;> simp [pouring]
    · simp [pouring]
  case refine_6 => rw [b.occupancy, a.occupancy, Part.liftOfGroup_cfg cfg, List.countP_append, Nat.sub_sub]

theorem Part.NoneWaiting.after (h : p.NoneWaiting) (closes : p.ClosesAll l t) : t.NoneWaiting :=
  ⟨closes.queue.trans h.queue, by rw [closes.mode]; exact h.list⟩

/-! ### One close -/

/-- A frame to the deck moves the send queue and the event set alone. -/
theorem Part.emit_moves (p : Part) (k : Kind) (s : Byte) (g : Tag) (d : List Byte) : p.emit k s g d =
    { p with
      sendQueue := (p.emit k s g d).sendQueue
      mon := { p.mon with events := (p.emit k s g d).mon.events } } := by
  unfold Part.emit
  split <;> rfl

theorem Part.answerEnded_moves (p : Part) (c : Command) (r : Reason) : p.answerEnded c r =
    { p with
      sendQueue := (p.answerEnded c r).sendQueue
      mon := { p.mon with events := (p.answerEnded c r).mon.events } } := by
  unfold Part.answerEnded
  split
  · exact p.emit_moves _ _ _ _
  · rfl

/-- ENDED is told of a DECK command (R71). -/
theorem Part.answerEnded_tells (p : Part) {c : Command} (r : Reason) {g : Tag} (deck : c.origin = .deck g) :
    (p.answerEnded c r).Tells ⟨0, 0, .ended, g, p.summary,
      [octet (p.addrOf c.subject).val, g.setWidth 8] ++ octets2 c.done ++ [r.code]⟩ := by
  unfold Part.answerEnded
  rw [deck]
  exact p.emit_tells _ _ _ _

/-- A pair's condition ceasing keeps the records of the others (R125). -/
theorem Part.cease_log {x : Pair} {r : LogRecord} (here : r ∈ p.mon.log) (away : r.pair ≠ x) :
    r ∈ (p.cease x).mon.log := by
  change r ∈ if (p.pair x).state.isPresent then _ else _
  split
  · exact List.mem_map.2 ⟨r, here, if_neg away⟩
  · exact here

/-- The return of a command's subject moves its feed node and FEED alone (R91). -/
theorem Part.subjectReturn_moves (p : Part) (c : Command) : p.subjectReturn c =
    { p with feeds := (p.subjectReturn c).feeds, mon := (p.subjectReturn c).mon } := by
  unfold Part.subjectReturn Part.feedReturn
  split
  · rfl
  · split <;> rfl

theorem Part.subjectReturn_pair (p : Part) (c : Command) {x : Pair} (away : ∀ f, x ≠ .feed f) :
    (p.subjectReturn c).pair x = p.pair x := by
  unfold Part.subjectReturn Part.feedReturn
  split
  · rfl
  · next f _ _ =>
    split
    · exact ((p.setFeed f _).cease_pair (.feed f) x).trans (if_neg (away f))
    · rfl

theorem Part.subjectReturn_log (p : Part) (c : Command) {r : LogRecord} (here : r ∈ p.mon.log)
    (away : ∀ f, r.pair ≠ .feed f) : r ∈ (p.subjectReturn c).mon.log := by
  unfold Part.subjectReturn Part.feedReturn
  split
  · exact here
  · next f _ _ =>
    split
    · exact Part.cease_log (p := p.setFeed f _) here (away f)
    · exact here

theorem Part.subjectReturn_feed (p : Part) (c : Command) (f : FeedId) : (p.subjectReturn c).feed f =
    if (p.feed f).state = .pouring ∧ c.subject = .feed f then ⟨.ready, (p.feed f).lastSector⟩ else p.feed f := by
  obtain ⟨task, _⟩ := c
  cases task with
  | lift j => exact (if_neg fun both => nomatch both.2).symm
  | pour i k =>
    change (p.feedReturn i).feed f = if (p.feed f).state = .pouring ∧ Subject.feed i = .feed f then _ else _
    unfold Part.feedReturn
    by_cases same : i = f
    · subst same
      by_cases pouring : (p.feed i).state = .pouring
      · rw [if_pos pouring, if_pos ⟨pouring, rfl⟩]
        exact p.feed_setFeed i _
      · rw [if_neg pouring, if_neg fun both => pouring both.1]
    · have other : ¬ ((p.feed f).state = .pouring ∧ Subject.feed i = .feed f) := fun both => same (Subject.feed.inj both.2)
      rw [if_neg other]
      by_cases pouring : (p.feed i).state = .pouring
      · rw [if_pos pouring]
        exact p.feed_setFeed_ne _ fun e => same e.symm
      · rw [if_neg pouring]

theorem Part.releaseOf_moves (p : Part) (c : Command) : p.releaseOf c =
    { p with adm := ⟨p.adm.queue, (p.releaseOf c).adm.occupancy⟩ } := by
  unfold Part.releaseOf
  split <;> rfl

theorem Part.releaseOf_occupancy (p : Part) (c : Command) (g : GroupId) :
    (p.releaseOf c).occupancy g = p.occupancy g - [c].countP (p.liftOfGroup g) := by
  obtain ⟨task, _⟩ := c
  cases task with
  | pour f k => rfl
  | lift j =>
    change (p.setOccupancy (p.groupOf j) _).occupancy g = _
    by_cases same : p.groupOf j = g
    · subst same
      simp [Part.liftOfGroup]
    · rw [p.occupancy_setOccupancy_ne _ fun e => same e.symm]
      simp [Part.liftOfGroup, same]

theorem Part.NoneWaiting.admPass (h : p.NoneWaiting) : p.admPass = p := by
  unfold Part.admPass Part.passWith
  rw [h.queue]
  rfl

/-- With no jack left in the list a close lowers round commands, if it is a DEVICE command's, and the round may end. -/
theorem Part.NoneWaiting.toldOfClose (h : p.NoneWaiting) (o : Origin) : p.toldOfClose o = p.setMode { p.mode with
      roundInProgress := (p.toldOfClose o).mode.roundInProgress
      roundCommands := p.mode.roundCommands - if o == .device then 1 else 0 }
    ∧ ((p.toldOfClose o).mode.roundInProgress && (p.toldOfClose o).mode.roundCommands != 0)
      = (p.mode.roundInProgress && (p.toldOfClose o).mode.roundCommands != 0) := by
  have waits (q : Part) (none : q.mode.roundList = []) : q.creepPassIfWaiting = q := by
    unfold Part.creepPassIfWaiting
    rw [none]
    rfl
  cases o with
  | deck g =>
    rw [Part.toldOfClose, waits p h.list]
    exact ⟨rfl, rfl⟩
  | device =>
    have waits := waits (p.setMode { p.mode with roundCommands := p.mode.roundCommands - 1 }) h.list
    unfold Part.toldOfClose
    dsimp only
    rw [waits]
    unfold Part.endRoundTest
    split
    · next ends =>
      refine ⟨rfl, ?_⟩
      have none : p.mode.roundCommands - 1 = 0 := by
        simpa using (Bool.and_eq_true_iff.1 ends).2
      simp [Part.setMode, none]
    · exact ⟨rfl, rfl⟩

/-- A close as ended, up to what it tells MODE (R71, R72). -/
def Part.freed (p : Part) (c : Command) (r : Reason) : Part :=
  (((p.removeCommand c.subject).answerEnded c r).subjectReturn c).releaseOf c

/-- Such a close moves no mode, no tag, no entry and no frame for the ring. -/
theorem Part.freed_moves (p : Part) (c : Command) (r : Reason) : p.freed c r =
    { p with
      adm := ⟨p.adm.queue, (p.freed c r).adm.occupancy⟩
      xt := ⟨p.xt.table.filter (·.subject ≠ c.subject), p.xt.nodes⟩
      feeds := (p.freed c r).feeds
      mon := (p.freed c r).mon
      sendQueue := (p.freed c r).sendQueue } := by
  have answered := (p.removeCommand c.subject).answerEnded_moves c r
  have returned := ((p.removeCommand c.subject).answerEnded c r).subjectReturn_moves c
  have released := (((p.removeCommand c.subject).answerEnded c r).subjectReturn c).releaseOf_moves c
  unfold Part.freed
  rw [released, returned, answered]
  rfl

theorem Part.NoneWaiting.freed (h : p.NoneWaiting) (c : Command) (r : Reason) : (p.freed c r).NoneWaiting := by
  rw [p.freed_moves]
  exact ⟨h.queue, h.list⟩

theorem Part.NoneWaiting.closeEnded (h : p.NoneWaiting) (c : Command) (r : Reason) :
    p.closeEnded c r = (p.freed c r).toldOfClose c.origin := by
  have waiting := h.freed c r
  calc p.closeEnded c r = (p.freed c r).admPass.toldOfClose c.origin := by
        unfold Part.closeEnded Part.closeWith Part.freed Part.releaseOf
        cases c.task <;> rfl
    _ = (p.freed c r).toldOfClose c.origin := by rw [waiting.admPass]

theorem Part.freed_tells (p : Part) {c : Command} (r : Reason) {g : Tag} (deck : c.origin = .deck g) :
    (p.freed c r).Tells ⟨0, 0, .ended, g, p.summary,
      [octet (p.addrOf c.subject).val, g.setWidth 8] ++ octets2 c.done ++ [r.code]⟩ := by
  have later : (p.freed c r).sendQueue = ((p.removeCommand c.subject).answerEnded c r).sendQueue := by
    unfold Part.freed
    rw [Part.releaseOf_moves, Part.subjectReturn_moves]
  have first := (p.removeCommand c.subject).answerEnded_tells r deck
  rw [Part.addrOf_cfg (show (p.removeCommand c.subject).cfg = p.cfg from rfl)] at first
  exact first.grows (.same later)

theorem Part.freed_pair (p : Part) (c : Command) (r : Reason) {x : Pair} (away : ∀ f, x ≠ .feed f) :
    (p.freed c r).pair x = p.pair x := by
  unfold Part.freed
  rw [Part.releaseOf_moves]
  refine (Part.subjectReturn_pair _ c away).trans ?_
  rw [(p.removeCommand c.subject).answerEnded_moves c r]
  rfl

theorem Part.freed_log (c : Command) (why : Reason) {r : LogRecord} (here : r ∈ p.mon.log)
    (away : ∀ f, r.pair ≠ .feed f) : r ∈ (p.freed c why).mon.log := by
  unfold Part.freed
  rw [Part.releaseOf_moves]
  refine Part.subjectReturn_log _ c ?_ away
  rw [(p.removeCommand c.subject).answerEnded_moves c why]
  exact here

theorem Part.freed_feed (p : Part) (c : Command) (r : Reason) (f : FeedId) : (p.freed c r).feed f =
    if (p.feed f).state = .pouring ∧ c.subject = .feed f then ⟨.ready, (p.feed f).lastSector⟩ else p.feed f := by
  unfold Part.freed
  rw [Part.releaseOf_moves]
  refine (Part.subjectReturn_feed _ c f).trans ?_
  rw [(p.removeCommand c.subject).answerEnded_moves c r]
  rfl

theorem Part.freed_occupancy (p : Part) (c : Command) (r : Reason) (g : GroupId) :
    (p.freed c r).occupancy g = p.occupancy g - [c].countP (p.liftOfGroup g) := by
  have answered := (p.removeCommand c.subject).answerEnded_moves c r
  have cfg : (((p.removeCommand c.subject).answerEnded c r).subjectReturn c).cfg = p.cfg := by
    rw [Part.subjectReturn_moves, answered]
    rfl
  unfold Part.freed
  rw [Part.releaseOf_occupancy, Part.liftOfGroup_cfg cfg, Part.subjectReturn_moves, answered]
  rfl

/-- One close (R71, R72, R91, R114). -/
theorem Part.NoneWaiting.closeEnded_closes (h : p.NoneWaiting) {c : Command} (here : (p.openOf c.subject).isSome) {e : Ending}
    (ending : c.ending = some e) : p.ClosesAll [c] (p.closeEnded c e.reason) := by
  have quiet := p.closeEnded_quiet e.reason here
  have freed := p.freed_moves c e.reason
  have tells := fun g => p.freed_tells (c := c) (g := g) e.reason
  have pairs := fun x => p.freed_pair c e.reason (x := x)
  have log := fun r => Part.freed_log (p := p) c e.reason (r := r)
  have feeds := p.freed_feed c e.reason
  have occupancy := p.freed_occupancy c e.reason
  have waiting := h.freed c e.reason
  have mode : (p.freed c e.reason).mode = p.mode := by rw [freed]
  obtain ⟨told, round⟩ := waiting.toldOfClose c.origin
  rw [h.closeEnded] at quiet ⊢
  generalize (p.freed c e.reason).toldOfClose c.origin = t at *
  generalize p.freed c e.reason = q at *
  refine ⟨quiet, ?_, ?_, ?_, ?_, ?_, fun x away => ?_, fun r here away => ?_, fun d here g deck => ?_, fun f => ?_,
    fun g => ?_⟩
  case refine_1 => rw [told, freed]; rfl
  case refine_2 => rw [told, freed]; simp [eq_comm (a := c.subject)]
  case refine_3 => rw [told, freed]; rfl
  case refine_4 => rw [told, mode]; simp [List.countP_cons]
  case refine_5 => rw [round, mode]
  case refine_6 => rw [told]; exact pairs x away
  case refine_7 => rw [told]; exact log r here away
  case refine_8 =>
    rw [List.mem_singleton.1 here] at deck ⊢
    refine ⟨e, p.summary, ending, (tells g deck).grows (.same ?_)⟩
    rw [told]
    rfl
  case refine_9 => rw [told]; exact (feeds f).trans (by simp)
  case refine_10 => rw [told]; exact occupancy g

/-! ### The closes of a stop -/

/-- A command in RESEND closes with its ending reason; one in SENT stays open (R79). -/
theorem Part.NoneWaiting.closeStopped (h : p.NoneWaiting) (ended : ∀ c ∈ p.xt.table, c.ending.isSome = true) (x : Subject) :
    p.ClosesAll ((p.openOf x).toList.filter (·.phase == .resend)) (p.closeStopped x) := by
  unfold Part.closeStopped
  cases found : p.openOf x with
  | none => exact .refl p
  | some c =>
    obtain ⟨e, ending⟩ := Option.isSome_iff_exists.1 (ended c (List.mem_of_find?_eq_some found))
    cases phase : c.phase with
    | sent =>
      simp only [Option.toList_some, List.filter_cons, phase, List.filter_nil]
      exact .refl p
    | resend =>
      have here : (p.openOf c.subject).isSome := by rw [Part.openOf_subject found, found]; rfl
      simp only [Option.toList_some, List.filter_cons, phase, ending, List.filter_nil]
      exact h.closeEnded_closes here ending

/-- Every command left after closes has an ending reason if every command had one. -/
theorem Part.ClosesAll.ended (h : p.ClosesAll l t) (ended : ∀ c ∈ p.xt.table, c.ending.isSome = true) :
    ∀ c ∈ t.xt.table, c.ending.isSome = true := fun c here => by
  rw [h.xt] at here
  exact ended c (List.mem_of_mem_filter here)

/-- One after the other, for whatever subjects. -/
theorem Part.NoneWaiting.closeStoppeds (h : p.NoneWaiting) (ended : ∀ c ∈ p.xt.table, c.ending.isSome = true)
    (subjects : List Subject) : ∃ l, p.ClosesAll l (subjects.foldl (fun p x => p.closeStopped x) p) := by
  induction subjects generalizing p with
  | nil => exact ⟨[], .refl p⟩
  | cons x subjects ih =>
    have first := h.closeStopped ended x
    obtain ⟨l, rest⟩ := ih (h.after first) (first.ended ended)
    exact ⟨_, first.trans rest⟩

/-- With one command a subject, the command of each. -/
theorem Part.openOf_of_mem (once : (p.xt.table.map Command.subject).Nodup) {c : Command} (here : c ∈ p.xt.table) :
    p.openOf c.subject = some c := by
  cases found : p.openOf c.subject with
  | none => exact absurd (beq_self_eq_true c.subject) (List.find?_eq_none.1 found c here)
  | some d =>
    rw [List.inj_on_of_nodup_map once (List.mem_of_find?_eq_some found) here (Part.openOf_subject found)]

/-- With one command a subject, the commands in RESEND close, in the table's order (R79, log 10). -/
theorem Part.NoneWaiting.closeListed (h : p.NoneWaiting) (ended : ∀ c ∈ p.xt.table, c.ending.isSome = true)
    (once : (p.xt.table.map Command.subject).Nodup) (listed : List Command) (here : ∀ c ∈ listed, c ∈ p.xt.table)
    (apart : (listed.map Command.subject).Nodup) : p.ClosesAll (listed.filter (·.phase == .resend))
      ((listed.map Command.subject).foldl (fun p x => p.closeStopped x) p) := by
  induction listed generalizing p with
  | nil => exact .refl p
  | cons c listed ih =>
    have first := h.closeStopped ended c.subject
    rw [Part.openOf_of_mem once (here c List.mem_cons_self)] at first
    rw [List.map_cons, List.nodup_cons] at apart
    obtain ⟨other, apart⟩ := apart
    have left : ∀ d ∈ listed, d ∈ (p.closeStopped c.subject).xt.table := fun d m => by
      rw [first.xt]
      refine List.mem_filter.2 ⟨here d (List.mem_cons_of_mem _ m), List.all_eq_true.2 fun e closed => ?_⟩
      rw [List.mem_singleton.1 (List.mem_of_mem_filter closed)]
      exact decide_eq_true fun same => other (List.mem_map.2 ⟨d, m, same.symm⟩)
    have still : ((p.closeStopped c.subject).xt.table.map Command.subject).Nodup := by
      rw [first.xt]
      exact (List.filter_sublist.map _).nodup once
    have rest := ih (h.after first) (first.ended ended) still left apart
    have whole := first.trans rest
    rw [← List.filter_append] at whole
    exact whole

end

end Sys2Proof.Machine
end

section
/-! SUPPORT. The entry into STOPPED, whatever is open (R105): the queue flushed, the commands in RESEND closed, the round
ended, MON told; the records of the assertion that stops the ring stay in the log (R78, R79, R114, R119, R120). -/

namespace Sys2Proof.Machine

section
variable {p q t : Part}

/-! ### MON told of STOPPED -/

/-- An assertion of a condition of no sector stops none (R128). -/
theorem Part.assertHere_ringWide {x : Pair} (of : pairSector x = none) (d : Option JackId) :
    p.assertHere x d = p.noteAssertion x d := by
  unfold Part.assertHere
  split
  · next k _ named =>
    rw [of] at named
    nomatch named
  · rfl

/-- A test of SPREAD stops no sector, and so touches SPREAD alone (R119). -/
theorem Part.spreadJudging_touches (p : Part) : p.Touches .spread (spreadJudging p).1 := by
  unfold spreadJudging judging
  split
  · change p.Touches .spread (p.assertHere .spread none)
    rw [Part.assertHere_ringWide rfl]
    exact p.noteAssertion_touches .spread none
  · exact p.follow_touches .spread _

/-- SPREAD ceases where its input is false (R119, R125). -/
theorem Part.spreadJudging_ceases (low : p.spreadInput = false) : ((spreadJudging p).1.pair .spread).state = .notPresent := by
  have none : p.assertsNow .spread p.spreadInput = false := by
    rw [low]
    rfl
  unfold spreadJudging judging
  rw [none]
  change ((p.follow .spread p.spreadInput).pair .spread).state = _
  rw [p.follow_pair, if_pos rfl, low]
  rfl

theorem Part.spreadInput_of_true (h : p.spreadInput = true) : p.InputTrue p .spread := by
  simp only [Part.spreadInput, Part.blanked, Bool.and_eq_true, bne_iff_ne, Bool.not_eq_true', Bool.and_eq_false_iff,
    beq_eq_false_iff_ne, decide_eq_true_eq] at h
  obtain ⟨⟨setup, blanked⟩, above⟩ := h
  refine ⟨setup, fun ⟨slip, runs⟩ => ?_, above⟩
  rcases blanked with other | none
  · exact other slip
  · rw [runs] at none
    nomatch none

/-- A record that stands, of a pair of another condition and not under WARN, so that no test of x takes it from the log
(R131, R132). -/
def LogRecord.Lasts (x : Pair) (r : LogRecord) : Prop := r.pair ≠ x ∧ r.present = true ∧ r.applied ≠ .warn

theorem mem_logRoom {l m : List LogRecord} (room : logRoom l = some m) {r : LogRecord} (here : r ∈ l)
    (present : r.present = true) (applied : r.applied ≠ .warn) : r ∈ m := by
  unfold logRoom at room
  split at room
  · exact Option.some.inj room ▸ here
  split at room
  · rw [← Option.some.inj room]
    exact (List.mem_eraseP_of_neg (by simp [present])).2 here
  split at room
  · rw [← Option.some.inj room]
    exact (List.mem_eraseP_of_neg (by simp [applied])).2 here
  · nomatch room

theorem Part.logAssertion_lasts {x : Pair} {m : CondMode} {d : Option JackId} {r : LogRecord} (here : r ∈ p.mon.log)
    (lasts : r.Lasts x) : r ∈ (p.logAssertion x m d).mon.log := by
  obtain ⟨away, present, applied⟩ := lasts
  unfold Part.logAssertion
  split
  · exact List.mem_map.2 ⟨r, here, if_neg away⟩
  · split
    · next room => exact List.mem_append_left _ (mem_logRoom room here present applied)
    · exact here

theorem Part.noteAssertion_lasts {x : Pair} {d : Option JackId} {r : LogRecord} (here : r ∈ p.mon.log)
    (lasts : r.Lasts x) : r ∈ (p.noteAssertion x d).mon.log := by
  unfold Part.noteAssertion
  dsimp only
  have logged := Part.logAssertion_lasts (p := p.setPairState x (.present (p.bank.condMode x)))
    (m := p.bank.condMode x) (d := d) here lasts
  split
  · exact here
  all_goals exact logged

theorem Part.follow_lasts {x : Pair} {b : Bool} {r : LogRecord} (here : r ∈ p.mon.log) (away : r.pair ≠ x) :
    r ∈ (p.follow x b).mon.log := by
  unfold Part.follow
  split
  · split <;> exact here
  all_goals
    split
    · exact here
    · exact Part.cease_log here away

theorem Part.spreadJudging_lasts {r : LogRecord} (here : r ∈ p.mon.log) (lasts : r.Lasts .spread) :
    r ∈ (spreadJudging p).1.mon.log := by
  unfold spreadJudging judging
  split
  · change r ∈ (p.assertHere .spread none).mon.log
    rw [Part.assertHere_ringWide rfl]
    exact Part.noteAssertion_lasts here lasts
  · exact Part.follow_lasts here lasts.1

/-- What MON, told of STOPPED, makes of its records (R105, R119, R120). -/
structure Part.ToldStopped (p t : Part) : Prop where
  only : t = { p with mon := t.mon }
  blanking : t.mon.blanking = none
  alert : t.mon.alert = p.alertDue
  starve : ∀ k, t.pair (.starve k) = { p.pair (.starve k) with state := .notPresent }
  spread : ¬ t.InputTrue t .spread → (t.pair .spread).state = .notPresent
  pairs : ∀ x, x ≠ .spread → (∀ k, x ≠ .starve k) → t.pair x = p.pair x
  log : ∀ r ∈ p.mon.log, r.Lasts .spread → (∀ k, r.pair ≠ .starve k) → r ∈ t.mon.log

theorem Part.unstarved_keeps (p : Part) : p.unstarved = { p with mon := p.unstarved.mon }
    ∧ p.unstarved.mon.alert = p.mon.alert
    ∧ ∀ r ∈ p.mon.log, (∀ k, r.pair ≠ .starve k) → r ∈ p.unstarved.mon.log := by
  unfold Part.unstarved
  generalize sectorIds = l
  refine foldl_law (f := fun p k => p.follow (.starve k) false) (P := fun q : Part => q = { p with mon := q.mon }
    ∧ q.mon.alert = p.mon.alert ∧ ∀ r ∈ p.mon.log, (∀ k, r.pair ≠ .starve k) → r ∈ q.mon.log) ?_ l p
    ⟨rfl, rfl, fun _ m _ => m⟩
  intro q k ⟨only, alert, log⟩
  obtain ⟨followed, -, same⟩ := q.follow_only (.starve k) false
  refine ⟨?_, same.trans alert, fun r here away => Part.follow_lasts (log r here away) (away k)⟩
  rw [only] at followed ⊢
  exact followed

theorem Part.toldOfStopped_told (p : Part) : p.ToldStopped p.toldOfStopped := by
  obtain ⟨only, alert, log⟩ := p.endBlanking.updateAlert.unstarved_keeps
  obtain ⟨judged, others⟩ := Part.unstarved_judged (p := p.endBlanking.updateAlert)
  have starve := Part.unstarved_starve (p := p.endBlanking.updateAlert)
  rw [Part.toldOfStopped_eq]
  generalize p.endBlanking.updateAlert.unstarved = q at *
  have touches := q.spreadJudging_touches
  have watched : q.Watched (spreadJudging q).1 := judging_watched (.inl rfl) _ fun _ => rfl
  have quiet := (spreadJudging_quiet q).keeps
  have ceases := Part.spreadJudging_ceases (p := q)
  have lasts := fun r here => Part.spreadJudging_lasts (p := q) (r := r) here
  generalize (spreadJudging q).1 = t at *
  refine ⟨?_, touches.judged.blanking.trans judged.blanking, quiet.alert.trans alert,
    fun k => (touches.others (.starve k) nofun).trans (starve k), fun low => ceases ?_,
    fun x away starve => (touches.others x away).trans (others x starve),
    fun r here lasting away => lasts r (log r here away) lasting⟩
  · have whole := watched.only
    rw [only] at whole
    exact whole
  · have input : t.spreadInput = q.spreadInput := touches.judged.inputOf .spread
    rw [← input]
    exact Bool.eq_false_iff.2 fun high => low (Part.spreadInput_of_true high)

/-! ### The flush -/

theorem Part.removeEntries_log (p : Part) (which : Entry → Bool) (r : Reason) :
    (p.removeEntries which r).mon.log = p.mon.log :=
  foldl_law (f := Part.refuseEntry r) (P := fun q : Part => q.mon.log = p.mon.log)
    (fun _ (_ : Entry) before => (Part.emit_log _ _ _ _ _).trans before) _ p rfl

/-- The mode record of STOPPED, and the flush out of SLIP, move the queues and events alone (R57, R105). -/
theorem Part.stopFlushed_moves (p : Part) : QueuesOnly (p.setMode p.stoppedRecord) p.stopFlushed
    ∧ p.stopFlushed.mon.log = p.mon.log
    ∧ (p.mode.mode = .slip → ∀ e ∈ p.adm.queue, p.stopFlushed.TellsRefused e 18) := by
  unfold Part.stopFlushed
  split
  · exact ⟨Part.removeEntries_only _ _ _, Part.removeEntries_log _ _ _,
      fun _ e here => Part.removeEntries_tells (which := fun _ => true) .stopped here rfl⟩
  · next away => exact ⟨rfl, rfl, fun slip => absurd slip away⟩

/-! ### The closes -/

/-- The part as the closes of a stop find it (R78). -/
def Part.stopMarked (p : Part) : Part := p.stopFlushed.markAll .stopped fun _ => true

theorem Part.stopMarked_table (p : Part) : p.stopMarked.xt = ⟨p.xt.table.map (Command.mark .stopped), p.xt.nodes⟩ := by
  have same : p.stopFlushed.xt = p.xt := by
    rw [p.stopFlushed_moves.1]
    rfl
  change (⟨p.stopFlushed.xt.table.map (Command.mark .stopped), p.stopFlushed.xt.nodes⟩ : Transactions) = _
  rw [same]

theorem Part.stopMarked_ended (p : Part) : ∀ c ∈ p.stopMarked.xt.table, c.ending.isSome = true := by
  rw [p.stopMarked_table]
  intro c here
  obtain ⟨d, -, rfl⟩ := List.mem_map.1 here
  rfl

theorem Part.stopMarked_waiting (flushed : p.Flushed) : p.stopMarked.NoneWaiting := by
  obtain ⟨-, empty, mode, -⟩ := p.stopFlushed_trims flushed
  exact ⟨empty, (congrArg (·.roundList) mode).trans rfl⟩

/-- The commands that close at a stop: those in RESEND (R79). -/
def Part.resending (p : Part) : List Command := p.xt.table.filter (·.phase == .resend)

theorem Part.stopClosed_closes (flushed : p.Flushed) : ∃ l, p.stopMarked.ClosesAll l p.stopClosed
    ∧ ((p.xt.table.map Command.subject).Nodup → l = p.resending.map (Command.mark .stopped)) := by
  have waiting := Part.stopMarked_waiting flushed
  by_cases once : (p.xt.table.map Command.subject).Nodup
  · have still : (p.stopMarked.xt.table.map Command.subject).Nodup := by
      rw [p.stopMarked_table, List.map_map]
      exact once
    refine ⟨_, waiting.closeListed p.stopMarked_ended still p.stopMarked.xt.table (fun _ => id) still, fun _ => ?_⟩
    rw [p.stopMarked_table, List.filter_map]
    rfl
  · obtain ⟨l, closes⟩ := waiting.closeStoppeds p.stopMarked_ended (p.stopMarked.xt.table.map Command.subject)
    exact ⟨l, closes, fun h => absurd h once⟩

/-- What is left open are the commands in SENT. -/
theorem filter_resending_gone {l : List Command} (once : (l.map Command.subject).Nodup) :
    l.filter (fun d => (l.filter (·.phase == .resend)).all (·.subject ≠ d.subject)) = l.filter (·.phase == .sent) := by
  refine List.filter_congr fun d here => Bool.eq_iff_iff.2 ?_
  simp only [List.all_eq_true, List.mem_filter, and_imp, decide_eq_true_eq, beq_iff_eq]
  constructor
  · intro apart
    cases phase : d.phase with
    | sent => rfl
    | resend => exact absurd rfl (apart d here phase)
  · intro sent c there resend same
    rw [List.inj_on_of_nodup_map once there here same, sent] at resend
    nomatch resend

/-! ### The broadcast STILL, STOP OUT and the round -/

/-- With no jack left in the list the round ends exactly when no round command is open (R114). -/
theorem Part.endRoundTest_stopped (list : p.mode.roundList = []) : p.endRoundTest = p.setMode { p.mode with
    roundInProgress := p.mode.roundInProgress && p.mode.roundCommands != 0 } := by
  unfold Part.endRoundTest
  rw [list]
  split
  · next ends =>
    have still : p.mode.roundCommands = 0 := beq_iff_eq.1 (Bool.and_eq_true_iff.1 ends).2
    rw [show (p.mode.roundInProgress && p.mode.roundCommands != 0) = false by simp [still]]
  · next goes =>
    have same : (p.mode.roundInProgress && p.mode.roundCommands != 0) = p.mode.roundInProgress := by
      cases round : p.mode.roundInProgress with
      | false => rfl
      | true => simpa [round] using goes
    rw [same]
    rfl

end

end Sys2Proof.Machine
end

section
/-! SUPPORT. The entry into STOPPED as R105 gives it, and what it leaves of the pairs and the log. -/

namespace Sys2Proof.Machine

section
variable {p q t : Part}

/-- What the entry into STOPPED makes of the part that its closes leave: the round ended where no command is left, the
broadcast STILL, STOP OUT, supervision off, MON told (R105, R106, R114, R138). -/
theorem Part.enterStopped_moves (runs : p.mode.mode.isStopped = false) (list : p.stopClosed.mode.roundList = []) :
    p.enterStopped = { p.stopClosed with
      mode := { p.stopClosed.mode with
        roundInProgress := p.stopClosed.mode.roundInProgress && p.stopClosed.mode.roundCommands != 0 }
      ringQueue := p.stopClosed.ringQueue ++ [broadcastStill]
      stopOut := true
      sup := { p.stopClosed.sup with active := false }
      mon := p.enterStopped.mon } := by
  have told := p.stopTold.toldOfStopped_told.only
  have ended : p.stopTold = _ :=
    Part.endRoundTest_stopped (p := { p.stopClosed.ringOut false .still 127 0 [] with stopOut := true }) list
  rw [Part.enterStopped_eq runs]
  unfold Part.supOff
  rw [ended] at told ⊢
  dsimp only
  rw [told]
  rfl

/-- The mode record that the closes of a stop leave. -/
theorem Part.ClosesAll.stopped_mode {l : List Command} (flushed : p.Flushed) (h : p.stopMarked.ClosesAll l t) : t.mode =
    { p.stoppedRecord with
      roundInProgress := t.mode.roundInProgress
      roundCommands := p.mode.roundCommands - l.countP (·.origin == .device) } := by
  have mode : p.stopMarked.mode = p.stoppedRecord := (p.stopFlushed_trims flushed).2.2.1
  have whole := h.mode
  rw [mode] at whole
  exact whole

/-- The entry into STOPPED, in the words of its lemmas: closes, then what MON makes of its records. -/
theorem Part.enterStopped_told (runs : p.mode.mode.isStopped = false) :
    p.stopTold.ToldStopped p.stopTold.toldOfStopped ∧ p.enterStopped.mon = p.stopTold.toldOfStopped.mon := by
  have told := p.stopTold.toldOfStopped_told
  rw [Part.enterStopped_eq runs]
  generalize p.stopTold.toldOfStopped = t at *
  exact ⟨told, rfl⟩

theorem Part.stopTold_mon (p : Part) : p.stopTold.mon = p.stopClosed.mon := by
  unfold Part.stopTold Part.endRoundTest
  split <;> rfl

/-- Pairs but SPREAD, STARVE and FEED stay, and so do records of theirs that stand (R79, R91, R105). -/
theorem Part.enterStopped_records (runs : p.mode.mode.isStopped = false) (flushed : p.Flushed) :
    (∀ x, x ≠ .spread → (∀ k, x ≠ .starve k) → (∀ f, x ≠ .feed f) → p.enterStopped.pair x = p.pair x)
    ∧ ∀ r ∈ p.mon.log, r.Lasts .spread → (∀ k, r.pair ≠ .starve k) → (∀ f, r.pair ≠ .feed f) →
      r ∈ p.enterStopped.mon.log := by
  obtain ⟨told, mon⟩ := Part.enterStopped_told runs
  obtain ⟨l, closes, -⟩ := Part.stopClosed_closes flushed
  have before := p.stopTold_mon
  obtain ⟨-, -, -, pairs⟩ := p.stopFlushed_trims flushed
  have log := p.stopFlushed_moves.2.1
  constructor
  · intro x spread starve feed
    calc p.enterStopped.pair x = p.stopTold.toldOfStopped.pair x := congrArg (·.pairs[pairIndex x]) mon
      _ = p.stopTold.pair x := told.pairs x spread starve
      _ = p.stopClosed.pair x := congrArg (·.pairs[pairIndex x]) before
      _ = p.stopMarked.pair x := closes.pairs x feed
      _ = p.pair x := pairs x
  · intro r here lasts starve feed
    rw [mon]
    refine told.log r ?_ lasts starve
    rw [before]
    refine closes.log r ?_ feed
    change r ∈ p.stopFlushed.mon.log
    rwa [log]

/-- The registers that a stop does not move (R105). -/
theorem Part.stopClosed_keeps (p : Part) : Quiet.Keeps (p.setMode p.stoppedRecord) p.stopClosed :=
  ((Part.stopFlushed_quiet (p := p)).trans
    ((p.stopFlushed.markAll_quiet .stopped fun _ => true).trans (Part.closeAllStopped_quiet _))).keeps

/-- Supervision is no input of SPREAD's (R119). -/
theorem Part.supOff_inputTrue (p : Part) : p.supOff.InputTrue p.supOff .spread ↔ p.InputTrue p .spread := .rfl

theorem Part.alertDue_stopped (stopped : p.mode.mode.isStopped = true) : p.alertDue = true := by
  rw [Part.alertDue, stopped]
  rfl

/-- The mode in which MON is told (R99, R105). -/
theorem Part.stopTold_climb (p : Part) : p.stopTold.mode.mode = .stopped p.mode.mode.left := by
  have tested : p.stopTold.mode.mode = p.stopClosed.mode.mode := (Part.endRoundTest_quiet _).keeps.climb
  exact tested.trans p.stopClosed_keeps.climb

/-- What has been told when the closes are done is told still when MON has been told. -/
theorem Part.enterStopped_grows (runs : p.mode.mode.isStopped = false) (list : p.stopClosed.mode.roundList = []) :
    Grows p.stopClosed p.enterStopped := by
  refine .same ?_
  rw [Part.enterStopped_moves runs list]

theorem Part.stopClosed_grows (p : Part) : Grows p.stopFlushed p.stopClosed :=
  ((p.stopFlushed.markAll_quiet .stopped fun _ => true).trans (Part.closeAllStopped_quiet _)).grows

theorem Part.stopMarked_keeps (p : Part) : p.stopMarked.cfg = p.cfg ∧ p.stopMarked.feeds = p.feeds
    ∧ p.stopMarked.adm.occupancy = p.adm.occupancy ∧ p.stopMarked.ringQueue = p.ringQueue := by
  have moves := p.stopFlushed_moves.1
  unfold Part.stopMarked
  rw [moves]
  exact ⟨rfl, rfl, rfl, rfl⟩

/-- What becomes of each command, with one command a subject: the third part of Part.RingStopped (R71, R72, R79, R91). -/
theorem Part.enterStopped_commands (runs : p.mode.mode.isStopped = false) (flushed : p.Flushed)
    (once : (p.xt.table.map Command.subject).Nodup) :
    let left := p.mode.roundCommands - p.resending.countP (·.origin == .device)
    p.enterStopped.xt.table = (p.xt.table.filter (·.phase == .sent)).map (Command.mark .stopped)
    ∧ (∀ c ∈ p.resending, ∀ g, c.origin = .deck g → ∃ summary, p.enterStopped.Tells ⟨0, 0, .ended, g, summary,
      [octet (p.addrOf c.subject).val, g.setWidth 8] ++ octets2 c.done ++ [(c.ending.getD .stopped).reason.code]⟩)
    ∧ (∀ f, p.enterStopped.feed f = if (p.feed f).state = .pouring ∧ p.resending.any (·.subject == .feed f) = true then
        ⟨.ready, (p.feed f).lastSector⟩ else p.feed f)
    ∧ (∀ g, p.enterStopped.occupancy g = p.occupancy g - p.resending.countP (p.liftOfGroup g))
    ∧ p.enterStopped.mode = { p.stoppedRecord with
      roundInProgress := p.mode.roundInProgress && left != 0
      roundCommands := left } := by
  obtain ⟨l, closes, listed⟩ := Part.stopClosed_closes flushed
  obtain ⟨cfg, feeds, occupancy, -⟩ := p.stopMarked_keeps
  have mode := closes.stopped_mode flushed
  have list : p.stopClosed.mode.roundList = [] := by
    rw [mode]
    rfl
  have moves := Part.enterStopped_moves runs list
  have grows := Part.enterStopped_grows runs list
  have marked : (p.stopMarked.mode.roundInProgress) = p.mode.roundInProgress :=
    (congrArg (·.roundInProgress) (p.stopFlushed_trims flushed).2.2.1).trans rfl
  obtain rfl := listed once
  generalize p.stopClosed = c at *
  generalize p.enterStopped = t at *
  dsimp only
  refine ⟨?_, fun d here g deck => ?_, fun f => ?_, fun g => ?_, ?_⟩
  · have subjects : ((p.xt.table.map (Command.mark .stopped)).map Command.subject).Nodup := by
      rw [List.map_map]
      exact once
    have resent : p.resending.map (Command.mark .stopped)
        = (p.xt.table.map (Command.mark .stopped)).filter (·.phase == .resend) := by
      rw [List.filter_map]
      rfl
    have sent : (p.xt.table.filter (·.phase == .sent)).map (Command.mark .stopped)
        = (p.xt.table.map (Command.mark .stopped)).filter (·.phase == .sent) := by
      rw [List.filter_map]
      rfl
    rw [moves, closes.xt, p.stopMarked_table, resent, sent]
    exact filter_resending_gone subjects
  · obtain ⟨e, summary, ending, tells⟩ := closes.told _ (List.mem_map_of_mem here) g deck
    obtain rfl := Option.some.inj ending
    rw [Part.addrOf_cfg cfg] at tells
    exact ⟨summary, tells.grows grows⟩
  · have back := closes.feeds f
    rw [List.any_map] at back
    simp only [Part.feed, feeds] at back
    rw [moves]
    exact back
  · have freed := closes.occupancy g
    rw [List.countP_map, Part.liftOfGroup_cfg cfg] at freed
    simp only [Part.occupancy, occupancy] at freed
    rw [moves]
    exact freed
  · have lowered : c.mode.roundCommands = p.mode.roundCommands - p.resending.countP (·.origin == .device) := by
      rw [mode, List.countP_map]
      rfl
    have round := closes.round
    rw [marked, lowered] at round
    rw [moves]
    dsimp only
    rw [lowered, round, mode, List.countP_map]

/-- The entry into STOPPED out of another mode (R105). -/
theorem Part.enterStopped_ringStopped (runs : p.mode.mode.isStopped = false) (flushed : p.Flushed) :
    p.RingStopped p.enterStopped := by
  obtain ⟨told, mon⟩ := Part.enterStopped_told runs
  obtain ⟨l, closes, -⟩ := Part.stopClosed_closes flushed
  have leaves := Part.enterStopped_leaves runs flushed
  have mode := closes.stopped_mode flushed
  have list : p.stopClosed.mode.roundList = [] := by
    rw [mode]
    rfl
  have moves := Part.enterStopped_moves runs list
  have keeps := p.enterStopped_loud.keeps
  have grows := p.stopClosed_grows.trans (Part.enterStopped_grows runs list)
  have flush := p.stopFlushed_moves.2.2
  have commands := Part.enterStopped_commands runs flushed
  obtain ⟨-, -, -, ring⟩ := p.stopMarked_keeps
  obtain ⟨pairs, -⟩ := Part.enterStopped_records runs flushed
  have pair : ∀ x, p.enterStopped.pair x = p.stopTold.toldOfStopped.pair x := fun x => congrArg (·.pairs[pairIndex x]) mon
  have before : ∀ x, (∀ f, x ≠ .feed f) → p.stopTold.pair x = p.pair x := fun x away =>
    (congrArg (·.pairs[pairIndex x]) p.stopTold_mon).trans ((closes.pairs x away).trans ((p.stopFlushed_trims flushed).2.2.2 x))
  have stopsSector : ∀ x k, pairSector x = some k → (p.enterStopped.pair x).stopsSector = (p.pair x).stopsSector := by
    intro x k of
    by_cases starve : ∃ i, x = .starve i
    · obtain ⟨i, rfl⟩ := starve
      rw [pair, told.starve, before (.starve i) nofun]
    · have other : ∀ y, pairSector y = none → x ≠ y := fun y free same => by
        rw [same, free] at of
        nomatch of
      rw [pairs x (other _ rfl) (fun i same => starve ⟨i, same⟩) fun f => other _ rfl]
  refine ⟨leaves.climb, leaves.timer, ?_, ?_, ?_, leaves.stopOut, leaves.sup, ?_, leaves.blanking, fun k => ?_,
    fun low => ?_, leaves.empty, fun slip e here => (flush slip e here).grows grows, ?_, commands, ?_, stopsSector,
    ?_, keeps.jacks, keeps.sectors, keeps.cfg, keeps.clock, keeps.owed, keeps.resetCause, keeps.resetWait, keeps.stopIn,
    keeps.resetLine, keeps.order⟩
  case refine_1 => rw [moves]; exact list
  case refine_2 => rw [moves]; dsimp only; rw [mode]; rfl
  case refine_3 => rw [moves]; dsimp only; rw [mode]; rfl
  case refine_4 =>
    rw [mon, told.alert]
    exact Part.alertDue_stopped (by rw [p.stopTold_climb]; rfl)
  case refine_5 => rw [pair, told.starve]
  case refine_6 =>
    rw [Part.enterStopped_eq runs, Part.supOff_inputTrue] at low
    rw [pair]
    exact told.spread low
  case refine_7 => rw [moves]; exact closes.ended p.stopMarked_ended
  case refine_8 => rw [moves, closes.xt, p.stopMarked_table]
  case refine_9 => rw [moves, closes.ring, ring]

end

end Sys2Proof.Machine
end

section
/-! SUPPORT. An assertion of REQUEST or STOPIN, which stops the ring (R123, R124, R129): its pair, its record in the fault
log, and the entry into STOPPED or, in STOPPED, nothing beyond MON's records (R79, R105, R131, R132). -/

namespace Sys2Proof.Machine

section
variable {p q t : Part}

/-! ### The fault log -/

/-- A record may go, or there is place for one more (R132). -/
theorem logRoom_isSome {l : List LogRecord} (room : l.length < 32 ∨ ∃ r ∈ l, r.present = false ∨ r.applied = .warn) :
    ∃ m, logRoom l = some m := by
  unfold logRoom
  split
  · exact ⟨_, rfl⟩
  next full =>
  split
  · exact ⟨_, rfl⟩
  next stand =>
  split
  · exact ⟨_, rfl⟩
  next none =>
  rcases room with short | ⟨r, here, gone | warn⟩
  · exact absurd short full
  · exact absurd (List.any_eq_true.2 ⟨r, here, by simp [gone]⟩) stand
  · exact absurd (List.any_eq_true.2 ⟨r, here, by simp [warn]⟩) none

theorem logRoom_eq_none {l : List LogRecord} (full : ¬ l.length < 32)
    (stand : ∀ r ∈ l, ¬ (r.present = false ∨ r.applied = .warn)) : logRoom l = none := by
  have long : ¬ l.length < Config.maxLog := full
  have noneGone : ¬ l.any (!·.present) = true := fun gone => by
    obtain ⟨r, here, absent⟩ := List.any_eq_true.1 gone
    exact stand r here (.inl (by simpa using absent))
  have noneWarn : ¬ l.any (·.applied == .warn) = true := fun warn => by
    obtain ⟨r, here, applied⟩ := List.any_eq_true.1 warn
    exact stand r here (.inr (by simpa using applied))
  unfold logRoom
  rw [if_neg long, if_neg noneGone, if_neg noneWarn]

/-- With room the log holds the assertion (R131, R132). -/
theorem Part.logAssertion_holds {x : Pair} (m : CondMode) (d : Option JackId) (room : p.LogRoom x) :
    p.LogHolds (p.logAssertion x m d) x m d true := by
  unfold Part.logAssertion
  split
  · next found =>
    refine ⟨fun apart => ?_, fun o here same => List.mem_map.2 ⟨o, here, if_pos same⟩⟩
    obtain ⟨r, here, same⟩ := List.any_eq_true.1 found
    exact absurd (beq_iff_eq.1 same) (apart r here)
  · next none =>
    have apart : ∀ o ∈ p.mon.log, o.pair ≠ x := fun o here same =>
      none (List.any_eq_true.2 ⟨o, here, beq_iff_eq.2 same⟩)
    obtain ⟨l, found⟩ := logRoom_isSome (room.imp_right fun ⟨r, here, may⟩ => ⟨r, here, may.resolve_left (apart r here)⟩)
    rw [found]
    exact ⟨fun _ => List.mem_append_right _ List.mem_cons_self, fun o here same => absurd same (apart o here)⟩

/-- Without room LOG-FULL is raised (R132). -/
theorem Part.logAssertion_full {x : Pair} (m : CondMode) (d : Option JackId) (full : ¬ p.LogRoom x) :
    (p.logAssertion x m d).hasEvent .logFull = true := by
  rw [Part.LogRoom, not_or] at full
  obtain ⟨long, stand⟩ := full
  have apart : ¬ p.mon.log.any (·.pair == x) = true := fun found => by
    obtain ⟨r, here, same⟩ := List.any_eq_true.1 found
    exact stand ⟨r, here, .inl (beq_iff_eq.1 same)⟩
  unfold Part.logAssertion
  rw [if_neg apart, logRoom_eq_none long fun r here may => stand ⟨r, here, .inr may⟩]
  exact Part.raise_hasEvent _ _

/-- What the log holds of an assertion it holds still where records of the pair that stand under this mode stay. -/
theorem Part.LogHolds.mono {x : Pair} {m : CondMode} {d : Option JackId} (h : p.LogHolds q x m d true)
    (stays : ∀ r ∈ q.mon.log, r.pair = x → r.present = true → r.applied = m → r ∈ t.mon.log) :
    p.LogHolds t x m d true :=
  ⟨fun apart => stays _ (h.1 apart) rfl rfl rfl, fun o here same => stays _ (h.2 o here same) same rfl rfl⟩

/-- A pair that ceases has its record present no (R125). -/
theorem Part.LogHolds.cease {x : Pair} {m : CondMode} {d : Option JackId} (h : p.LogHolds t x m d true)
    (present : (t.pair x).state.isPresent = true) : p.LogHolds (t.cease x) x m d false := by
  have gone : (t.cease x).mon.log = t.mon.log.map fun r => if r.pair = x then { r with present := false } else r :=
    if_pos present
  unfold Part.LogHolds
  rw [gone]
  exact ⟨fun apart => List.mem_map.2 ⟨_, h.1 apart, if_pos rfl⟩,
    fun o here same => List.mem_map.2 ⟨_, h.2 o here same, if_pos same⟩⟩

/-- An event raised stays raised in what judging does (R136). -/
theorem Loud.hasEvent (h : Loud p q) {e : EventKind} (raised : p.hasEvent e = true) : q.hasEvent e = true := by
  induction h with
  | quiet h => exact h.hasEvent raised
  | trans _ _ first second => exact second (first raised)
  | stop p q r _ before _ after =>
    have first : q.hasEvent e = true := before.hasEvent raised
    exact after.hasEvent (p := { q with stopOut := true }) first
  | sector p r q inner => exact inner.hasEvent raised
  | supOff p => exact raised

/-! ### The ring stop reads no more of MON than the sector stops -/

theorem Part.RingStopped.of_moves (h : q.RingStopped t) (moves : q = { p with sendQueue := q.sendQueue, mon := q.mon })
    (stops : ∀ x, (q.pair x).stopsSector = (p.pair x).stopsSector) : p.RingStopped t := by
  rw [moves] at h stops
  obtain ⟨climb, timer, list, owed, lease, out, sup, alert, blanking, starve, spread, queue, flush, ended, commands, nodes,
    sector, rest⟩ := h
  exact ⟨climb, timer, list, owed, lease, out, sup, alert, blanking, starve, spread, queue, flush, ended, commands, nodes,
    fun x k of => (sector x k of).trans (stops x), rest⟩

/-- A pair that ceases afterwards changes nothing of it. -/
theorem Part.RingStopped.cease (h : p.RingStopped t) (x : Pair) : p.RingStopped (t.cease x) := by
  have rests : ∀ y, (t.pair y).state = .notPresent → ((t.cease x).pair y).state = .notPresent := fun y none => by
    rw [t.cease_pair]
    split
    · rfl
    · exact none
  have kept : ∀ y, ((t.cease x).pair y).stopsSector = (t.pair y).stopsSector := fun y => by
    rw [t.cease_pair]
    split
    · next same => rw [same]
    · rfl
  obtain ⟨climb, timer, list, owed, lease, out, sup, alert, blanking, starve, spread, queue, flush, ended, commands, nodes,
    sector, rest⟩ := h
  exact ⟨climb, timer, list, owed, lease, out, sup, alert, blanking, fun k => rests _ (starve k),
    fun low => rests _ (spread low), queue, flush, ended, commands, nodes,
    fun y k of => (kept y).trans (sector y k of), rest⟩

/-! ### The assertion -/

/-- What an assertion of a pair x that is of no sector, under RING, leaves (R105, R127, R129). -/
structure Part.StoppedBy (x : Pair) (p t : Part) : Prop where
  pair : t.pair x = ⟨.present .ring, (p.pair x).stopsSector, true⟩
  holds : p.LogRoom x → p.LogHolds t x .ring none true
  full : ¬ p.LogRoom x → t.hasEvent .logFull = true
  stops : p.mode.mode.isStopped = false → p.RingStopped t
  stays : p.mode.mode.isStopped = true →
    t = { p with mon := t.mon } ∧ t.mon.alert = p.mon.alert ∧ ∀ y, y ≠ x → t.pair y = p.pair y

/-- What MON notes of an assertion under RING in the log (R127, R131, R132). -/
theorem Part.noteAssertion_ring {x : Pair} (ring : p.bank.condMode x = .ring) (d : Option JackId) :
    (p.LogRoom x → p.LogHolds (p.noteAssertion x d) x .ring d true)
    ∧ (¬ p.LogRoom x → (p.noteAssertion x d).hasEvent .logFull = true) := by
  have noted : p.noteAssertion x d = ((p.setPairState x (.present .ring)).logAssertion x .ring d).addRingCause x := by
    unfold Part.noteAssertion
    rw [ring]
  rw [noted]
  exact ⟨fun room => Part.logAssertion_holds (p := p.setPairState x (.present .ring)) .ring d room,
    fun full => Part.logAssertion_full (p := p.setPairState x (.present .ring)) .ring d full⟩

theorem Part.assertPair_ringWide {x : Pair} (ring : p.bank.condMode x = .ring) (of : pairSector x = none) (d : Option JackId) :
    p.assertPair x d = (p.noteAssertion x d).enterStopped := by
  unfold Part.assertPair Part.event
  rw [judgeAll_singleton]
  unfold assertion
  rw [Part.assertHere_ringWide of, ring]
  exact if_pos (beq_self_eq_true CondMode.ring)

/-- An assertion under RING of a pair of no sector, and neither SPREAD nor a FEED. -/
theorem Part.assertPair_stops {x : Pair} (ring : p.bank.condMode x = .ring) (of : pairSector x = none) (spread : x ≠ .spread)
    (feed : ∀ f, x ≠ .feed f) (flushed : p.Flushed) : p.StoppedBy x (p.assertPair x none) := by
  have starve : ∀ k, x ≠ .starve k := fun k same => by
    rw [same] at of
    nomatch of
  obtain ⟨holds, full⟩ := Part.noteAssertion_ring ring none
  obtain ⟨only, -, alert⟩ := p.noteAssertion_only x none
  have pair := p.noteAssertion_pair x none
  have here := pair x
  rw [if_pos rfl, ring] at here
  have loud := (p.noteAssertion x none).enterStopped_loud
  rw [Part.assertPair_ringWide ring of]
  by_cases runs : p.mode.mode.isStopped = false
  · have goes : (p.noteAssertion x none).mode.mode.isStopped = false := by
      rw [only]
      exact runs
    have queue : (p.noteAssertion x none).Flushed := by
      rw [only]
      exact flushed
    obtain ⟨pairs, log⟩ := Part.enterStopped_records goes queue
    have stopped := (Part.enterStopped_ringStopped goes queue).of_moves (p := p) (by rw [only]) fun y => by
      rw [pair]
      split
      · next same => rw [same, ring]; simp
      · rfl
    refine ⟨?_, fun room => (holds room).mono fun r inLog same present applied => ?_, fun none => ?_, fun _ => stopped,
      fun off => ?_⟩
    · rw [pairs x spread starve feed, here]
      simp
    · refine log r inLog ⟨?_, present, by rw [applied]; nofun⟩ ?_ ?_
      all_goals
        rw [same]
        assumption
    · exact loud.hasEvent (full none)
    · rw [runs] at off
      nomatch off
  · have off : p.mode.mode.isStopped = true := Bool.eq_true_of_not_eq_false runs
    have stands : (p.noteAssertion x none).mode.mode.isStopped = true := by
      rw [only]
      exact off
    rw [Part.enterStopped_stopped stands]
    refine ⟨by rw [here]; simp, holds, full, fun goes => absurd goes runs, fun _ => ⟨only, alert, fun y away => ?_⟩⟩
    rw [pair, if_neg away]

/-! ### CONTROL STOP (R103, R124) -/

theorem Part.LogRoom.of_log {x : Pair} (log : q.mon.log = p.mon.log) : q.LogRoom x ↔ p.LogRoom x := by
  unfold Part.LogRoom
  rw [log]

theorem Part.LogHolds.of_log {x : Pair} {m : CondMode} {d : Option JackId} {present : Bool} (log : q.mon.log = p.mon.log)
    (clock : q.clock = p.clock) (h : q.LogHolds t x m d present) : p.LogHolds t x m d present := by
  unfold Part.LogHolds at h
  rw [log, clock] at h
  exact h

theorem Part.controlStop_stops (p : Part) (tag : Tag) (flushed : p.Flushed) :
    (p.ack tag codeControl).StoppedBy .request ((p.ack tag codeControl).assertPair .request none) :=
  Part.assertPair_stops rfl rfl nofun nofun ((p.ack_quiet tag codeControl).flushed flushed)

theorem Part.controlStop_answers (p : Part) (tag : Tag) :
    p.Answers (p.controlStop tag) ⟨0, 0, .reply, tag, p.summary, [9, 0]⟩ :=
  Part.answers_of_grows (q := p) rfl ((Part.assertPair_loud _ _ _).trans (.quiet (Part.cease_quiet _ _))).grows

theorem exec_controlStop {s : State} {tag : Tag} (ready : s.part.Ready) : exec (.controlStop tag) s
    = .next { s with part := s.part.acceptAny.finish (s.part.acceptAny.controlStop tag) } := by
  rw [← Part.finish_acceptAny]
  exact State.takeRequest_ready ready

/-- Acceptance leaves an empty queue outside SLIP (R53, R140). -/
theorem Part.DeferredLaw.acceptAny_flushed (h : p.DeferredLaw) : p.acceptAny.Flushed :=
  p.acceptAny_course.flushed h.2.2

end

/-- Settles O31: the ACK, the assertion of REQUEST with the ring stop that it asks for, and its ceasing in turn. -/
theorem controlStopStopsRing : Obligations.ControlStopStopsRing := by
  unfold Obligations.ControlStopStopsRing
  intro s tag ready deferred
  have taken := exec_controlStop (tag := tag) ready
  have flushed := deferred.acceptAny_flushed
  dsimp only
  generalize s.part.acceptAny = p at *
  have quiesced := (Course.loud (p.controlStop_loud tag)).quiesced
  have answers := p.controlStop_answers tag
  obtain ⟨pair, holds, full, stops, stays⟩ := p.controlStop_stops tag flushed
  have moves : p.ack tag codeControl = _ := p.emit_moves .reply 0 tag [codeControl, outAck]
  have pairs : ∀ x, (p.ack tag codeControl).pair x = p.pair x := p.emit_pair .reply 0 tag [codeControl, outAck]
  have log : (p.ack tag codeControl).mon.log = p.mon.log := p.emit_log .reply 0 tag [codeControl, outAck]
  have clock : (p.ack tag codeControl).clock = p.clock := p.ack_clock tag codeControl
  have climb : (p.ack tag codeControl).mode = p.mode := p.ack_mode tag codeControl
  refine ⟨p.controlStop tag, p.finish (p.controlStop tag), taken, quiesced, answers, ?_⟩
  unfold Part.controlStop
  generalize (p.ack tag codeControl).assertPair .request none = b at *
  generalize p.ack tag codeControl = a at *
  rw [pairs] at pair
  rw [climb] at stops stays
  refine ⟨?_, fun room => ?_, fun none => ?_, fun runs => ?_, fun stopped => ?_⟩
  · rw [b.cease_pair, if_pos rfl, pair]
  · have held := (holds ((Part.LogRoom.of_log log).2 room)).of_log log clock
    exact held.cease (by rw [pair]; rfl)
  · exact (b.cease_quiet .request).hasEvent (full fun room => none ((Part.LogRoom.of_log log).1 room))
  · refine ((stops runs).of_moves ?_ fun x => by rw [pairs]).cease .request
    rw [moves]
  · obtain ⟨only, alert, others⟩ := stays stopped
    refine ⟨?_, ?_, fun x away => ?_⟩
    · change ({ b with mon := p.mon, sendQueue := p.sendQueue } : Part) = p
      rw [only, moves]
    · refine Eq.trans (b := b.mon.alert) rfl (alert.trans ?_)
      rw [moves]
    · rw [b.cease_pair, if_neg away, others x away, pairs]

/-! ### STOP IN (R123) -/

section
variable {p : Part}

theorem Part.stopInLevel_same (b : Bool) (still : p.resetLine = true ∨ p.stopIn = b) :
    p.stopInLevel b = { p with stopIn := b } := by
  have same : (p.resetLine || p.stopIn == b) = true := by
    rcases still with held | level
    · rw [held]
      rfl
    · rw [level, beq_self_eq_true, Bool.or_true]
  unfold Part.stopInLevel
  rw [same]
  rfl

theorem Part.stopInLevel_changed {b : Bool} (free : p.resetLine = false) (other : p.stopIn = !b) :
    p.stopInLevel b = ({ p with stopIn := b } : Part).judge .stopin b := by
  have changes : (p.resetLine || p.stopIn == b) = false := by
    rw [free, other]
    cases b <;> rfl
  unfold Part.stopInLevel
  rw [changes]
  rfl

/-- NOT-PRESENT and without deglitch, a condition whose input is found true asserts (R125). -/
theorem Part.judge_asserts {x : Pair} (absent : (p.pair x).state = .notPresent) (deglitch : p.bank.deglitch x = 0) :
    p.judge x true = p.assertPair x none := by
  have now : p.assertsNow x true = true := by
    rw [Part.assertsNow, absent, deglitch]
    rfl
  unfold Part.judge Part.assertPair Part.event
  rw [judgeAll_singleton, judgeAll_singleton]
  unfold judging
  rw [now]
  rfl

/-- A condition whose input is found false has ceased (R125). -/
theorem Part.judge_ceases (x : Pair) : p.Ceased (p.judge x false) x
    ∧ p.judge x false = { p with mon := (p.judge x false).mon } := by
  rw [Part.judge_false]
  obtain ⟨only, blanking, alert⟩ := p.follow_only x false
  refine ⟨⟨(p.follow_pair x false x).trans (if_pos rfl), fun y away => (p.follow_pair x false y).trans (if_neg away), ?_,
    blanking, alert, ?_⟩, only⟩
  · unfold Part.follow
    cases state : (p.pair x).state with
    | notPresent => rfl
    | pending start | present m =>
      change (if (p.pair x).state.isPresent = true then _ else _) = _
      rw [state]
  · unfold Part.follow
    split <;> rfl

theorem Part.stopIn_stops (flushed : p.Flushed) (absent : (p.pair .stopin).state = .notPresent) :
    p.StoppedBy .stopin (p.judge .stopin true) := by
  rw [Part.judge_asserts absent rfl]
  exact Part.assertPair_stops rfl rfl nofun nofun flushed

theorem exec_stopInAssert {s : State} (settled : s.part.Settled) :
    exec .stopInAssert s = .next { s with part := s.part.finish (s.part.stopInLevel true) } := State.act_settled settled

theorem exec_stopInRelease {s : State} (settled : s.part.Settled) :
    exec .stopInRelease s = .next { s with part := s.part.finish (s.part.stopInLevel false) } := State.act_settled settled

/-- An event that moves MON and the level of STOP IN alone has nothing at its end. -/
theorem Part.finish_level {b : Bool} {m : Monitor} (law : p.CommitLaw) :
    p.finish { p with stopIn := b, mon := m } = { p with stopIn := b, mon := m } :=
  Part.finish_eq (Part.leaseSince_keep rfl rfl) law

end

/-- Settles O32: the change of level, then STOPIN asserted with its ring stop, or ceasing, or nothing. -/
theorem stopInLineJudged : Obligations.StopInLineJudged := by
  unfold Obligations.StopInLineJudged
  intro s settled deferred
  have asserted := exec_stopInAssert settled
  have released := exec_stopInRelease settled
  have law := settled.2.2
  dsimp only
  generalize s.part = p at *
  refine ⟨fun free low none => ?_, fun free high => ?_, fun still => ?_, fun still => ?_⟩
  · rw [Part.stopInLevel_changed (b := true) free low] at asserted
    have quiesced : ({ p with stopIn := true } : Part).Quiesced _ _ := (Course.loud (Part.judge_loud _ .stopin true)).quiesced
    have stopped := Part.stopIn_stops (p := { p with stopIn := true }) deferred.2.2 none
    have loud := (Part.judge_loud { p with stopIn := true } .stopin true).keeps
    generalize ({ p with stopIn := true } : Part).judge .stopin true = t at *
    obtain ⟨pair, holds, full, stops, stays⟩ := stopped
    refine ⟨t, p.finish t, asserted, quiesced, loud.stopIn, pair, holds, full, stops, fun off => ?_⟩
    obtain ⟨only, alert, others⟩ := stays off
    exact ⟨by rw [only], alert, others⟩
  · rw [Part.stopInLevel_changed (b := false) free high] at released
    obtain ⟨⟨pair, others, log, -, alert, -⟩, only⟩ := Part.judge_ceases (p := { p with stopIn := false }) .stopin
    generalize ({ p with stopIn := false } : Part).judge .stopin false = t at *
    rw [only, Part.finish_level law, ← only] at released
    exact ⟨t, released, pair, others, alert, fun present => log.trans (if_pos present), by rw [only]⟩
  · rw [Part.stopInLevel_same true still, Part.finish_level law] at asserted
    exact asserted
  · rw [Part.stopInLevel_same false still, Part.finish_level law] at released
    exact released

end Sys2Proof.Machine
end

section
/-! SUPPORT. A deck POUR decided (R87 to R89, R170): refused with the first check that fails, or admitted. -/

namespace Sys2Proof.Machine

/-! ### What the frame names -/

theorem octet_toNat (b : Byte) : octet b.toNat = b := by
  rw [octet, BitVec.ofNat_toNat, BitVec.setWidth_eq]

/-- A 16-bit number goes out as the octets that it came in as (R164). -/
theorem octets2_ofBe16 (hi lo : Byte) : octets2 (ofBe16 hi lo).toNat = [hi, lo] := by
  have number : (ofBe16 hi lo).toNat = 256 * hi.toNat + lo.toNat := by
    rw [ofBe16, BitVec.toNat_append, Nat.shiftLeft_eq, mul_comm]
    exact (Nat.two_pow_add_eq_or_of_lt lo.isLt _).symm
  have high : (256 * hi.toNat + lo.toNat) / 256 = hi.toNat := by have := lo.isLt; omega
  have low : octet (256 * hi.toNat + lo.toNat) = lo := by
    refine BitVec.eq_of_toNat_eq ?_
    rw [octet, BitVec.toNat_ofNat]
    have := lo.isLt
    omega
  rw [octets2, number, high, low, octet_toNat]

theorem indexOf_of_lt {n : Nat} {b : Byte} (inside : b.toNat < n) : indexOf n b = some ⟨b.toNat, inside⟩ := dif_pos inside

theorem indexOf_of_le {n : Nat} {b : Byte} (outside : n ≤ b.toNat) : indexOf n b = none := dif_neg (Nat.not_lt.2 outside)

/-- The feed node found at an address has that address (R84). -/
theorem Part.addrOctet_of_findFeed {p : Part} {a : Byte} {f : FeedId} (found : p.findFeed a = some f) :
    addrOctet (p.feedEntry f).node = a := by
  have here := List.find?_some found
  simp only [Bool.and_eq_true, beq_iff_eq] at here
  rw [addrOctet, here.2, octet_toNat]

/-! ### The checks (R87, R88) -/

section
variable {p : Part}

/-- The tasks that count for a sector are the POURs that name it, whichever feed node they are for (R88). -/
theorem Task.pours_iff (x : Task) (k : SectorId) : (feedIds.any fun g => x == .pour g k) = true ↔ ∃ g, x = .pour g k := by
  simp [feedIds]

theorem Part.pourDepth_eq (k : SectorId) (c : Command) :
    p.pourDepth k c = if (feedIds.any fun g => c.task == .pour g k) = true then depthOf (p.sectorEntry k) c.asked else 0 := by
  simp only [Task.pours_iff]
  unfold Part.pourDepth
  cases c.task <;> simp

/-- The depths that check 9 counts as taken (R88). -/
theorem Part.openPourDepth_eq (k : SectorId) :
    p.openPourDepth k = ((p.xt.table.filter fun c => feedIds.any fun g => c.task == .pour g k).map fun c =>
      depthOf (p.sectorEntry k) c.asked).sum := by
  unfold Part.openPourDepth
  induction p.xt.table with
  | nil => rfl
  | cons c l ih =>
    rw [List.map_cons, List.sum_cons, ih, Part.pourDepth_eq, List.filter_cons]
    split
    · rw [List.map_cons, List.sum_cons]
    · rw [Nat.zero_add]

/-- Checks 3 to 9, each in the words of R87 and R88. -/
theorem Part.pourCheck_eq (f : FeedId) (k : SectorId) (litres : Nat) : p.pourCheck f k litres =
    if p.mode.mode.isStopped then some .mode
    else if (p.feed f).state = .pouring then some .busy
    else if (p.feed f).state = .faulted then some .nodeState
    else if (p.feedEntry f).allowed[k] = false then some .notAllowed
    else if p.sectorStopped k then some .sectorStopped
    else if p.commitPending then some .commit
    else if 64 ≤ p.xt.table.length then some .table
    else if p.formTop k < (p.sector k).top
        + ((p.xt.table.filter fun c => feedIds.any fun g => c.task == .pour g k).map fun c =>
          depthOf (p.sectorEntry k) c.asked).sum
        + depthOf (p.sectorEntry k) litres then some .noRoom
    else none := by
  unfold Part.pourCheck Part.noRoom
  simp only [Part.openPourDepth_eq, Part.openCount, Config.maxOpen, Bool.not_eq_true', decide_eq_true_eq]

/-! ### The decision (R87) -/

/-- Check 1: the sector or the litres out of range. -/
theorem Part.deckPour_of_outside {sector : Byte} {litres : Nat} (dest : Byte) (t : Tag)
    (outside : 24 ≤ sector.toNat ∨ litres < 1 ∨ 4000 < litres) :
    p.deckPour dest t sector litres = p.refuse dest .pour t .range := by
  unfold Part.deckPour
  by_cases inside : sector.toNat < 24
  · have litresOut : (!(decide (1 ≤ litres) && decide (litres ≤ 4000))) = true := by simp; omega
    rw [indexOf_of_lt inside]
    exact if_pos litresOut
  · rw [indexOf_of_le (Nat.not_lt.1 inside)]

section
variable {dest sector : Byte} {litres : Nat} (t : Tag) (inside : sector.toNat < 24) (range : 1 ≤ litres ∧ litres ≤ 4000)
include inside range

/-- Check 2: the address is no enabled feed node's. -/
theorem Part.deckPour_of_noFeed (missing : p.findFeed dest = none) :
    p.deckPour dest t sector litres = p.refuse dest .pour t (p.noFeedReason dest) := by
  simp [Part.deckPour, indexOf_of_lt inside, range, missing]

/-- Checks 1 and 2 passed, the first of the others that fails gives the reason. -/
theorem Part.deckPour_of_fails {f : FeedId} {r : Reason} (found : p.findFeed dest = some f)
    (fails : p.pourCheck f ⟨sector.toNat, inside⟩ litres = some r) :
    p.deckPour dest t sector litres = p.refuse dest .pour t r := by
  simp [Part.deckPour, indexOf_of_lt inside, range, found, fails]

theorem Part.deckPour_of_passes {f : FeedId} (found : p.findFeed dest = some f)
    (passes : p.pourCheck f ⟨sector.toNat, inside⟩ litres = none) :
    p.deckPour dest t sector litres = p.admitPour f ⟨sector.toNat, inside⟩ litres t := by
  simp [Part.deckPour, indexOf_of_lt inside, range, found, passes]

end

/-! ### Admission (R68, R69, R89) -/

/-- A command's record replaces none where its subject has no open command. -/
theorem Part.table_map_of_closed {x : Subject} (c : Command) (closed : p.openOf x = none) :
    (p.xt.table.map fun d => if d.subject = x then c else d) = p.xt.table := by
  have away : ∀ d ∈ p.xt.table, d.subject ≠ x := by simpa [Part.openOf] using closed
  exact (List.map_congr_left fun d here => if_neg (away d here)).trans (List.map_id _)

/-- The part with a POUR admitted but for its FEED pair: its node POURING, its command open under the node's next tag,
and its frame, of all the litres, on its way (R67 to R69, R89). -/
def Part.withPour (p : Part) (f : FeedId) (k : SectorId) (n : Nat) (t : Tag) : Part :=
  let a := (p.feedEntry f).node
  let own := (p.nodeTags a).counter + 1
  { p with
    feeds := p.feeds.set f ⟨.pouring, some k⟩
    xt := ⟨p.xt.table ++ [⟨.pour f k, .deck t, n, 0, own, n, .sent, p.clock, 0, none, none⟩], p.xt.nodes.set a ⟨own, none⟩⟩
    ringQueue := p.ringQueue ++ [⟨⟨addrOctet a, 0, .pour, own, 0, octet k.val :: octets2 n⟩, false⟩] }

/-- No other record stands for the node, so the sub-transaction's tag and size go into the one just made (R67 to R69). -/
theorem Part.openPour_eq {f : FeedId} (k : SectorId) (n : Nat) (t : Tag) (closed : p.openOf (.feed f) = none) :
    (p.setFeed f ⟨.pouring, some k⟩).openCommand (.pour f k) (.deck t) n = p.withPour f k n t := by
  simp [Part.openCommand, Part.sendSub, Part.sendFrame, Part.setCommand, Part.setTable, Part.setCounter,
    Part.setAbandoned, Part.setNodeTags, Part.nodeTags, Part.nextTag, Part.nextSize, Part.withPour, Part.setFeed,
    Part.ringOut, Part.addrOf, Part.feedEntry, Part.bank, Command.subject, Task.subject]
  exact Part.table_map_of_closed _ closed

/-- A POUR admitted: the end of its node's FEED pair leaves the command and the node (R89). -/
theorem Part.admitPour_eq {f : FeedId} (k : SectorId) (n : Nat) (t : Tag) (closed : p.openOf (.feed f) = none) :
    p.admitPour f k n t = (p.withPour f k n t).cease (.feed f) := by
  rw [Part.admitPour, Part.openPour_eq k n t closed]

/-- An admitted POUR is open, so a pending commit waits for it, and no lease comes to pass. -/
theorem Part.finish_admitPour {f : FeedId} (k : SectorId) (n : Nat) (t : Tag) (closed : p.openOf (.feed f) = none) :
    p.finish (p.admitPour f k n t) = p.admitPour f k n t := by
  rw [Part.admitPour_eq k n t closed]
  refine Part.finish_eq (Part.leaseSince_keep rfl rfl) fun _ => ?_
  rw [Part.cease_xt]
  exact List.append_ne_nil_of_right_ne_nil _ (List.cons_ne_nil _ _)

end

/-! ### The statement -/

/-- A POUR of three octets, taken. -/
theorem exec_pour {s : State} (dest : Byte) (tag : Tag) (sector hi lo : Byte) (h : s.part.Ready) :
    exec (.pour dest tag [sector, hi, lo]) s
      = .next { s with part := s.part.finish (s.part.deckPour dest tag sector (ofBe16 hi lo).toNat) } :=
  State.takeFrame_ready h

/-- A POUR of three octets that is answered REFUSED. -/
theorem exec_pour_refused {s : State} {dest : Byte} {tag : Tag} {sector hi lo : Byte} {r : Reason} (h : s.part.Ready)
    (refused : s.part.deckPour dest tag sector (ofBe16 hi lo).toNat = s.part.refuse dest .pour tag r) :
    exec (.pour dest tag [sector, hi, lo]) s = .next { s with part := s.part.refuse dest .pour tag r } :=
  State.takeFrame_refused h refused

/-- Settles O24: the payload, then check by check, in the order of R87, then the admission. -/
theorem pourRefusedOrAdmitted : Obligations.PourRefusedOrAdmitted := by
  unfold Obligations.PourRefusedOrAdmitted
  intro s dest tag ready
  dsimp only
  refine ⟨fun payload length => State.takeFrame_refused ready ?_, fun sector hi lo => ⟨fun outside => ?_,
    fun inside low high => ⟨fun missing => ?_, fun f found => ?_⟩⟩⟩
  · split
    · simp at length
    · rfl
  · exact exec_pour_refused ready (Part.deckPour_of_outside dest tag outside)
  · exact exec_pour_refused ready (Part.deckPour_of_noFeed tag inside ⟨low, high⟩ missing)
  · rw [← Part.pourCheck_eq]
    refine ⟨fun r fails => exec_pour_refused ready (Part.deckPour_of_fails tag inside ⟨low, high⟩ found fails),
      fun passes closed => ?_⟩
    rw [exec_pour dest tag sector hi lo ready, Part.deckPour_of_passes tag inside ⟨low, high⟩ found passes,
      Part.finish_admitPour _ _ _ closed, Part.admitPour_eq _ _ _ closed, Part.withPour, Part.addrOctet_of_findFeed found,
      octet_toNat, octets2_ofBe16]

end Sys2Proof.Machine
end

section
/-! SUPPORT. What a course of effects makes of STOP OUT and ALERT: both stay true to the state (R106, R135). -/

namespace Sys2Proof.Machine

/-! ### Pairs under CLEAR's own updates (R134) -/

theorem Part.clearSectorCauses_pair (p : Part) (q : Pair) : p.clearSectorCauses.pair q
    = { p.pair q with stopsSector := (p.pair q).stopsSector && (p.pair q).state.isPresent } := by
  simp [Part.pair, Part.clearSectorCauses]

theorem Part.clearRingCauses_pair (p : Part) (q : Pair) : p.clearRingCauses.pair q
    = { p.pair q with stopsRing := (p.pair q).stopsRing && (p.pair q).state.isPresent } := by
  simp [Part.pair, Part.clearRingCauses]

/-! ### ALERT (R135) -/

/-- ALERT follows the climb mode and the stop states. -/
theorem Part.alertDue_congr {p q : Part} (climb : q.mode.mode.isStopped = p.mode.mode.isStopped)
    (stopped : ∀ k, q.sectorStopped k = p.sectorStopped k) : q.alertDue = p.alertDue := by
  rw [Part.alertDue, Part.alertDue, climb, funext stopped]

theorem Part.updateAlert_alertLaw (p : Part) : p.updateAlert.AlertLaw := rfl

/-- The law of ALERT where nothing that it reads has changed. -/
theorem Part.AlertLaw.congr {p q : Part} (h : p.AlertLaw) (alert : q.mon.alert = p.mon.alert)
    (climb : q.mode.mode.isStopped = p.mode.mode.isStopped) (stopped : ∀ k, q.sectorStopped k = p.sectorStopped k) :
    q.AlertLaw := by
  rw [Part.AlertLaw, alert, Part.alertDue_congr climb stopped]
  exact h

theorem Part.releaseOf_keeps (p : Part) (c : Command) : Quiet.Keeps p (p.releaseOf c) := by
  unfold Part.releaseOf
  split <;> constructor <;> intros <;> rfl

theorem Quiet.Keeps.alertLaw {p q : Part} (keeps : Quiet.Keeps p q) (h : p.AlertLaw) : q.AlertLaw :=
  h.congr keeps.alert (congrArg ClimbMode.isStopped keeps.climb) keeps.stopped

theorem Loud.alertLaw {p q : Part} (loud : Loud p q) : p.AlertLaw → q.AlertLaw := by
  induction loud with
  | quiet quiet => exact quiet.keeps.alertLaw
  | trans _ _ a b => exact b ∘ a
  | stop p q r _ _ _ _ => exact fun _ => r.endBlanking.updateAlert_alertLaw
  | sector p r _ _ => exact fun _ => r.updateAlert_alertLaw
  | supOff p => exact id

theorem Course.alertLaw {p q : Part} (course : Course p q) : p.AlertLaw → q.AlertLaw := by
  induction course with
  | loud loud => exact loud.alertLaw
  | trans _ _ a b => exact b ∘ a
  | close p q c _ _ ih => exact fun h => (q.releaseOf_keeps c).alertLaw (ih h)
  | mode p m same => exact fun h => h.congr rfl (congrArg ClimbMode.isStopped same) fun _ => rfl
  | climb p q m runs still inner _ =>
    have keeps := inner.keeps
    refine fun h => h.congr keeps.alert ?_ keeps.stopped
    rw [keeps.climb, runs]
    exact still
  | back => exact fun _ => Part.updateAlert_alertLaw _
  | alert p => exact fun _ => p.updateAlert_alertLaw
  | causes p q _ _ => exact fun _ => q.updateAlert_alertLaw
  | ringCauses p =>
    refine fun h => h.congr rfl rfl (Quiet.sectorStopped_congr fun x => ?_)
    rw [Part.clearRingCauses_pair]
  | _ => exact id

/-! ### STOP OUT (R106) -/

theorem Part.StopOutLaw.congr {p q : Part} (h : p.StopOutLaw) (stopOut : q.stopOut = p.stopOut)
    (climb : q.mode.mode.isStopped = p.mode.mode.isStopped) (line : q.resetLine = p.resetLine) : q.StopOutLaw := by
  rw [Part.StopOutLaw, stopOut, climb, line]
  exact h

theorem Quiet.Keeps.stopOutLaw {p q : Part} (keeps : Quiet.Keeps p q) (h : p.StopOutLaw) : q.StopOutLaw :=
  h.congr keeps.stopOut (congrArg ClimbMode.isStopped keeps.climb) keeps.resetLine

/-- In STOPPED, with STOP OUT asserted. -/
theorem Part.stopOutLaw_of_stopped {p : Part} (stopOut : p.stopOut = true) (stopped : p.mode.mode.isStopped = true) :
    p.StopOutLaw := by
  rw [Part.StopOutLaw, stopOut, stopped]
  rfl

theorem Loud.stopOutLaw {p q : Part} (loud : Loud p q) : p.StopOutLaw → q.StopOutLaw := by
  induction loud with
  | quiet quiet => exact quiet.keeps.stopOutLaw
  | trans _ _ a b => exact b ∘ a
  | stop p q r _ before _ after =>
    refine fun _ => Part.stopOutLaw_of_stopped after.keeps.stopOut ?_
    have climb : r.mode.mode = p.stoppedRecord.mode := after.keeps.climb.trans before.keeps.climb
    exact congrArg ClimbMode.isStopped climb
  | sector p r q inner => exact inner.keeps.stopOutLaw
  | supOff p => exact id

theorem Course.stopOutLaw {p q : Part} (course : Course p q) : p.StopOutLaw → q.StopOutLaw := by
  induction course with
  | loud loud => exact loud.stopOutLaw
  | trans _ _ a b => exact b ∘ a
  | close p q c _ _ ih => exact fun h => (q.releaseOf_keeps c).stopOutLaw (ih h)
  | mode p m same => exact fun h => h.congr rfl (congrArg ClimbMode.isStopped same) rfl
  | climb p q m runs still inner _ =>
    have keeps := inner.keeps
    refine fun h => h.congr keeps.stopOut ?_ keeps.resetLine
    rw [keeps.climb, runs]
    exact still
  | back p m x _ runs _ free =>
    intro _
    have lines : (m.mode.isStopped || p.resetLine) = false := by rw [runs, free]; rfl
    exact lines.symm
  | causes p q _ ih => exact ih
  | _ => exact id

end Sys2Proof.Machine
end

section
/-! SUPPORT. Every Turn keeps the laws of the ports (R171, R175), of the event set (R178), of the fault log (R131) and of
the stored sum (R152). -/

namespace Sys2Proof.Machine

/-! ### The ports (R171, R175) -/

theorem Part.releaseOf_ports (c : Command) (p : Part) :
    (p.releaseOf c).sendQueue = p.sendQueue ∧ (p.releaseOf c).ringQueue = p.ringQueue := by
  unfold Part.releaseOf
  split <;> exact ⟨rfl, rfl⟩

/-- Queues that hold no more than lawful ones are lawful. -/
theorem Part.PortLaw.fewer {p q : Part} (h : p.PortLaw) (send : q.sendQueue.length ≤ Config.maxSend)
    (passed : q.passedWaiting ≤ p.passedWaiting) : q.PortLaw := ⟨send, passed.trans h.2⟩

theorem Quiet.sends {p q : Part} (quiet : Quiet p q) :
    p.sendQueue.length ≤ Config.maxSend → q.sendQueue.length ≤ Config.maxSend := by
  induction quiet with
  | trans _ _ a b => exact b ∘ a
  | send p f room _ =>
    intro _
    rw [List.length_append]
    exact room
  | close p q c _ _ ih =>
    rw [(Part.releaseOf_ports c q).1]
    exact ih
  | _ => exact id

theorem Quiet.portLaw {p q : Part} (quiet : Quiet p q) (h : p.PortLaw) : q.PortLaw :=
  h.fewer (quiet.sends h.1) quiet.passed.le

theorem Part.ringOut_portLaw {p : Part} (k : Kind) (d : Byte) (t : Tag) (l : List Byte) (h : p.PortLaw)
    (room : p.passFull = false) : (p.ringOut true k d t l).PortLaw := by
  have fits : p.passedWaiting < Config.maxPassed := by simpa [Part.passFull] using room
  have more : (p.ringOut true k d t l).passedWaiting = p.passedWaiting + 1 := by
    simp [Part.passedWaiting, List.countP_append]
  exact ⟨h.1, by omega⟩

theorem Loud.portLaw {p q : Part} (loud : Loud p q) : p.PortLaw → q.PortLaw := by
  induction loud with
  | quiet quiet => exact quiet.portLaw
  | trans _ _ a b => exact b ∘ a
  | stop p q r _ before _ after => exact fun h => after.portLaw (before.portLaw h)
  | sector p r q inner => exact inner.portLaw
  | supOff p => exact id

theorem Course.portLaw {p q : Part} (course : Course p q) : p.PortLaw → q.PortLaw := by
  induction course with
  | loud loud => exact loud.portLaw
  | trans _ _ a b => exact b ∘ a
  | close p q c _ _ ih =>
    obtain ⟨send, ring⟩ := Part.releaseOf_ports c q
    intro h
    rw [Part.PortLaw, Part.passedWaiting, send, ring]
    exact ih h
  | pour p f k o n _ =>
    refine fun h => h.fewer h.1 ?_
    simp [Part.passedWaiting, Part.openCommand, Part.sendSub, Part.sendFrame, Part.setCommand, Part.setCounter,
      Part.setAbandoned]
  | climb p q m _ _ inner _ => exact inner.portLaw
  | pass p k d t l room => exact fun h => Part.ringOut_portLaw k d t l h room
  | causes p q _ ih => exact ih
  | _ => exact id

/-! ### The event set (R178) -/

/-- No event kind has bit 14 or 15 (R136, R178). -/
theorem Part.raise_eventLaw {p : Part} (e : EventKind) (h : p.EventLaw) : (p.raise e).EventLaw := by
  have clear : ((1 <<< e.bit : Nat) : BitVec 16).getLsbD 14 = false
      ∧ ((1 <<< e.bit : Nat) : BitVec 16).getLsbD 15 = false := by cases e <;> decide
  obtain ⟨fourteen, fifteen⟩ := h
  obtain ⟨clear14, clear15⟩ := clear
  refine ⟨?_, ?_⟩
  · change (p.mon.events ||| _).getLsbD 14 = false
    rw [BitVec.getLsbD_or, fourteen, clear14]
    rfl
  · change (p.mon.events ||| _).getLsbD 15 = false
    rw [BitVec.getLsbD_or, fifteen, clear15]
    rfl

theorem Part.eventLaw_of_reset {p : Part} (reset : p.mon.events = 1) : p.EventLaw := by
  rw [Part.EventLaw, reset]
  decide

theorem Part.releaseOf_mon (c : Command) (p : Part) : (p.releaseOf c).mon = p.mon := by
  unfold Part.releaseOf
  split <;> rfl

theorem Quiet.eventLaw {p q : Part} (quiet : Quiet p q) : p.EventLaw → q.EventLaw := by
  induction quiet with
  | trans _ _ a b => exact b ∘ a
  | raise p e => exact Part.raise_eventLaw e
  | close p q c _ _ ih =>
    rw [Part.EventLaw, Part.EventLaw, Part.releaseOf_mon]
    exact ih
  | _ => exact id

theorem Loud.eventLaw {p q : Part} (loud : Loud p q) : p.EventLaw → q.EventLaw := by
  induction loud with
  | quiet quiet => exact quiet.eventLaw
  | trans _ _ a b => exact b ∘ a
  | stop p q r _ before _ after => exact fun h => after.eventLaw (before.eventLaw h)
  | sector p r q inner => exact inner.eventLaw
  | supOff p => exact id

theorem Course.eventLaw {p q : Part} (course : Course p q) : p.EventLaw → q.EventLaw := by
  induction course with
  | loud loud => exact loud.eventLaw
  | trans _ _ a b => exact b ∘ a
  | close p q c _ _ ih =>
    rw [Part.EventLaw, Part.EventLaw, Part.releaseOf_mon]
    exact ih
  | climb p q m _ _ inner _ => exact inner.eventLaw
  | causes p q _ ih => exact ih
  | events p => exact fun _ => ⟨BitVec.getLsbD_zero, BitVec.getLsbD_zero⟩
  | _ => exact id

/-! ### The fault log (R131) -/

theorem Quiet.logLaw {p q : Part} (quiet : Quiet p q) : p.LogLaw → q.LogLaw := by
  induction quiet with
  | trans _ _ a b => exact b ∘ a
  | log p l ok => exact ok
  | close p q c _ _ ih =>
    rw [Part.LogLaw, Part.LogLaw, Part.releaseOf_mon]
    exact ih
  | _ => exact id

theorem Loud.logLaw {p q : Part} (loud : Loud p q) : p.LogLaw → q.LogLaw := by
  induction loud with
  | quiet quiet => exact quiet.logLaw
  | trans _ _ a b => exact b ∘ a
  | stop p q r _ before _ after => exact fun h => after.logLaw (before.logLaw h)
  | sector p r q inner => exact inner.logLaw
  | supOff p => exact id

theorem Course.logLaw {p q : Part} (course : Course p q) : p.LogLaw → q.LogLaw := by
  induction course with
  | loud loud => exact loud.logLaw
  | trans _ _ a b => exact b ∘ a
  | close p q c _ _ ih =>
    rw [Part.LogLaw, Part.LogLaw, Part.releaseOf_mon]
    exact ih
  | climb p q m _ _ inner _ => exact inner.logLaw
  | causes p q _ ih => exact ih
  | _ => exact id

/-! ### Whole steps -/

/-- Only what neither the two queues, the event set, the fault log nor the stored sum reads differs; a queue may be
shorter. -/
structure Part.SameRecords (p q : Part) : Prop where
  log : q.mon.log = p.mon.log
  events : q.mon.events = p.mon.events
  active : q.cfg.active = p.cfg.active
  sum : q.cfg.storedSum = p.cfg.storedSum
  send : q.sendQueue.Sublist p.sendQueue
  ring : q.ringQueue.Sublist p.ringQueue

theorem Part.SameRecords.of_ports {p q : Part} (mon : q.mon = p.mon) (cfg : q.cfg = p.cfg)
    (send : q.sendQueue.Sublist p.sendQueue) (ring : q.ringQueue.Sublist p.ringQueue) : p.SameRecords q :=
  ⟨congrArg (·.log) mon, congrArg (·.events) mon, congrArg (·.active) cfg, congrArg (·.storedSum) cfg, send, ring⟩

/-- The release event is a course, but for STOP OUT (R181). -/
theorem Part.releaseEvent_course (p : Part) : Course { p with stopOut := p.stopIn } p.releaseEvent :=
  (Course.quiet (.ring _ .still 127 0 [])).trans (.loud p.releaseEvent_loud)

/-- A law of these records that courses and a commit keep and that the reset values meet is kept by every Turn. -/
theorem Turn.records {P : Part → Prop} (course : ∀ {p q : Part}, Course p q → P p → P q)
    (same : ∀ {p q : Part}, p.SameRecords q → P p → P q)
    (bank : ∀ p : Part, P p → P { p with cfg := ⟨p.cfg.shadow, p.cfg.shadow, .idle, p.cfg.shadow.tableSum⟩ })
    (reset : ∀ (p : Part) c, P (p.resetEvent c)) {p q : Part} (turn : Turn p q) : P p → P q := by
  have equal : ∀ {p q : Part}, q.mon = p.mon → q.cfg = p.cfg → q.sendQueue = p.sendQueue → q.ringQueue = p.ringQueue →
      P p → P q := fun mon cfg send ring => same (.of_ports mon cfg (send ▸ .refl _) (ring ▸ .refl _))
  have released : ∀ p : Part, P p → P p.releaseEvent := fun p h => course p.releaseEvent_course (equal (p := p) rfl rfl rfl rfl h)
  induction turn with
  | course h => exact course h
  | trans _ _ a b => exact b ∘ a
  | shadow p b | pending p t _ | idle p | count p => exact same ⟨rfl, rfl, rfl, rfl, .refl _, .refl _⟩
  | owed p l _ | await p n _ | level p b => exact equal rfl rfl rfl rfl
  | bank p _ => exact bank p
  | sendDeck p =>
    unfold Part.sendDeck
    split
    · exact id
    · split
      · exact id
      · next queue =>
        exact same (.of_ports rfl rfl (queue ▸ List.sublist_cons_self _ _) (.refl _))
  | sendRing p =>
    unfold Part.sendRing
    split
    · exact id
    · exact same (.of_ports rfl rfl (.refl _) (List.tail_sublist _))
  | request p _ => exact fun _ => released _ (reset p _)
  | power p =>
    unfold Part.powerUp
    dsimp only
    split
    · exact fun _ => reset p _
    · exact fun _ => released _ (reset p _)
  | hold p =>
    unfold Part.holdReset
    split
    · exact id
    · exact fun _ => equal (p := p.resetEvent .pin) rfl rfl rfl rfl (reset p .pin)
  | release p =>
    unfold Part.releaseReset
    split
    · exact fun h => released _ (equal (p := p) rfl rfl rfl rfl h)
    · exact id

theorem Turn.portLaw {p q : Part} (turn : Turn p q) : p.PortLaw → q.PortLaw :=
  turn.records Course.portLaw (fun same h => h.fewer (same.send.length_le.trans h.1) same.ring.countP_le)
    (fun _ h => h) fun _ _ => ⟨Nat.zero_le _, Nat.zero_le _⟩

theorem Turn.eventLaw {p q : Part} (turn : Turn p q) : p.EventLaw → q.EventLaw :=
  turn.records Course.eventLaw (fun same h => by rw [Part.EventLaw, same.events]; exact h) (fun _ h => h)
    fun _ _ => Part.eventLaw_of_reset rfl

theorem Turn.logLaw {p q : Part} (turn : Turn p q) : p.LogLaw → q.LogLaw :=
  turn.records Course.logLaw (fun same h => by rw [Part.LogLaw, same.log]; exact h) (fun _ h => h)
    fun _ _ => ⟨Nat.zero_le _, List.nodup_nil⟩

/-- The stored sum is taken afresh with each commit (R152, R161). -/
theorem Turn.sumLaw {p q : Part} (turn : Turn p q) : p.SumLaw → q.SumLaw :=
  turn.records (fun course h => by rw [Part.SumLaw, course.keeps.cfg]; exact h)
    (fun same h => by rw [Part.SumLaw, same.sum, same.active]; exact h) (fun _ _ => rfl)
    fun _ _ => defaultBank_tableSum.symm

end Sys2Proof.Machine
end

section
/-! SUPPORT. The tenure of the lease: nothing but LEASE-ASK, LEASE-END, the lease limit and the grant test moves the lease,
and nothing but START and RESUME enters SLIP (R100, R102, R147 to R151). -/

namespace Sys2Proof.Machine

/-- The lease is as it was in m, and SLIP has not been entered since. -/
structure ModeRecord.Tenure (m n : ModeRecord) : Prop where
  lease : n.lease = m.lease
  slip : n.mode = .slip → m.mode = .slip

/-- A test of MON's that leaves the lease and does not enter SLIP. -/
def Judging.Tenured (f : Judging) : Prop := ∀ (m : ModeRecord) (p : Part), m.Tenure p.mode → m.Tenure (f p).1.mode

namespace ModeRecord.Tenure

variable {m n : ModeRecord} {p : Part}

theorem refl (m : ModeRecord) : m.Tenure m := ⟨rfl, id⟩

theorem of_eq (h : m.Tenure p.mode) {q : Part} (mode : q.mode = p.mode) : m.Tenure q.mode := by rwa [mode]

/-- A mode record of the same climb mode and lease. -/
theorem set (h : m.Tenure p.mode) (lease : n.lease = p.mode.lease) (climb : n.mode = p.mode.mode) : m.Tenure n :=
  ⟨lease.trans h.lease, fun slip => h.slip (climb.symm.trans slip)⟩

theorem ite {c : Prop} [Decidable c] {a b : Part} (ha : m.Tenure a.mode) (hb : m.Tenure b.mode) :
    m.Tenure (if c then a else b).mode := by
  split
  · exact ha
  · exact hb

theorem foldl {α : Type} {f : Part → α → Part} (h : ∀ (p : Part) a, m.Tenure p.mode → m.Tenure (f p a).mode)
    (l : List α) (before : m.Tenure p.mode) : m.Tenure (l.foldl f p).mode :=
  foldl_law (P := fun q : Part => m.Tenure q.mode) h l p before

end ModeRecord.Tenure

section
variable {m : ModeRecord} {p : Part}

/-! ### Frames, commands and the deferred queue -/

theorem Part.emit_tenure (k : Kind) (s : Byte) (t : Tag) (l : List Byte) (h : m.Tenure p.mode) :
    m.Tenure (p.emit k s t l).mode := h.of_eq (p.emit_mode k s t l)

theorem Part.refuse_tenure (d : Byte) (k : Kind) (t : Tag) (r : Reason) (h : m.Tenure p.mode) :
    m.Tenure (p.refuse d k t r).mode := Part.emit_tenure _ _ _ _ h

theorem Part.raiseIf_tenure (b : Bool) (e : EventKind) (h : m.Tenure p.mode) : m.Tenure (p.raiseIf b e).mode := .ite h h

theorem Part.sendFrame_tenure (c : Command) (h : m.Tenure p.mode) : m.Tenure (p.sendFrame c).mode := by
  unfold Part.sendFrame
  dsimp only
  split <;> exact h

theorem Part.sendSub_tenure (c : Command) (h : m.Tenure p.mode) : m.Tenure (p.sendSub c).mode :=
  Part.sendFrame_tenure _ h

theorem Part.openCommand_tenure (task : Task) (o : Origin) (n : Nat) (h : m.Tenure p.mode) :
    m.Tenure (p.openCommand task o n).mode := Part.sendSub_tenure _ h

theorem Part.admitLift_tenure (j : JackId) (n : Nat) (o : Origin) (h : m.Tenure p.mode) :
    m.Tenure (p.admitLift j n o).mode := Part.openCommand_tenure _ _ _ h

theorem Part.removeEntries_tenure (which : Entry → Bool) (r : Reason) (h : m.Tenure p.mode) :
    m.Tenure (p.removeEntries which r).mode :=
  .foldl (f := Part.refuseEntry r) (fun _ _ before => Part.refuse_tenure _ _ _ _ before) _ h

theorem Part.examineEntry_tenure (b : Bool) (e : Entry) (h : m.Tenure p.mode) : m.Tenure (p.examineEntry b e).mode := by
  unfold Part.examineEntry
  split
  · exact h
  split
  · exact Part.refuse_tenure _ _ _ _ h
  split
  · exact Part.refuse_tenure _ _ _ _ h
  split
  · exact Part.admitLift_tenure _ _ _ h
  · exact .ite h (Part.emit_tenure _ _ _ _ h)

theorem Part.passWith_tenure (b : Bool) (h : m.Tenure p.mode) : m.Tenure (p.passWith b).mode := by
  refine .foldl (f := Part.examine b) (fun q j before => ?_) _ h
  unfold Part.examine
  split
  · exact Part.examineEntry_tenure b _ before
  · exact before

theorem Part.admPass_tenure (h : m.Tenure p.mode) : m.Tenure p.admPass.mode := Part.passWith_tenure _ h

/-! ### Creep -/

theorem Part.offer_tenure (j : JackId) (h : m.Tenure p.mode) : m.Tenure (p.offer j).mode := by
  unfold Part.offer
  split
  · exact (Part.admitLift_tenure j 1 .device h).set rfl rfl
  · exact .ite h (h.set rfl rfl)

theorem Part.endRoundTest_tenure (h : m.Tenure p.mode) : m.Tenure p.endRoundTest.mode := .ite (h.set rfl rfl) h

theorem Part.creepPass_tenure (h : m.Tenure p.mode) : m.Tenure p.creepPass.mode := by
  have offered := ModeRecord.Tenure.foldl (f := Part.offer) (fun _ j => Part.offer_tenure j) p.mode.roundList h
  exact Part.endRoundTest_tenure (.ite (offered.set rfl rfl) offered)

theorem Part.creepPassIfWaiting_tenure (h : m.Tenure p.mode) : m.Tenure p.creepPassIfWaiting.mode :=
  .ite h (Part.creepPass_tenure h)

theorem Part.startRound_tenure (h : m.Tenure p.mode) : m.Tenure p.startRound.mode :=
  Part.creepPass_tenure (h.set rfl rfl)

theorem Part.owedRound_tenure (h : m.Tenure p.mode) : m.Tenure p.owedRound.mode :=
  .ite (Part.startRound_tenure (h.set rfl rfl)) h

theorem Part.roundLoses_tenure (j : JackId) (h : m.Tenure p.mode) : m.Tenure (p.roundLoses j).mode :=
  Part.endRoundTest_tenure (h.set rfl rfl)

theorem Part.toldOfClose_tenure (o : Origin) (h : m.Tenure p.mode) : m.Tenure (p.toldOfClose o).mode := by
  unfold Part.toldOfClose
  split
  · exact Part.endRoundTest_tenure (Part.creepPassIfWaiting_tenure (h.set rfl rfl))
  · exact Part.creepPassIfWaiting_tenure h

/-! ### Closing -/

theorem Part.answerEnded_tenure (c : Command) (r : Reason) (h : m.Tenure p.mode) : m.Tenure (p.answerEnded c r).mode := by
  unfold Part.answerEnded
  split
  · exact Part.emit_tenure _ _ _ _ h
  · exact h

theorem Part.feedReturn_tenure (f : FeedId) (h : m.Tenure p.mode) : m.Tenure (p.feedReturn f).mode := .ite h h

/-- A close whose answer and fault leave the lease (R72). -/
theorem Part.closeWith_tenure (c : Command) {answer fault : Part → Part}
    (ended : m.Tenure (fault (answer (p.removeCommand c.subject))).mode) : m.Tenure (p.closeWith c answer fault).mode := by
  unfold Part.closeWith
  dsimp only
  refine Part.toldOfClose_tenure _ (Part.admPass_tenure ?_)
  split <;> exact ended

theorem Part.closeEnded_tenure (c : Command) (r : Reason) (h : m.Tenure p.mode) : m.Tenure (p.closeEnded c r).mode := by
  refine Part.closeWith_tenure c ?_
  have answered := Part.answerEnded_tenure (p := p.removeCommand c.subject) c r h
  unfold Part.subjectReturn
  split
  · exact answered
  · exact Part.feedReturn_tenure _ answered

theorem Part.closeStopped_tenure (x : Subject) (h : m.Tenure p.mode) : m.Tenure (p.closeStopped x).mode := by
  unfold Part.closeStopped
  split
  · split
    · exact Part.closeEnded_tenure _ _ h
    · exact h
  · exact h

theorem Part.closeAllStopped_tenure (h : m.Tenure p.mode) : m.Tenure p.closeAllStopped.mode :=
  .foldl (f := fun p x => p.closeStopped x) (fun _ x => Part.closeStopped_tenure x) _ h

/-! ### The tests of an event -/

theorem Part.follow_tenure (q : Pair) (b : Bool) (h : m.Tenure p.mode) : m.Tenure (p.follow q b).mode :=
  h.of_eq (by rw [(p.follow_only q b).1])

theorem Part.stopSector_tenure (k : SectorId) (h : m.Tenure p.mode) : m.Tenure (p.stopSector k).mode := by
  have stilled := ModeRecord.Tenure.foldl (f := Part.stillNode) (fun _ _ before => before)
    (p.xt.table.filter (p.liftsIn k)) (p := p.markAll .sectorStopped (p.liftsIn k)) h
  have closed := stilled.foldl (f := fun p x => p.closeStopped x) (fun _ x => Part.closeStopped_tenure x)
    ((p.xt.table.filter (p.liftsIn k)).map Command.subject)
  exact Part.removeEntries_tenure _ _ closed

theorem Part.assertHere_tenure (q : Pair) (d : Option JackId) (h : m.Tenure p.mode) : m.Tenure (p.assertHere q d).mode := by
  have noted : m.Tenure (p.noteAssertion q d).mode := h.of_eq (by rw [(p.noteAssertion_only q d).1])
  unfold Part.assertHere
  split
  · exact .ite noted (Part.stopSector_tenure _ noted)
  · exact noted

theorem assertion_tenured (q : Pair) (d : Option JackId) : Judging.Tenured (assertion q d) :=
  fun _ _ => Part.assertHere_tenure q d

theorem judging_tenured (q : Pair) (input : Part → Bool) : Judging.Tenured (judging q input) := fun m p h => by
  unfold judging
  split
  · exact assertion_tenured q none m p h
  · exact Part.follow_tenure _ _ h

theorem reasserting_tenured (q : Pair) : Judging.Tenured (reasserting q) := fun m p h => by
  unfold reasserting
  split
  · exact assertion_tenured q none m p h
  · exact h

theorem judgeAll_tenure {l : List Judging} (all : ∀ f ∈ l, Judging.Tenured f) (h : m.Tenure p.mode) :
    m.Tenure (judgeAll l p).1.mode :=
  judgeAll_keeps (P := fun q : Part => m.Tenure q.mode) (fun f here q => all f here m q) h

theorem spreadJudging_tenured : Judging.Tenured spreadJudging := judging_tenured _ _

theorem Part.toldOfStopped_tenure (h : m.Tenure p.mode) : m.Tenure p.toldOfStopped.mode := by
  rw [Part.toldOfStopped_eq]
  have unstarved : m.Tenure p.endBlanking.updateAlert.unstarved.mode :=
    .foldl (f := fun p k => p.follow (.starve k) false) (fun _ _ => Part.follow_tenure _ _) sectorIds h
  exact spreadJudging_tenured m _ unstarved

theorem Part.enterStopped_tenure (h : m.Tenure p.mode) : m.Tenure p.enterStopped.mode := by
  unfold Part.enterStopped
  split
  · exact h
  · have entered : ∀ l, m.Tenure (p.setMode { p.mode with
        mode := .stopped l, creepTimer := none, roundList := [], roundOwed := false }).mode := fun _ => ⟨h.lease, nofun⟩
    dsimp only
    refine Part.toldOfStopped_tenure (Part.endRoundTest_tenure ?_)
    have flushed := fun q : Part => Part.closeAllStopped_tenure (m := m) (p := q.markAll .stopped fun _ => true)
    exact flushed _ (.ite (Part.removeEntries_tenure _ _ (entered _)) (entered _))

theorem Part.event_tenure {l : List Judging} (all : ∀ f ∈ l, Judging.Tenured f) (h : m.Tenure p.mode) :
    m.Tenure (p.event l).mode :=
  .ite (Part.enterStopped_tenure (judgeAll_tenure all h)) (judgeAll_tenure all h)

theorem Part.judge_tenure (q : Pair) (b : Bool) (h : m.Tenure p.mode) : m.Tenure (p.judge q b).mode :=
  Part.event_tenure (List.forall_mem_singleton.2 (judging_tenured _ _)) h

theorem sectorJudgings_tenured {k : SectorId} : ∀ f ∈ sectorJudgings k, Judging.Tenured f :=
  List.forall_mem_cons.2 ⟨judging_tenured _ _, List.forall_mem_singleton.2 (judging_tenured _ _)⟩

theorem compoundJudging_tenured : ∀ f ∈ [compoundJudging], Judging.Tenured f :=
  List.forall_mem_singleton.2 (judging_tenured _ _)

/-- SPREAD and COMPOUND, judged last. -/
theorem ringJudgings_tenured : ∀ f ∈ [spreadJudging, compoundJudging], Judging.Tenured f :=
  List.forall_mem_cons.2 ⟨spreadJudging_tenured, compoundJudging_tenured⟩

theorem Part.judgeReported_tenure (k : SectorId) (h : m.Tenure p.mode) : m.Tenure (p.judgeReported k).mode :=
  Part.event_tenure (List.forall_mem_append.2 ⟨sectorJudgings_tenured, compoundJudging_tenured⟩) h

theorem Part.judgeDeck_tenure (h : m.Tenure p.mode) : m.Tenure p.judgeDeck.mode :=
  Part.event_tenure
    (List.forall_mem_append.2 ⟨List.forall_mem_map.2 fun _ _ => judging_tenured _ _, ringJudgings_tenured⟩) h

theorem Part.judgeBonds_tenure (h : m.Tenure p.mode) : m.Tenure p.judgeBonds.mode :=
  Part.event_tenure
    (List.forall_mem_append.2 ⟨List.forall_mem_map.2 fun _ _ => judging_tenured _ _, compoundJudging_tenured⟩) h

theorem Part.tellMonMode_tenure (h : m.Tenure p.mode) : m.Tenure p.tellMonMode.mode := Part.judgeDeck_tenure h

/-! ### The jack table's report and the done count -/

theorem Part.ceaseAllUnmet_tenure (h : m.Tenure p.mode) : m.Tenure p.ceaseAllUnmet.mode :=
  .foldl (f := Part.ceaseUnmet) (fun _ _ before => .ite before before) _ h

theorem metJudging_tenured (pre : Part) (j : JackId) : Judging.Tenured (metJudging pre j) := fun m p h => by
  unfold metJudging
  split
  · split
    · exact h
    · exact assertion_tenured _ _ m p h
  · exact h

theorem Part.tellMon_tenure (pre : Part) (h : m.Tenure p.mode) : m.Tenure (pre.tellMon p).mode := by
  unfold Part.tellMon
  refine Part.event_tenure ?_ (Part.ceaseAllUnmet_tenure h)
  refine List.forall_mem_append.2 ⟨List.forall_mem_append.2 ⟨List.forall_mem_map.2 fun j _ => metJudging_tenured pre j, ?_⟩,
    ringJudgings_tenured⟩
  exact List.forall_mem_flatMap.2 fun _ _ => sectorJudgings_tenured

theorem Part.tellAdm_tenure (pre : Part) (j : JackId) (h : m.Tenure p.mode) : m.Tenure (pre.tellAdm p j).mode := by
  have moved : m.Tenure (if pre.moved p j then p.admPass else p).mode := .ite (Part.admPass_tenure h) h
  refine .ite (Part.admPass_tenure ?_) moved
  exact .ite moved (Part.removeEntries_tenure _ _ moved)

theorem Part.tellMode_tenure (pre : Part) (j : JackId) (h : m.Tenure p.mode) : m.Tenure (pre.tellMode p j).mode :=
  .ite (Part.roundLoses_tenure j h) h

theorem Part.retireFrom_tenure (n : Nat) (k : SectorId) (h : m.Tenure p.mode) : m.Tenure (p.retireFrom n k).mode :=
  .ite h h

theorem Part.catchUp_tenure (h : m.Tenure p.mode) : m.Tenure p.catchUp.mode := h.of_eq (by rw [p.catchUp_only])

theorem Part.jackReport_tenure (pre : Part) (h : m.Tenure p.mode) : m.Tenure (pre.jackReport p).mode := by
  have caught : m.Tenure (if pre.stirred p then p.catchUp else p).mode := .ite (Part.catchUp_tenure h) h
  have bottoms := caught.foldl (f := pre.reportBottom) (fun q k before =>
    have retired := Part.retireFrom_tenure (pre.sectorBottom k) k before
    .ite (Part.admPass_tenure retired) retired) sectorIds
  have told := bottoms.foldl (f := pre.tellAdm) (fun _ j => Part.tellAdm_tenure pre j) jackIds
  have lost := told.foldl (f := pre.tellMode) (fun _ j => Part.tellMode_tenure pre j) jackIds
  unfold Part.jackReport
  exact Part.tellMon_tenure pre lost

theorem Part.reportFaulting_tenure (pre : Part) (j : JackId) (h : m.Tenure p.mode) :
    m.Tenure (pre.reportFaulting j p).mode :=
  .ite (Part.closeStopped_tenure _ (Part.jackReport_tenure _ h)) (Part.jackReport_tenure pre h)

theorem Part.faultJack_tenure (c : FaultCause) (j : JackId) (h : m.Tenure p.mode) : m.Tenure (p.faultJack c j).mode :=
  .ite (Part.reportFaulting_tenure _ _ h) h

theorem Part.applyDone_tenure (j : JackId) (n peak : Nat) (h : m.Tenure p.mode) : m.Tenure (p.applyDone j n peak).mode := by
  have set := fun (x : Jack) b => Part.raiseIf_tenure (m := m) (p := p.setJack j x) b .rodLow h
  exact .ite h (Part.reportFaulting_tenure _ _ (set _ _))

theorem Part.changeJack_tenure (t : Tag) (c : Byte) (j : JackId) (x : Jack) (h : m.Tenure p.mode) :
    m.Tenure (p.changeJack t c j x).mode := Part.jackReport_tenure _ (Part.emit_tenure _ _ _ _ h)

/-! ### Feed nodes and closes that fault their subject -/

theorem Part.feedFault_tenure (f : FeedId) (h : m.Tenure p.mode) : m.Tenure (p.feedFault f).mode :=
  .ite h (Part.judge_tenure _ _ h)

theorem Part.closeTimeout_tenure (c : Command) (h : m.Tenure p.mode) : m.Tenure (p.closeTimeout c).mode := by
  refine Part.closeWith_tenure c ?_
  have answered := fun q : Part => Part.answerEnded_tenure (m := m) (p := q) c .timeout
  unfold Part.subjectFault
  split
  · exact Part.faultJack_tenure _ _ (answered _ h)
  · exact Part.feedFault_tenure _ (answered _ h)

theorem Part.place_tenure (k : SectorId) (n : Nat) (x : MixId) (f : FeedId) (h : m.Tenure p.mode) :
    m.Tenure (p.place k n x f).mode := by
  have recorded : m.Tenure (p.placeRecord k n x f).1.mode := by
    unfold Part.placeRecord
    split
    · exact h
    · split
      · exact Part.raiseIf_tenure _ _ (Part.raiseIf_tenure _ _ h)
      · exact h
  exact .ite (Part.judgeReported_tenure _ (Part.admPass_tenure recorded)) recorded

theorem Part.judgePoured_tenure (f : FeedId) (a : Option SectorId) (n : Option Nat) (k : Byte) (l : Nat) (x : Byte)
    (h : m.Tenure p.mode) : m.Tenure (p.judgePoured f a n k l x).mode := by
  have raised := fun b c => Part.raiseIf_tenure (p := p.raiseIf b .misroute) c .overpour (Part.raiseIf_tenure b .misroute h)
  unfold Part.judgePoured
  dsimp only
  split
  · exact Part.place_tenure _ _ _ _ (raised _ _)
  · exact raised _ _

/-! ### Frames from the deck and from nodes -/

theorem Part.deckLift_tenure (d : Byte) (t : Tag) (n : Nat) (h : m.Tenure p.mode) : m.Tenure (p.deckLift d t n).mode := by
  have no := fun r => Part.refuse_tenure d .lift t r h
  unfold Part.deckLift
  refine .ite (no _) ?_
  split
  · exact no _
  · refine .ite (no _) ?_
    split
    · exact no _
    · split
      · exact .ite (Part.emit_tenure _ _ _ _ h) (no _)
      · exact Part.admitLift_tenure _ _ _ h

theorem Part.deckPour_tenure (d : Byte) (t : Tag) (k : Byte) (n : Nat) (h : m.Tenure p.mode) :
    m.Tenure (p.deckPour d t k n).mode := by
  have no := fun r => Part.refuse_tenure d .pour t r h
  unfold Part.deckPour
  split
  · exact no _
  · refine .ite (no _) ?_
    split
    · exact no _
    · split
      · exact no _
      · exact Part.openCommand_tenure (p := p.setFeed _ _) _ _ _ h

theorem Part.passThrough_tenure (k : Kind) (d : Byte) (t : Tag) (l : List Byte) {before : Part → Part}
    (h : m.Tenure p.mode) (passed : m.Tenure (before p).mode) : m.Tenure (p.passThrough k d t l before).mode :=
  have no := fun r => Part.refuse_tenure d k t r h
  .ite (no _) (.ite (no _) (.ite (no _) passed))

theorem Part.stillFromDeck_tenure (d : Byte) (h : m.Tenure p.mode) : m.Tenure (p.stillFromDeck d).mode := by
  unfold Part.stillFromDeck
  refine .ite (Part.closeAllStopped_tenure h) ?_
  split
  · exact Part.closeStopped_tenure _ h
  · exact h

theorem Part.nodeset_tenure (d : Byte) (t : Tag) (l : List Byte) (h : m.Tenure p.mode) :
    m.Tenure (p.nodeset d t l).mode := by
  have no := fun r => Part.refuse_tenure d .nodeset t r h
  unfold Part.nodeset
  refine .ite (no _) (.ite (no _) ?_)
  split
  · exact .ite (no _) h
  · exact no _
  · exact no _

theorem Part.decideLifted_tenure (n : Nat) (r : LiftedReport) (c : Command) (h : m.Tenure p.mode) :
    m.Tenure (p.decideLifted n r c).mode := by
  have answered : m.Tenure (Part.answerLifted c r (p.removeCommand c.subject)).mode := by
    unfold Part.answerLifted
    split
    · exact Part.emit_tenure _ _ _ _ h
    · exact h
  unfold Part.decideLifted
  refine .ite (Part.closeWith_tenure c answered) (.ite (Part.closeEnded_tenure c _ h) ?_)
  split
  · exact Part.closeEnded_tenure c _ h
  · exact Part.sendSub_tenure c h

theorem Part.strayLifted_tenure (t : Tag) (r : LiftedReport) (h : m.Tenure p.mode) : m.Tenure (p.strayLifted t r).mode := by
  unfold Part.strayLifted
  split
  · exact h
  · split
    · exact Part.applyDone_tenure _ _ _ h
    · exact h
    · exact h

theorem Part.answeredLift_tenure (j : JackId) (c : Command) (r : LiftedReport) (h : m.Tenure p.mode) :
    m.Tenure (p.answeredLift j c r).mode := by
  have done := Part.applyDone_tenure (p := p.setCommand (c.takeLifted r)) j (min r.done c.size) r.peak h
  unfold Part.answeredLift
  dsimp only
  split
  · exact Part.decideLifted_tenure _ _ _ done
  · exact done

theorem Part.takeLifted_tenure (t : Tag) (r : LiftedReport) (h : m.Tenure p.mode) : m.Tenure (p.takeLifted t r).mode := by
  unfold Part.takeLifted
  split
  · split
    · exact .ite (Part.answeredLift_tenure _ _ _ h) (Part.strayLifted_tenure t r h)
    · exact Part.strayLifted_tenure t r h
  · exact Part.strayLifted_tenure t r h

theorem Part.strayPoured_tenure (t : Tag) (r : PouredReport) (h : m.Tenure p.mode) : m.Tenure (p.strayPoured t r).mode := by
  unfold Part.strayPoured
  split
  · exact h
  · split
    · exact Part.judgePoured_tenure _ _ _ _ _ _ h
    · exact h
    · exact h

theorem Part.answerPoured_tenure (c : Command) (r : PouredReport) (h : m.Tenure p.mode) :
    m.Tenure (p.answerPoured c r).mode := by
  unfold Part.answerPoured
  split
  · exact Part.emit_tenure _ _ _ _ h
  · exact h

theorem Part.answeredPour_tenure (f : FeedId) (k : SectorId) (c : Command) (r : PouredReport) (h : m.Tenure p.mode) :
    m.Tenure (p.answeredPour f k c r).mode := by
  have returned := fun d => Part.feedReturn_tenure (p := p.setCommand d) f h
  refine Part.closeWith_tenure _ (Part.answerPoured_tenure _ _ ?_)
  exact Part.judgePoured_tenure _ _ _ _ _ _ (returned _)

theorem Part.takePoured_tenure (t : Tag) (r : PouredReport) (h : m.Tenure p.mode) : m.Tenure (p.takePoured t r).mode := by
  unfold Part.takePoured
  split
  · split
    · exact .ite (Part.answeredPour_tenure _ _ _ _ h) (Part.strayPoured_tenure t r h)
    · exact Part.strayPoured_tenure t r h
  · exact Part.strayPoured_tenure t r h

theorem Part.takeWait_tenure (a : Byte) (t : Tag) (h : m.Tenure p.mode) : m.Tenure (p.takeWait a t).mode := by
  unfold Part.takeWait
  split
  · refine .ite ?_ h
    unfold Part.answeredWait
    split
    · exact Part.closeEnded_tenure _ _ h
    · exact .ite h (Part.closeEnded_tenure (p := p.raise .nodeBusy) _ _ h)
  · exact h

theorem Part.learnDepth_tenure (a d : Byte) (h : m.Tenure p.mode) : m.Tenure (p.learnDepth a d).mode := by
  unfold Part.learnDepth
  split
  · exact .ite h h
  · exact h

theorem Part.takeTrouble_tenure (a : Byte) (h : m.Tenure p.mode) : m.Tenure (p.takeTrouble a).mode := by
  unfold Part.takeTrouble
  split
  · exact Part.faultJack_tenure _ _ h
  · exact Part.feedFault_tenure _ h
  · exact h

theorem Part.unclaimed_tenure (k : Kind) (d : Byte) (t : Tag) (h : m.Tenure p.mode) : m.Tenure (p.unclaimed k d t).mode := by
  unfold Part.unclaimed
  split
  · exact .ite (Part.closeTimeout_tenure _ h) h
  · exact h

end

end Sys2Proof.Machine
end

section
/-! SUPPORT. Requests, deck supervision, the commit and the shares of an advance leave the lease and do not enter SLIP, but
for START, RESUME and the lease's own (R100, R102, R147 to R151). -/

namespace Sys2Proof.Machine

section
variable {m : ModeRecord} {p : Part}

/-! ### Modes and supervision -/

theorem Part.enterHold_tenure {cause : HoldCause} {answer : Part → Part}
    (answers : ∀ {q : Part}, m.Tenure q.mode → m.Tenure (answer q).mode) (h : m.Tenure p.mode) :
    m.Tenure (p.enterHold cause answer).mode := by
  have held : m.Tenure (p.setMode (p.holdRecord cause)).mode := ⟨h.lease, nofun⟩
  have flushed := Part.removeEntries_tenure (fun _ => true) .flushed (answers held)
  exact Part.tellMonMode_tenure (p := ((answer (p.setMode (p.holdRecord cause))).flush .flushed).endBlanking) flushed

theorem Part.deckLostMove_tenure (h : m.Tenure p.mode) : m.Tenure p.deckLostMove.mode :=
  .ite (Part.enterHold_tenure id h) h

theorem Part.returnFromStopped_tenure (h : m.Tenure p.mode) : m.Tenure p.returnFromStopped.mode := by
  have back : ∀ q : Part, q.mode.lease = p.mode.lease → q.mode.mode ≠ .slip → m.Tenure q.tellMonMode.mode :=
    fun q lease down => Part.tellMonMode_tenure ⟨lease.trans h.lease, fun slip => absurd slip down⟩
  unfold Part.returnFromStopped
  split
  · exact back _ rfl nofun
  · exact back _ rfl nofun
  · exact back _ rfl nofun
  all_goals exact h

theorem Part.endDeckLost_tenure (h : m.Tenure p.mode) : m.Tenure p.endDeckLost.mode :=
  .ite (Part.judge_tenure (p := p.setSup _) _ _ h) h

theorem Part.accept_tenure (h : m.Tenure p.mode) : m.Tenure p.accept.mode := by
  have ended := fun x => Part.endDeckLost_tenure (p := p.setSup x) h
  exact .ite ((ended _).set rfl rfl) (ended _)

theorem Part.declareLost_tenure (h : m.Tenure p.mode) : m.Tenure p.declareLost.mode := by
  unfold Part.declareLost
  exact .ite (Part.deckLostMove_tenure (Part.judge_tenure _ _ h)) (Part.judge_tenure _ _ (Part.deckLostMove_tenure h))

theorem Part.violation_tenure (h : m.Tenure p.mode) : m.Tenure p.violation.mode := by
  unfold Part.violation
  exact .ite (Part.declareLost_tenure h) h

theorem Part.heartbeat_tenure (t : Tag) (b : Byte) (h : m.Tenure p.mode) : m.Tenure (p.heartbeat t b).mode := by
  have judged : m.Tenure (p.judgeToken t b).mode := by
    have denied := fun r => Part.violation_tenure (p := p.deny t codeHeartbeat r) (Part.emit_tenure _ _ _ _ h)
    unfold Part.judgeToken
    exact .ite (denied _) (.ite (denied _) (Part.emit_tenure _ _ _ _ (Part.accept_tenure h)))
  unfold Part.heartbeat
  refine .ite ?_ (Part.emit_tenure _ _ _ _ (.ite (Part.endDeckLost_tenure h) h))
  split
  · exact judged
  · exact Part.emit_tenure _ _ _ _ h

/-! ### Requests -/

theorem Part.clear_tenure (t : Tag) (h : m.Tenure p.mode) : m.Tenure (p.clear t).mode := by
  have judged := Part.event_tenure (p := p.clearSectorCauses) compoundJudging_tenured h
  have told := fun l => Part.emit_tenure (p := p.clearSectorCauses.judgeCompound.clearRingCauses.clearLog.updateAlert)
    .reply 0 t (codeClear :: outData :: l) judged
  unfold Part.clear
  exact .ite (Part.returnFromStopped_tenure (told _)) (told _)

theorem Part.controlHold_tenure (t : Tag) (h : m.Tenure p.mode) : m.Tenure (p.controlHold t).mode :=
  .ite (Part.emit_tenure _ _ _ _ h) (Part.enterHold_tenure (fun before => Part.emit_tenure _ _ _ _ before) h)

theorem Part.controlStop_tenure (t : Tag) (h : m.Tenure p.mode) : m.Tenure (p.controlStop t).mode :=
  Part.event_tenure (p := p.ack t codeControl) (List.forall_mem_singleton.2 (assertion_tenured .request none))
    (Part.emit_tenure _ _ _ _ h)

theorem Part.status_tenure (t : Tag) (n : Byte) (h : m.Tenure p.mode) : m.Tenure (p.status t n).mode := by
  unfold Part.status
  split
  · exact Part.emit_tenure (p := p.emptyEvents) _ _ _ _ h
  all_goals exact Part.emit_tenure _ _ _ _ h

theorem Part.faults_tenure (t : Tag) (n : Byte) (h : m.Tenure p.mode) : m.Tenure (p.faults t n).mode := by
  unfold Part.faults
  split <;> exact Part.emit_tenure _ _ _ _ h

theorem Part.tableRead_tenure (t : Tag) (b a i f : Nat) (h : m.Tenure p.mode) : m.Tenure (p.tableRead t b a i f).mode := by
  unfold Part.tableRead
  split <;> exact Part.emit_tenure _ _ _ _ h

theorem Part.tableWrite_tenure (t : Tag) (a i f v : Nat) (h : m.Tenure p.mode) :
    m.Tenure (p.tableWrite t a i f v).mode := by
  unfold Part.tableWrite
  split
  · exact Part.emit_tenure _ _ _ _ h
  · exact .ite (Part.emit_tenure _ _ _ _ h) (Part.emit_tenure (p := p.setShadow _) _ _ _ _ h)

theorem Part.shadowLoad_tenure (t : Tag) (h : m.Tenure p.mode) : m.Tenure (p.shadowLoad t).mode :=
  .ite (Part.emit_tenure _ _ _ _ h) (Part.emit_tenure (p := p.setShadow _) _ _ _ _ h)

theorem Part.spliceBegin_tenure (t : Tag) (j : JackId) (h : m.Tenure p.mode) : m.Tenure (p.spliceBegin t j).mode :=
  have no := fun r => Part.emit_tenure .reply 0 t [codeSpliceBegin, outRefused, Reason.code r] h
  .ite (no _) (.ite (no _) (.ite (no _) (.ite (no _) (Part.changeJack_tenure _ _ _ _ h))))

theorem Part.spliceEnd_tenure (t : Tag) (j : JackId) (n : Nat) (h : m.Tenure p.mode) : m.Tenure (p.spliceEnd t j n).mode :=
  have no := fun r => Part.emit_tenure .reply 0 t [codeSpliceEnd, outRefused, Reason.code r] h
  .ite (no _) (.ite (no _) (Part.changeJack_tenure _ _ _ _ h))

theorem Part.rodSet_tenure (t : Tag) (j : JackId) (n : Nat) (h : m.Tenure p.mode) : m.Tenure (p.rodSet t j n).mode :=
  have no := fun r => Part.emit_tenure .reply 0 t [codeRodSet, outRefused, Reason.code r] h
  .ite (no _) (.ite (no _) (.ite (no _) (.ite (no _) (Part.changeJack_tenure _ _ _ _ h))))

theorem Part.positionSet_tenure (t : Tag) (j : JackId) (n : Nat) (h : m.Tenure p.mode) :
    m.Tenure (p.positionSet t j n).mode :=
  have no := fun r => Part.emit_tenure .reply 0 t [codePositionSet, outRefused, Reason.code r] h
  .ite (no _) (.ite (no _) (.ite (no _) (Part.changeJack_tenure _ _ _ _ h)))

theorem Part.stillOf_tenure (j : JackId) (h : m.Tenure p.mode) : m.Tenure (p.stillOf j).mode := by
  unfold Part.stillOf
  split <;> exact h

theorem Part.isolate_tenure (t : Tag) (a : Byte) (h : m.Tenure p.mode) : m.Tenure (p.isolate t a).mode := by
  have isolated : ∀ j, m.Tenure (p.isolateJack t j).mode := fun j => by
    have acked := fun x => Part.emit_tenure (p := p.setJack j x) .reply 0 t [codeIsolate, outAck] h
    have reported := fun x => Part.closeStopped_tenure (.jack j) (Part.jackReport_tenure p (Part.stillOf_tenure
      (p := ((p.setJack j x).ack t codeIsolate).markOf .isolated (.jack j)) j (acked x)))
    unfold Part.isolateJack
    dsimp only
    split
    · exact reported _
    · exact reported _
    · exact reported _
    all_goals exact Part.emit_tenure _ _ _ _ h
  unfold Part.isolate
  refine .ite (Part.emit_tenure _ _ _ _ h) ?_
  split
  · exact isolated _
  · exact Part.emit_tenure _ _ _ _ h

theorem Part.restoreJack_tenure (t : Tag) (j : JackId) (h : m.Tenure p.mode) : m.Tenure (p.restoreJack t j).mode := by
  have acked := Part.emit_tenure (p := p.setJack j (p.jack j).restore) .reply 0 t [codeRestore, outAck] h
  have restored : m.Tenure (p.jackReport (((p.setJack j (p.jack j).restore).ack t codeRestore).setAbandoned
      (p.addrOf (.jack j)) none)).mode := Part.jackReport_tenure p acked
  unfold Part.restoreJack
  dsimp only
  split
  · exact .ite (Part.emit_tenure _ _ _ _ h) restored
  · exact .ite (Part.emit_tenure _ _ _ _ h) restored
  all_goals exact Part.emit_tenure _ _ _ _ h

theorem Part.restore_tenure (t : Tag) (a : Byte) (h : m.Tenure p.mode) : m.Tenure (p.restore t a).mode := by
  unfold Part.restore
  refine .ite (Part.emit_tenure _ _ _ _ h) ?_
  split
  · exact Part.restoreJack_tenure _ _ h
  · exact .ite (Part.emit_tenure _ _ _ _ h) (.ite (Part.emit_tenure _ _ _ _ h) (Part.emit_tenure _ _ _ _ h))
  · exact Part.emit_tenure _ _ _ _ h

theorem Part.layerEnter_tenure (t : Tag) (k : Byte) (d : Nat) (a : Clock) (x : Byte) (h : m.Tenure p.mode) :
    m.Tenure (p.layerEnter t k d a x).mode := by
  have no := fun r => Part.emit_tenure .reply 0 t [codeLayerEnter, outRefused, Reason.code r] h
  have entered : ∀ k d a x, m.Tenure (p.enterLayer t k d a x).mode := fun k d a x => by
    have acked := fun s => Part.emit_tenure (p := p.setSector k s) .reply 0 t [codeLayerEnter, outAck] h
    exact Part.judgeReported_tenure _ (Part.admPass_tenure (Part.raiseIf_tenure _ _ (acked _)))
  unfold Part.layerEnter
  split
  · exact .ite (no _) (.ite (no _) (.ite (no _) (.ite (no _) (entered _ _ _ _))))
  · exact no _

/-! ### The commit (R161 to R163) -/

theorem Part.commitJackReport_tenure (pre : Part) (h : m.Tenure p.mode) : m.Tenure (pre.commitJackReport p).mode := by
  have retired := (Part.catchUp_tenure h).foldl (f := fun q k => q.retireFrom (pre.sectorBottom k) k)
    (fun _ _ => Part.retireFrom_tenure _ _) sectorIds
  have removed : m.Tenure (Part.commitRemovals _).mode :=
    Part.removeEntries_tenure _ _ (Part.removeEntries_tenure _ _ (Part.removeEntries_tenure _ _ retired))
  unfold Part.commitJackReport
  dsimp only
  exact .foldl (f := pre.tellMode) (fun _ j => Part.tellMode_tenure pre j) jackIds
    (.ite (Part.admPass_tenure removed) removed)

theorem commitJudging_tenured (pre : Part) (j : JackId) : Judging.Tenured (commitJudging pre j) := fun m p h => by
  unfold commitJudging
  split
  · split
    · split
      · exact h
      · exact reasserting_tenured _ m p h
    · exact assertion_tenured _ _ m p h
  · exact h

theorem Part.commitMon_tenure (pre : Part) (h : m.Tenure p.mode) : m.Tenure (pre.commitMon p).mode := by
  unfold Part.commitMon
  refine Part.event_tenure ?_ (Part.ceaseAllUnmet_tenure h)
  simp only [List.forall_mem_append, List.forall_mem_map, List.forall_mem_flatMap, List.forall_mem_cons]
  exact ⟨⟨⟨fun j _ => commitJudging_tenured pre j, fun k _ => ⟨judging_tenured _ _, reasserting_tenured _,
    judging_tenured _ _, reasserting_tenured _, nofun⟩⟩, fun f _ => reasserting_tenured _⟩,
    spreadJudging_tenured, reasserting_tenured _, reasserting_tenured _, judging_tenured _ _, nofun⟩

theorem Part.applyBank_tenure (t : Tag) (h : m.Tenure p.mode) : m.Tenure (p.applyBank t).mode := by
  have replied := fun c => Part.emit_tenure (p := { p with cfg := c }) .reply 0 t [codeCommit, outCommitted] h
  have moved : ∀ q : Part, m.Tenure q.mode → m.Tenure (q.jackTransitions p.bank).mode := fun q before =>
    before.of_eq (by rw [q.jackTransitions_only p.bank])
  have reported := Part.commitJackReport_tenure p (moved _ (replied ⟨p.cfg.shadow, p.cfg.shadow, .idle, p.cfg.shadow.tableSum⟩))
  have fed := reported.foldl (f := Part.feedTransition p.bank) (fun _ _ before => .ite before before) feedIds
  have layered := fed.foldl (f := p.commitLayerReport) (fun _ _ before => .ite (Part.admPass_tenure before) before) sectorIds
  unfold Part.applyBank
  exact Part.creepPassIfWaiting_tenure (Part.commitMon_tenure p (Part.admPass_tenure layered))

theorem Part.cancelCommit_tenure (t : Tag) (why : Option Failing) (h : m.Tenure p.mode) :
    m.Tenure (p.cancelCommit t why).mode :=
  Part.creepPassIfWaiting_tenure (Part.admPass_tenure
    (Part.emit_tenure (p := (p.setCommit .idle).raise .commitCancelled) _ _ _ _ h))

/-! ### The shares of an advance (R184) -/

theorem Part.expireCreep_tenure (h : m.Tenure p.mode) : m.Tenure p.expireCreep.mode := by
  have loaded := fun n => h.set (n := { p.mode with creepTimer := some n }) rfl rfl
  unfold Part.expireCreep
  dsimp only
  split
  · exact ⟨h.lease, h.slip⟩
  · exact loaded _
  · exact .ite (loaded _) (Part.startRound_tenure (p := p.setMode _) (loaded _))

theorem deglitchJudging_tenured (q : Pair) : Judging.Tenured (deglitchJudging q) := fun m p h => by
  unfold deglitchJudging
  split
  · exact assertion_tenured _ _ m p h
  · exact h

theorem Part.shareDeglitch_tenure (h : m.Tenure p.mode) : m.Tenure p.shareDeglitch.mode :=
  Part.event_tenure (List.forall_mem_append.2
    ⟨List.forall_mem_map.2 fun q _ => deglitchJudging_tenured q, compoundJudging_tenured⟩) h

theorem Part.releaseEvent_tenure (h : m.Tenure p.mode) : m.Tenure p.releaseEvent.mode := by
  unfold Part.releaseEvent
  exact .ite (Part.judge_tenure _ _ h) h

/-! ### What leaves MODE as it was -/

theorem Part.resend_mode (c : Command) : (p.resend c).mode = p.mode := by
  unfold Part.resend Part.sendFrame
  dsimp only
  split <;> rfl

theorem Part.openCommand_mode (task : Task) (o : Origin) (n : Nat) : (p.openCommand task o n).mode = p.mode := by
  unfold Part.openCommand Part.sendSub Part.sendFrame
  dsimp only
  split <;> rfl

theorem Part.passWith_mode (b : Bool) : (p.passWith b).mode = p.mode := by
  refine foldl_law (f := Part.examine b) (P := fun q : Part => q.mode = p.mode) (fun q j before => ?_) _ p rfl
  refine Eq.trans ?_ before
  unfold Part.examine
  split
  · unfold Part.examineEntry Part.refuseEntry Part.rehold
    split
    · rfl
    split
    · rw [Part.refuse_mode]
      rfl
    split
    · rw [Part.refuse_mode]
      rfl
    split
    · exact Part.openCommand_mode _ _ _
    · split
      · rfl
      · rw [Part.held_mode]
        rfl
  · rfl

end

end Sys2Proof.Machine
end

section
/-! SUPPORT. What the effect of a command, its end and whole commands keep: STOP OUT and ALERT true to the state while the
part is not held in reset (R106, R135), and the law of the lease (R116, R147, R148). -/

namespace Sys2Proof.Machine

/-- Not held in reset, with STOP OUT and ALERT true to the state (R106, R135). -/
structure Part.Outputs (p : Part) : Prop where
  free : p.resetLine = false
  stopOut : p.StopOutLaw
  alert : p.AlertLaw

theorem Course.outputs {p q : Part} (course : Course p q) (h : p.Outputs) : q.Outputs :=
  ⟨course.keeps.resetLine.trans h.free, course.stopOutLaw h.stopOut, course.alertLaw h.alert⟩

/-- What moves no output, no cause of a stop and no climb mode. -/
theorem Part.Outputs.same {p q : Part} (h : p.Outputs) (free : q.resetLine = p.resetLine) (mode : q.mode.mode = p.mode.mode)
    (mon : q.mon.pairs = p.mon.pairs ∧ q.mon.alert = p.mon.alert) (stopOut : q.stopOut = p.stopOut) : q.Outputs := by
  obtain ⟨pairs, alert⟩ := mon
  have climb := congrArg ClimbMode.isStopped mode
  have pair : ∀ x, q.pair x = p.pair x := Part.pair_of_pairs pairs
  exact ⟨free.trans h.free, h.stopOut.congr stopOut climb free,
    h.alert.congr alert climb (Quiet.sectorStopped_congr fun x => by rw [pair])⟩

/-! ### The relations -/

/-- The test of R116 fails exactly while a round is in progress or a round command is open. -/
theorem Part.grantTest_false {p : Part} :
    p.grantTest = false ↔ p.mode.roundInProgress = true ∨ p.mode.roundCommands ≠ 0 := by
  simp only [Part.grantTest, Bool.and_eq_false_iff, Bool.not_eq_false', beq_eq_false_iff_ne]

/-- What an effect makes of an event that found p, before its end: a lease PENDING that was not so waits for a round. -/
structure Effect (p q : Part) : Prop where
  outputs : p.Outputs → q.Outputs
  slip : p.LeaseLaw → q.mode.mode = .slip → q.mode.lease = .none
  pending : p.LeaseLaw → ∀ asking, q.mode.lease = .pending asking →
    p.mode.lease = .pending asking ∨ q.grantTest = false

/-- What whole events keep. -/
structure Upholds (p q : Part) : Prop where
  outputs : p.Outputs → q.Outputs
  lease : p.LeaseLaw → q.LeaseLaw

namespace Upholds

variable {p q r : Part}

theorem refl (p : Part) : Upholds p p := ⟨id, id⟩

theorem trans (a : Upholds p q) (b : Upholds q r) : Upholds p r := ⟨b.outputs ∘ a.outputs, b.lease ∘ a.lease⟩

theorem foldl {α : Type} {f : Part → α → Part} (h : ∀ (p : Part) a, Upholds p (f p a)) (l : List α) (p : Part) :
    Upholds p (l.foldl f p) :=
  foldl_law (P := Upholds p) (fun q a before => before.trans (h q a)) l p (.refl p)

theorem ite {c : Prop} [Decidable c] {a b : Part} (ha : c → Upholds p a) (hb : ¬ c → Upholds p b) :
    Upholds p (if c then a else b) := by
  split
  · exact ha ‹_›
  · exact hb ‹_›

/-- What leaves MODE as it was. -/
theorem same (outputs : p.Outputs → q.Outputs) (mode : q.mode = p.mode) : Upholds p q :=
  ⟨outputs, fun h => by rwa [Part.LeaseLaw, mode]⟩

theorem course (course : Course p q) (mode : q.mode = p.mode) : Upholds p q := same course.outputs mode

/-- What ends with no lease. -/
theorem unleased (outputs : p.Outputs → q.Outputs) (none : q.mode.lease = .none) : Upholds p q :=
  ⟨outputs, fun _ => ⟨fun _ => none, fun _ asked => nomatch none.symm.trans asked⟩⟩

end Upholds

namespace Effect

variable {p q r : Part}

theorem tenured (outputs : p.Outputs → q.Outputs) (tenure : p.mode.Tenure q.mode) : Effect p q :=
  ⟨outputs, fun law slip => tenure.lease.trans (law.1 (tenure.slip slip)), fun _ _ asked => .inl (tenure.lease ▸ asked)⟩

theorem course (course : Course p q) (tenure : p.mode.Tenure q.mode) : Effect p q := tenured course.outputs tenure

theorem quiet (quiet : Quiet p q) (tenure : p.mode.Tenure q.mode) : Effect p q := course (.quiet quiet) tenure

theorem refl (p : Part) : Effect p p := tenured id (.refl _)

/-- What ends or lets stand that there is no lease. -/
theorem unleased (outputs : p.Outputs → q.Outputs) (none : q.mode.lease = .none) : Effect p q :=
  ⟨outputs, fun _ _ => none, fun _ _ asked => nomatch none.symm.trans asked⟩

theorem whole (h : Upholds p q) : Effect p q :=
  ⟨h.outputs, fun law => (h.lease law).1, fun law asking asked => .inr (Part.grantTest_false.2 ((h.lease law).2 asking asked))⟩

theorem ite {c : Prop} [Decidable c] {a b : Part} (ha : c → Effect p a) (hb : ¬ c → Effect p b) :
    Effect p (if c then a else b) := by
  split
  · exact ha ‹_›
  · exact hb ‹_›

/-- An effect behind what leaves the lease as it was. -/
theorem after (before : Upholds p q) (lease : q.mode.lease = p.mode.lease) (h : Effect q r) : Effect p r :=
  ⟨h.outputs ∘ before.outputs, h.slip ∘ before.lease, fun law asking asked => lease ▸ h.pending (before.lease law) asking asked⟩

end Effect

/-! ### The end of an event (R116, R148, R160) -/

/-- The lease test grants what would break the law of the lease. -/
theorem Effect.leaseSince {pre q : Part} (h : Effect pre q) : Upholds pre (pre.leaseSince q) := by
  refine ⟨fun ok => (Course.quiet (q.leaseSince_quiet pre)).outputs (h.outputs ok), fun law => ⟨fun slip => ?_, ?_⟩⟩
  · have climb := (q.leaseSince_quiet pre).keeps.climb
    have none := h.slip law (climb ▸ slip)
    rw [Part.leaseSince_none fun asking asked => nomatch none.symm.trans asked]
    exact none
  · intro asking
    unfold Part.leaseSince
    split
    · next passes =>
      intro asked
      rcases h.pending law asking asked with before | busy
      · exact nomatch passes.symm.trans (Part.grantTest_false.2 (law.2 asking before))
      · exact Part.grantTest_false.1 busy
    · unfold Part.leaseTest
      split
      · split
        · rw [Part.reply_mode]
          nofun
        · next busy => exact fun _ => Part.grantTest_false.1 (Bool.eq_false_of_not_eq_true busy)
      all_goals
        next lease =>
        rw [lease]
        nofun

section
variable (p : Part)

/-! ### A pending commit (R160 to R163) -/

theorem Part.setCommit_outputs (c : CommitState) (h : p.Outputs) : (p.setCommit c).Outputs := h.same rfl rfl ⟨rfl, rfl⟩ rfl

theorem Part.cancelCommit_effect (t : Tag) (why : Option Failing) : Effect p (p.cancelCommit t why) := by
  refine .tenured (fun h => ?_) (Part.cancelCommit_tenure t why (.refl _))
  exact (Course.quiet ((((Quiet.raise _ _).trans (Part.reply_quiet _ _ _ _ _)).trans
    (Part.admPass_quiet _)).trans (Part.creepPassIfWaiting_quiet _))).outputs (p.setCommit_outputs .idle h)

theorem Part.applyBank_effect (t : Tag) : Effect p (p.applyBank t) := by
  refine .tenured (fun h => ?_) (Part.applyBank_tenure t (.refl _))
  refine Course.outputs ?_
    (h.same (q := { p with cfg := ⟨p.cfg.shadow, p.cfg.shadow, .idle, p.cfg.shadow.tableSum⟩ }) rfl rfl ⟨rfl, rfl⟩ rfl)
  exact (((((((Course.quiet (Part.reply_quiet _ t codeCommit outCommitted [])).trans
    (Part.jackTransitions_course _ p.bank)).trans (Part.commitJackReport_course _ p)).trans
    (.quiet (Quiet.foldl (fun q f => q.feedTransition_quiet p.bank f) _ _))).trans
    (.quiet (Quiet.foldl (fun q k => q.commitLayerReport_quiet p k) _ _))).trans
    (.quiet (Part.admPass_quiet _))).trans (.loud (Part.commitMon_loud _ p))).trans
    (.quiet (Part.creepPassIfWaiting_quiet _))

theorem Part.applyPending_effect (t : Tag) : Effect p (p.applyPending t) := by
  unfold Part.applyPending
  split
  · exact p.cancelCommit_effect _ _
  · exact p.applyBank_effect t

theorem Part.quiesce_upholds : Upholds p p.quiesce := by
  unfold Part.quiesce
  split
  · exact .ite (fun _ => (p.applyPending_effect _).leaseSince) fun _ => .refl p
  · exact .refl p

variable {p} in
/-- The end of an event turns its effect into a whole event. -/
theorem Effect.finish {q : Part} (h : Effect p q) : Upholds p (p.finish q) := h.leaseSince.trans (Part.quiesce_upholds _)

theorem Part.decideCommit_effect (t : Tag) (n : BitVec 16) : Effect p (p.decideCommit t n) := by
  unfold Part.decideCommit
  have no := fun r => Effect.quiet (p.deny_quiet t codeCommit r) (Part.emit_tenure _ _ _ _ (.refl _))
  refine .ite (fun _ => no _) fun _ => .ite (fun _ => no _) fun _ => ?_
  split
  · exact .quiet (p.reply_quiet _ _ _ _) (Part.emit_tenure _ _ _ _ (.refl _))
  · refine .ite (fun _ => p.applyBank_effect t) fun _ => ?_
    refine .tenured (fun h => ?_) (Part.emit_tenure (p := p.setCommit _) _ _ _ _ (.refl _))
    exact (Course.quiet (Part.ack_quiet _ _ _)).outputs (p.setCommit_outputs _ h)

theorem Part.tableWrite_effect (t : Tag) (a i f v : Nat) : Effect p (p.tableWrite t a i f v) := by
  refine .tenured (fun h => ?_) (Part.tableWrite_tenure t a i f v (.refl _))
  have no := fun r => (Course.quiet (p.deny_quiet t codeTableWrite r)).outputs h
  unfold Part.tableWrite
  split
  · exact no _
  · split
    · exact no _
    · exact (Course.quiet (Part.ack_quiet _ _ _)).outputs (h.same rfl rfl ⟨rfl, rfl⟩ rfl)

theorem Part.shadowLoad_effect (t : Tag) : Effect p (p.shadowLoad t) := by
  refine .tenured (fun h => ?_) (Part.shadowLoad_tenure t (.refl _))
  unfold Part.shadowLoad
  split
  · exact (Course.quiet (p.deny_quiet _ _ _)).outputs h
  · exact (Course.quiet (Part.ack_quiet _ _ _)).outputs (h.same rfl rfl ⟨rfl, rfl⟩ rfl)

/-! ### Reset (R181 to R183) -/

/-- At the reset values STOP OUT takes the level of STOP IN, and STOPIN is judged at that level (R123, R181). -/
theorem Part.judgedAtRelease_outputs {p : Part} (free : p.resetLine = false) (mode : p.mode = resetMode)
    (mon : p.mon = resetMonitor) (queue : p.adm.queue = []) (level : p.stopOut = p.stopIn) :
    (if p.stopIn then p.judge .stopin true else p).Outputs := by
  have absent : ∀ q, p.pair q = ⟨.notPresent, false, false⟩ := fun q => by
    rw [Part.pair, mon]
    exact Vector.getElem_replicate _
  have alert : p.AlertLaw := by
    simp [Part.AlertLaw, Part.alertDue, Part.sectorStopped, absent, mode, mon, resetMode, resetMonitor, ClimbMode.isStopped]
  split
  · have stopped := (Part.stopIn_stops (p := p) (fun _ => queue) (by rw [absent])).stops (by rw [mode]; rfl)
    obtain ⟨climb, -, -, -, -, stopOut, -⟩ := stopped
    have loud := Part.judge_loud p .stopin true
    exact ⟨loud.keeps.resetLine.trans free, Part.stopOutLaw_of_stopped stopOut (by rw [climb]; rfl), loud.alertLaw alert⟩
  · next low =>
    refine ⟨free, ?_, alert⟩
    rw [Part.StopOutLaw, level, mode, free]
    exact Bool.eq_false_of_not_eq_true low

/-- The release event, from the reset values, whatever the level of STOP IN. -/
theorem Part.releaseEvent_outputs {p : Part} (free : p.resetLine = false) (mode : p.mode = resetMode)
    (mon : p.mon = resetMonitor) (queue : p.adm.queue = []) : p.releaseEvent.Outputs :=
  Part.judgedAtRelease_outputs (p := ({ p with stopOut := p.stopIn } : Part).ringOut false .still 127 0 [])
    free mode mon queue rfl

theorem Part.requestReset_upholds : Upholds p p.requestReset := by
  refine .unleased (fun h => ?_) ?_
  · exact Part.releaseEvent_outputs (p := p.resetEvent .request) h.free rfl rfl rfl
  · exact (Part.releaseEvent_tenure (m := resetMode) (p := p.resetEvent .request) (.refl _)).lease

theorem Part.powerUp_upholds : Upholds p p.powerUp := by
  unfold Part.powerUp
  dsimp only
  refine .ite (fun held => ?_) fun _ => ?_
  · exact .unleased (fun h => nomatch h.free.symm.trans held) rfl
  · refine .unleased (fun h => ?_) ?_
    · exact Part.releaseEvent_outputs (p := p.resetEvent .power) h.free rfl rfl rfl
    · exact (Part.releaseEvent_tenure (m := resetMode) (p := p.resetEvent .power) (.refl _)).lease

/-- Outside reset the release of the RESET line is nothing. -/
theorem Part.releaseReset_effect : Effect p p.releaseReset := by
  unfold Part.releaseReset
  refine .ite (fun held => ?_) fun _ => .refl p
  exact .tenured (fun h => nomatch h.free.symm.trans held)
    (Part.releaseEvent_tenure (p := { p with resetLine := false }) (.refl _))

theorem Part.askReset_effect (t : Tag) : Effect p (p.askReset t) := by
  unfold Part.askReset
  refine .ite (fun _ => .quiet (p.deny_quiet _ _ _) (Part.emit_tenure _ _ _ _ (.refl _))) fun _ => ?_
  refine .ite (fun _ => ?_) fun _ => .whole p.requestReset_upholds
  refine .tenured (fun h => ?_) (Part.emit_tenure .reply 0 t [codeReset, outAck] (.refl _))
  exact ((Course.quiet (p.ack_quiet t codeReset)).outputs h).same rfl rfl ⟨rfl, rfl⟩ rfl

/-! ### The lease and the entry to SLIP (R100, R102, R147, R150, R151) -/

theorem Lease.isNone_iff {l : Lease} : l.isNone = true ↔ l = .none := by
  cases l <;> simp [Lease.isNone]

theorem Part.leaseAsk_effect (t : Tag) : Effect p (p.leaseAsk t) := by
  have no := fun r => Effect.quiet (p.deny_quiet t codeLeaseAsk r) (Part.emit_tenure _ _ _ _ (.refl _))
  have leased : ∀ l, p.Outputs → (p.setLease l).Outputs := fun _ h => h.same rfl rfl ⟨rfl, rfl⟩ rfl
  unfold Part.leaseAsk
  refine .ite (fun _ => no _) fun off => .ite (fun _ => no _) fun _ => .ite (fun _ => ?_) fun busy => ?_
  · refine ⟨fun h => (Course.quiet (Part.reply_quiet _ _ _ _ _)).outputs (leased _ h), fun _ slip => ?_, fun _ asking => ?_⟩
    · rw [Part.reply_mode] at slip
      exact absurd slip off
    · rw [Part.reply_mode]
      nofun
  · refine ⟨fun h => (Course.quiet (Part.ack_quiet _ _ _)).outputs (leased _ h), fun _ slip => ?_, fun _ _ _ => .inr ?_⟩
    · rw [Part.ack, Part.reply_mode] at slip
      exact absurd slip off
    · rw [Part.grantTest, Part.ack, Part.reply_mode]
      exact Bool.eq_false_of_not_eq_true busy

theorem Part.leaseEnd_effect (t : Tag) : Effect p (p.leaseEnd t) := by
  have outputs := (Course.quiet (p.leaseEnd_quiet t)).outputs
  unfold Part.leaseEnd at *
  split at outputs
  · next none =>
    rw [if_pos none]
    exact .tenured outputs (Part.emit_tenure _ _ _ _ (.refl _))
  · next leased =>
    rw [if_neg leased]
    have ended : (p.setLease .none).mode.Tenure ((p.setLease .none).ack t codeLeaseEnd).mode :=
      Part.emit_tenure _ _ _ _ (.refl _)
    exact .unleased outputs (Part.owedRound_tenure ended).lease

theorem Part.shareLease_effect : Effect p p.shareLease := by
  have outputs := (Course.quiet p.shareLease_quiet).outputs
  unfold Part.shareLease at *
  split
  · next lease =>
    rw [lease] at outputs
    dsimp only at outputs
    split
    · next reached =>
      rw [if_pos reached] at outputs
      refine .unleased outputs (Part.owedRound_tenure (m := (p.setMode { p.mode with lease := .none }).mode) ?_).lease
      exact Part.emit_tenure (p := (p.setMode { p.mode with lease := .none }).raise .leaseOverrun) _ _ _ _ (.refl _)
    · exact .refl p
  · exact .refl p
  · exact .refl p

theorem Part.controlStart_effect (t : Tag) : Effect p (p.controlStart t) := by
  have outputs := (p.controlStart_course t).outputs
  have no := fun r => Effect.quiet (p.deny_quiet t codeControl r) (Part.emit_tenure _ _ _ _ (.refl _))
  unfold Part.controlStart at *
  refine .ite (fun _ => no _) fun setup => .ite (fun _ => no _) fun active => .ite (fun _ => no _) fun free => ?_
  rw [if_neg setup, if_neg active, if_neg free] at outputs
  refine .unleased outputs ((Part.tellMonMode_tenure (m := { p.mode with mode := .slip }) ?_).lease.trans ?_)
  · exact Part.emit_tenure (p := p.setMode { p.mode with mode := .slip }) .reply 0 t [codeControl, outAck] (.refl _)
  · simpa [Lease.isNone_iff] using free

theorem Part.controlResume_effect (t : Tag) : Effect p (p.controlResume t) := by
  have outputs := (p.controlResume_course t).outputs
  have no := fun r => Effect.quiet (p.deny_quiet t codeControl r) (Part.emit_tenure _ _ _ _ (.refl _))
  unfold Part.controlResume at *
  refine .ite (fun _ => no _) fun held => .ite (fun _ => no _) fun deck => .ite (fun _ => no _) fun free => ?_
  rw [if_neg held, if_neg deck, if_neg free] at outputs
  refine .unleased outputs ((Part.endRoundTest_tenure (m := { p.mode with
    mode := .slip, creepTimer := none, roundOwed := false, roundList := [] }) (Part.tellMonMode_tenure ?_)).lease.trans ?_)
  · exact Part.emit_tenure (p := p.setMode { p.mode with
      mode := .slip, creepTimer := none, roundOwed := false, roundList := [] }) .reply 0 t [codeControl, outAck] (.refl _)
  · simpa [Lease.isNone_iff] using free

/-! ### The shares of an advance (R184) -/

variable {p} in
theorem Part.dueCommand_upholds {c : Command} (here : (p.openOf c.subject).isSome) : Upholds p (p.dueCommand c) := by
  unfold Part.dueCommand
  refine .ite (fun _ => (Effect.course (p.closeTimeout_course here) (Part.closeTimeout_tenure c (.refl _))).finish) fun _ => ?_
  exact .ite (fun _ => .course (.quiet (p.resend_quiet c)) (p.resend_mode c)) fun _ => .refl p

theorem Part.shareTransactions_upholds : Upholds p p.shareTransactions := by
  refine Upholds.foldl (fun q x => ?_) _ p
  split
  · next c hc =>
    refine q.dueCommand_upholds ?_
    rw [Part.openOf_subject hc, hc]
    rfl
  · exact .refl q

theorem Part.shareCommitWait_effect : Effect p p.shareCommitWait := by
  unfold Part.shareCommitWait
  split
  · exact .ite (fun _ => p.cancelCommit_effect _ _) fun _ => .refl p
  · exact .refl p

theorem Part.share_effect (x : Share) : Effect p (p.share x) := by
  cases x with
  | deferred => exact .quiet (p.passWith_quiet true) (Part.passWith_tenure _ (.refl _))
  | transactions => exact .whole p.shareTransactions_upholds
  | creep => exact .ite (fun _ => .course p.expireCreep_course (Part.expireCreep_tenure (.refl _))) fun _ => .refl p
  | lease => exact p.shareLease_effect
  | window =>
    refine .ite (fun _ => .course p.expireWindow_course ?_) fun _ => .refl p
    exact Part.violation_tenure (p := p.setSup _) (.refl _)
  | commitWait => exact p.shareCommitWait_effect
  | deglitch => exact .course (.loud p.shareDeglitch_loud) (Part.shareDeglitch_tenure (.refl _))
  | blanking =>
    exact .course p.shareBlanking_course (.ite (Part.judgeDeck_tenure (p := p.endBlanking) (.refl _)) (.refl _))

theorem Part.dropShare_upholds (x : Share) : Upholds p (p.dropShare x) := .same (fun h => h.same rfl rfl ⟨rfl, rfl⟩ rfl) rfl

variable {p} in
/-- An effect before what leaves MODE as it was. -/
theorem Effect.then_same {q r : Part} (h : Effect p q) (same : Upholds q r) (mode : r.mode = q.mode) : Effect p r :=
  ⟨same.outputs ∘ h.outputs, by rw [mode]; exact h.slip, by rw [Part.grantTest, mode]; exact h.pending⟩

theorem Part.takeShare_upholds (x : Share) : Upholds p (p.takeShare x) := by
  unfold Part.takeShare
  exact .ite (fun _ => ((p.share_effect x).then_same (Part.dropShare_upholds _ x) rfl).finish) fun _ => .refl p

theorem Part.resetIfDue_upholds : Upholds p p.resetIfDue := by
  unfold Part.resetIfDue
  exact .ite (fun _ => p.requestReset_upholds) fun _ => .refl p

theorem Part.settle_upholds : Upholds p p.settle :=
  p.resetIfDue_upholds.trans (.foldl (fun q x => q.takeShare_upholds x) _ _)

theorem Part.settleAll_upholds : Upholds p p.settleAll :=
  p.resetIfDue_upholds.trans (.foldl (fun q x => q.takeShare_upholds x) _ _)

theorem Part.admAdvance_upholds : Upholds p p.admAdvance := by
  unfold Part.admAdvance
  refine .ite (fun _ => ?_) fun _ => .refl p
  exact (Upholds.course (.quiet (p.passWith_quiet false)) (p.passWith_mode false)).trans (Part.dropShare_upholds _ _)

/-- The count of a second moves no output and no lease. -/
theorem Part.counted_upholds : Upholds p { p.countDown with owed := allShares } :=
  ⟨fun h => h.same rfl rfl ⟨rfl, rfl⟩ rfl, id⟩

theorem Part.advance_upholds : Upholds p p.advance := by
  unfold Part.advance
  refine .ite (fun _ => .refl p) fun _ => ?_
  refine Upholds.trans ?_ (Part.admAdvance_upholds _)
  refine (p.counted_upholds.trans (.foldl (fun q x => q.takeShare_upholds x) _ _)).trans (Effect.finish ?_)
  exact .course (.loud (Part.judgeBonds_loud _)) (Part.judgeBonds_tenure (.refl _))

theorem Part.nodeShare_upholds (a : Byte) (due : Part → Command → Bool) : Upholds p (p.nodeShare a due) := by
  unfold Part.nodeShare
  refine .ite (fun _ => ?_) fun _ => .refl p
  split
  · next hc => exact .ite (fun _ => p.dueCommand_upholds (Part.openAt_mem hc)) fun _ => .refl p
  · exact .refl p

theorem Part.pairShare_effect (x : Pair) : Effect p (p.pairShare x) := by
  unfold Part.pairShare
  refine .ite (fun _ => ?_) fun _ => .refl p
  refine .course (.loud (p.event_loud ?_)) (Part.event_tenure ?_ (.refl _))
  · exact List.forall_mem_cons.2 ⟨deglitchJudging_loudly x, List.forall_mem_singleton.2 (judging_loudly _ _)⟩
  · exact List.forall_mem_cons.2 ⟨deglitchJudging_tenured x, compoundJudging_tenured⟩

/-! ### The lines and the ports -/

theorem Part.stopInLevel_effect (b : Bool) : Effect p (p.stopInLevel b) := by
  unfold Part.stopInLevel
  dsimp only
  refine .tenured (fun h => ?_) (.ite (.refl _) (Part.judge_tenure (p := { p with stopIn := b }) _ _ (.refl _)))
  have level := h.same (q := { p with stopIn := b }) rfl rfl ⟨rfl, rfl⟩ rfl
  split
  · exact level
  · exact (Course.loud (Part.judge_loud _ _ _)).outputs level

theorem Part.sendRing_effect : Effect p p.sendRing := by
  unfold Part.sendRing
  exact .ite (fun _ => .refl p) fun _ => .whole (.same (fun h => h.same rfl rfl ⟨rfl, rfl⟩ rfl) rfl)

theorem Part.sendDeck_effect : Effect p p.sendDeck := by
  unfold Part.sendDeck
  refine .ite (fun _ => .refl p) fun _ => ?_
  split
  · exact .refl p
  · exact .whole (.same (fun h => h.same rfl rfl ⟨rfl, rfl⟩ rfl) rfl)

end

end Sys2Proof.Machine
end

section
/-! SUPPORT. Every command keeps STOP OUT and ALERT true to the state, a part held in reset at its reset values, and the
lease to its law. -/

namespace Sys2Proof.Machine

/-! ### The forms of a command -/

section
variable {s : State} {f : Part → Part}

/-- Acceptance under kind ANY sets heartbeat-since-hold and nothing else of MODE. -/
theorem Part.acceptAny_upholds (p : Part) : Upholds p p.acceptAny :=
  ⟨p.acceptAny_course.outputs, fun law => by rw [Part.LeaseLaw, p.acceptAny_keeps.mode]; exact law⟩

theorem State.act_upholds (h : ∀ p, Effect p (f p)) : ∃ p, s.act f = .next { s with part := p } ∧ Upholds s.part p :=
  ⟨_, rfl, s.part.settle_upholds.trans (h _).finish⟩

theorem State.endSecond_upholds (h : ∀ p, Effect p (f p)) :
    ∃ p, s.endSecond f = .next { s with part := p } ∧ Upholds s.part p :=
  ⟨_, rfl, s.part.settleAll_upholds.trans (h _).finish⟩

theorem State.due_upholds (h : ∀ p, Effect p (f p)) : ∃ p, s.due f = .next { s with part := p } ∧ Upholds s.part p :=
  ⟨_, rfl, s.part.resetIfDue_upholds.trans (h _).finish⟩

theorem State.takeFrame_upholds (h : ∀ p, p.resetLine = false → Effect p (f p)) :
    ∃ p, s.takeFrame f = .next { s with part := p } ∧ Upholds s.part p := by
  refine State.act_upholds fun p => .ite (fun takes => h p ?_) fun _ => .refl p
  simp only [Part.takesFrames, Bool.and_eq_true, Bool.not_eq_true'] at takes
  exact takes.1

theorem State.takeRequest_upholds (h : ∀ p, p.resetLine = false → Effect p (f p)) :
    ∃ p, s.takeRequest f = .next { s with part := p } ∧ Upholds s.part p :=
  State.takeFrame_upholds fun p free =>
    (h _ (p.acceptAny_course.keeps.resetLine.trans free)).after p.acceptAny_upholds (by rw [p.acceptAny_keeps.mode])

theorem Part.fromNode_effect (p : Part) {a : Byte} (h : Effect p (f p)) : Effect p (p.fromNode a f) := by
  unfold Part.fromNode
  exact .ite (fun _ => h) fun _ => .quiet (.raise p _) (.refl _)

end

/-! ### Every command -/

/-- All commands but the assertion of the RESET line uphold both laws. -/
theorem exec_upholds (i : Instr) (s : State) (running : i ≠ .resetLineAssert) :
    ∃ p, exec i s = .next { s with part := p } ∧ Upholds s.part p := by
  have frame : ∀ {f : Part → Part}, (∀ p, Effect p (f p)) →
      ∃ p, s.takeFrame f = .next { s with part := p } ∧ Upholds s.part p :=
    fun h => State.takeFrame_upholds fun p _ => h p
  have ask : ∀ {f : Part → Part}, (∀ p, Effect p (f p)) →
      ∃ p, s.takeRequest f = .next { s with part := p } ∧ Upholds s.part p :=
    fun h => State.takeRequest_upholds fun p _ => h p
  have deny : ∀ (p : Part) t c r, Effect p (p.deny t c r) := fun p t c r =>
    .quiet (p.deny_quiet t c r) (Part.emit_tenure _ _ _ _ (.refl _))
  have data : ∀ (p : Part) t c l, Effect p (p.data t c l) := fun p t c l =>
    .quiet (p.data_quiet t c l) (Part.emit_tenure _ _ _ _ (.refl _))
  have refuse : ∀ (p : Part) d k t r, Effect p (p.refuse d k t r) := fun p d k t r =>
    .quiet (p.refuse_quiet d k t r) (Part.refuse_tenure _ _ _ _ (.refl _))
  have raise : ∀ (p : Part) e, Effect p (p.raise e) := fun p e => .quiet (.raise p e) (.refl _)
  cases i with
  | lift d t l =>
    refine frame fun p => ?_
    split
    · exact .course (p.deckLift_course _ _ _) (Part.deckLift_tenure _ _ _ (.refl _))
    · exact refuse _ _ _ _ _
  | pour d t l =>
    refine frame fun p => ?_
    split
    · exact .course (p.deckPour_course _ _ _ _) (Part.deckPour_tenure _ _ _ _ (.refl _))
    · exact refuse _ _ _ _ _
  | ask d t l => exact frame fun p => .course (p.passThrough_course (.refl p)) (Part.passThrough_tenure _ _ _ _ (.refl _) (.refl _))
  | still d t l =>
    exact frame fun p => .course (p.passThrough_course (p.stillFromDeck_quiet d))
      (Part.passThrough_tenure _ _ _ _ (.refl _) (Part.stillFromDeck_tenure d (.refl _)))
  | nodeset d t l => exact frame fun p => .course (p.nodeset_course d t l) (Part.nodeset_tenure d t l (.refl _))
  | deckFrameWrongKind d k t => exact frame fun p => refuse _ _ _ _ _
  | frameBadCheck x => exact frame fun p => raise _ _
  | unknownKindDropped x c => exact frame fun p => raise _ _
  | mgmtBadRequest t l =>
    simp only [exec, execMgmtBadRequest]
    split
    · exact ask fun p => deny _ _ _ _
    · exact frame fun p => deny _ _ _ _
  | heartbeat t b => exact ask fun p => .course (p.heartbeat_course t b) (Part.heartbeat_tenure t b (.refl _))
  | status t n => exact ask fun p => .course (p.status_course t n) (Part.status_tenure t n (.refl _))
  | faults t n => exact ask fun p => .quiet (p.faults_quiet t n) (Part.faults_tenure t n (.refl _))
  | clear t => exact State.takeRequest_upholds fun p free => .course (p.clear_course t free) (Part.clear_tenure t (.refl _))
  | tableWrite t a i f v => exact ask fun p => p.tableWrite_effect _ _ _ _ _
  | tableRead t b a i f => exact ask fun p => .quiet (p.tableRead_quiet _ _ _ _ _) (Part.tableRead_tenure _ _ _ _ _ (.refl _))
  | shadowLoad t => exact ask fun p => p.shadowLoad_effect t
  | commit t n => exact ask fun p => p.decideCommit_effect t n
  | controlStart t => exact ask fun p => p.controlStart_effect t
  | controlHold t => exact ask fun p => .course (p.controlHold_course t) (Part.controlHold_tenure t (.refl _))
  | controlResume t => exact ask fun p => p.controlResume_effect t
  | controlStop t => exact ask fun p => .course (.loud (p.controlStop_loud t)) (Part.controlStop_tenure t (.refl _))
  | spliceBegin t j =>
    simp only [exec, execSpliceBegin]
    refine ask fun p => ?_
    split
    · exact .course (p.spliceBegin_course t _) (Part.spliceBegin_tenure t _ (.refl _))
    · exact deny _ _ _ _
  | spliceEnd t j n =>
    simp only [exec, execSpliceEnd]
    refine ask fun p => ?_
    split
    · exact .course (p.spliceEnd_course t _ _) (Part.spliceEnd_tenure t _ _ (.refl _))
    · exact deny _ _ _ _
  | rodSet t j n =>
    simp only [exec, execRodSet]
    refine ask fun p => ?_
    split
    · exact .course (p.rodSet_course t _ _) (Part.rodSet_tenure t _ _ (.refl _))
    · exact deny _ _ _ _
  | positionSet t j n =>
    simp only [exec, execPositionSet]
    refine ask fun p => ?_
    split
    · exact .course (p.positionSet_course t _ (Nat.le_of_lt_succ n.isLt)) (Part.positionSet_tenure t _ _ (.refl _))
    · exact deny _ _ _ _
  | isolate t a => exact ask fun p => .course (p.isolate_course t a) (Part.isolate_tenure t a (.refl _))
  | restore t a => exact ask fun p => .course (p.restore_course t a) (Part.restore_tenure t a (.refl _))
  | jackRead t j =>
    simp only [exec, execJackRead]
    refine ask fun p => ?_
    split
    · exact data _ _ _ _
    · exact deny _ _ _ _
  | sectorRead t k =>
    simp only [exec, execSectorRead]
    refine ask fun p => ?_
    split
    · exact data _ _ _ _
    · exact deny _ _ _ _
  | layerRead t k n =>
    simp only [exec, execLayerRead]
    refine ask fun p => ?_
    split
    · exact data _ _ _ _
    · exact deny _ _ _ _
  | layerEnter t k d a m => exact ask fun p => .course (p.layerEnter_course t k _ _ m) (Part.layerEnter_tenure t k _ _ m (.refl _))
  | leaseAsk t => exact ask fun p => p.leaseAsk_effect t
  | leaseEnd t => exact ask fun p => p.leaseEnd_effect t
  | reset t => exact ask fun p => p.askReset_effect t
  | ident t => exact ask fun p => data _ _ _ _
  | lifted a t n e k =>
    exact frame fun p => p.fromNode_effect (.course (p.takeLifted_course _ _) (Part.takeLifted_tenure _ _ (.refl _)))
  | poured a t k n m =>
    exact frame fun p => p.fromNode_effect (.course (p.takePoured_course _ _) (Part.takePoured_tenure _ _ (.refl _)))
  | wait a t => exact frame fun p => p.fromNode_effect (.quiet (p.takeWait_quiet a t) (Part.takeWait_tenure a t (.refl _)))
  | nodeState a t e d k c =>
    exact frame fun p => p.fromNode_effect (.course ((p.learnDepth_course a d).trans (.quiet (Part.emit_quiet _ _ _ _ _)))
      (Part.emit_tenure _ _ _ _ (Part.learnDepth_tenure a d (.refl _))))
  | trouble a t c =>
    refine frame fun p => p.fromNode_effect (.whole ?_)
    have taken := Effect.course (p.takeTrouble_course a) (Part.takeTrouble_tenure a (.refl _))
    exact taken.leaseSince.trans (.course (.quiet (Part.emit_quiet _ _ _ _ _)) (Part.emit_mode _ _ _ _ _))
  | unclaimedLiftPour k d t => exact frame fun p => .course (p.unclaimed_course k d t) (Part.unclaimed_tenure k d t (.refl _))
  | unclaimedAskStill k d t => exact frame fun p => .ite (fun _ => refuse _ _ _ _ _) fun _ => .refl p
  | unclaimedNodeset d t => exact frame fun p => .ite (fun _ => refuse _ _ _ _ _) fun _ => .refl p
  | ringFrameDropped a d k n => exact frame fun p => raise _ _
  | ringOutSend => exact State.act_upholds Part.sendRing_effect
  | deckSend => exact State.act_upholds Part.sendDeck_effect
  | stopInAssert => exact State.act_upholds fun p => p.stopInLevel_effect true
  | stopInRelease => exact State.act_upholds fun p => p.stopInLevel_effect false
  | powerOn => exact State.act_upholds fun p => .whole p.powerUp_upholds
  | resetLineAssert => exact absurd rfl running
  | resetLineRelease => exact State.act_upholds Part.releaseReset_effect
  | resetAfterAck => exact State.due_upholds .refl
  | slipClockAdvance => exact State.endSecond_upholds fun p => .whole p.advance_upholds
  | deferredEntryExpiry => exact State.due_upholds fun p => .whole (p.takeShare_upholds _)
  | subTransactionTimeout a => exact State.due_upholds fun p => .whole (p.nodeShare_upholds a _)
  | resendDue a => exact State.due_upholds fun p => .whole (p.nodeShare_upholds a _)
  | creepTimerExpiry => exact State.due_upholds fun p => .whole (p.takeShare_upholds _)
  | leaseLimit => exact State.due_upholds fun p => .whole (p.takeShare_upholds _)
  | windowExpiry => exact State.due_upholds fun p => .whole (p.takeShare_upholds _)
  | commitWaitCancel => exact State.due_upholds fun p => .whole (p.takeShare_upholds _)
  | deglitchExpiry q => exact State.due_upholds fun p => p.pairShare_effect q
  | resumeBlankingEnd => exact State.due_upholds fun p => .whole (p.takeShare_upholds _)

end Sys2Proof.Machine
end

section
/-! SUPPORT. The laws of the outputs and of the records, kept by every step (R106, R135, R160, R182). -/

namespace Sys2Proof.Machine

/-- The outputs are true to the state, and the part stands at its reset values while the RESET line is held. -/
structure Part.OutputLaws (p : Part) : Prop where
  held : p.HeldLaw
  stopOut : p.StopOutLaw
  alert : p.AlertLaw

theorem Part.Outputs.laws {p : Part} (h : p.Outputs) : p.OutputLaws :=
  ⟨fun line => (Bool.false_ne_true (h.free.symm.trans line)).elim, h.stopOut, h.alert⟩

theorem Part.OutputLaws.outputs {p : Part} (h : p.OutputLaws) (free : p.resetLine = false) : p.Outputs :=
  ⟨free, h.stopOut, h.alert⟩

/-- An event that leaves no lease and no pending commit has nothing at its end. -/
theorem Part.finish_bare {p q : Part} (lease : q.mode.lease = .none) (idle : q.cfg.commit = .idle) : p.finish q = q := by
  refine Part.finish_eq (Part.leaseSince_none fun t asked => nomatch lease.symm.trans asked) fun pending => ?_
  rw [Part.commitPending, idle] at pending
  nomatch pending

/-- The end of an event moves no output. -/
theorem Part.finish_outputs (p : Part) {q : Part} (h : q.Outputs) : (p.finish q).Outputs :=
  (Part.quiesce_upholds _).outputs ((Course.quiet (q.leaseSince_quiet p)).outputs h)

/-! ### Held in reset (R182) -/

/-- The part as the reset event left it, the RESET line held. -/
def Part.heldIn (p : Part) (cause : ResetCause) : Part :=
  { State.reset.part with
    resetCause := cause, ringQueue := [], stopIn := p.stopIn, resetLine := true, stopOut := true, order := p.order }

theorem Part.heldIn_laws (p : Part) (cause : ResetCause) : (p.heldIn cause).OutputLaws :=
  ⟨fun _ => ⟨cause, rfl⟩, rfl, reset_alertLaw⟩

theorem Part.heldIn_settled (p : Part) (cause : ResetCause) : (p.heldIn cause).Settled := ⟨nofun, rfl, nofun⟩

theorem Part.finish_heldIn (p q : Part) (cause : ResetCause) : q.finish (p.heldIn cause) = p.heldIn cause :=
  Part.finish_bare rfl rfl

/-- The assertion of the RESET line, outside reset (R182). -/
theorem Part.holdReset_eq {p : Part} (free : p.resetLine = false) : p.holdReset = p.heldIn .pin := by
  unfold Part.holdReset
  rw [free]
  rfl

theorem Part.holdReset_leaseLaw {p : Part} (h : p.LeaseLaw) : (p.finish p.holdReset).LeaseLaw := by
  cases line : p.resetLine with
  | true =>
    have same : p.holdReset = p := if_pos line
    rw [same]
    exact (Effect.refl p).finish.lease h
  | false =>
    rw [Part.holdReset_eq line, Part.finish_heldIn]
    exact ⟨nofun, nofun⟩

theorem Part.holdReset_laws {p q : Part} (h : p.Outputs) : (q.finish p.holdReset).OutputLaws := by
  rw [Part.holdReset_eq h.free, Part.finish_heldIn]
  exact p.heldIn_laws .pin

section
variable {s : State} {p : Part} {cause : ResetCause} (here : s.part = p.heldIn cause)
include here

/-- A command whose effect keeps the laws of a part held in reset. -/
theorem State.act_heldIn {f : Part → Part} (laws : ((p.heldIn cause).finish (f (p.heldIn cause))).OutputLaws) :
    ∃ q, s.act f = .next { s with part := q } ∧ q.OutputLaws := by
  refine ⟨_, State.act_settled (here ▸ p.heldIn_settled cause), ?_⟩
  rw [here]
  exact laws

theorem State.act_heldIn_same {f : Part → Part} (same : f (p.heldIn cause) = p.heldIn cause) :
    ∃ q, s.act f = .next { s with part := q } ∧ q.OutputLaws := by
  refine State.act_heldIn here ?_
  rw [same, Part.finish_heldIn]
  exact p.heldIn_laws cause

theorem State.endSecond_heldIn {f : Part → Part} (same : f (p.heldIn cause) = p.heldIn cause) :
    ∃ q, s.endSecond f = .next { s with part := q } ∧ q.OutputLaws := by
  refine ⟨_, State.endSecond_settled (here ▸ p.heldIn_settled cause) (here ▸ rfl), ?_⟩
  rw [here, same, Part.finish_heldIn]
  exact p.heldIn_laws cause

theorem State.due_heldIn {f : Part → Part} (same : f (p.heldIn cause) = p.heldIn cause) :
    ∃ q, s.due f = .next { s with part := q } ∧ q.OutputLaws := by
  refine ⟨_, State.due_settled (here ▸ nofun), ?_⟩
  rw [here, same, Part.finish_heldIn]
  exact p.heldIn_laws cause

theorem State.takeFrame_heldIn (f : Part → Part) : ∃ q, s.takeFrame f = .next { s with part := q } ∧ q.OutputLaws :=
  State.act_heldIn_same here rfl

theorem State.takeRequest_heldIn (f : Part → Part) : ∃ q, s.takeRequest f = .next { s with part := q } ∧ q.OutputLaws :=
  State.takeFrame_heldIn here _

/-- A level of STOP IN is noted, and nothing judged. -/
theorem State.stopIn_heldIn (b : Bool) : ∃ q, s.act (Part.stopInLevel b) = .next { s with part := q } ∧ q.OutputLaws := by
  refine State.act_heldIn here ?_
  rw [Part.stopInLevel_same b (.inl rfl)]
  have noted : ({ p.heldIn cause with stopIn := b } : Part) = ({ p with stopIn := b } : Part).heldIn cause := rfl
  rw [noted, Part.finish_heldIn]
  exact Part.heldIn_laws _ cause

/-- Held in reset, a command leaves the part held, or it releases the line. -/
theorem exec_heldIn (i : Instr) : ∃ q, exec i s = .next { s with part := q } ∧ q.OutputLaws := by
  cases i
  case resetLineRelease =>
    refine State.act_heldIn here (Part.finish_outputs _ ?_).laws
    exact Part.releaseEvent_outputs (p := { p.heldIn cause with resetLine := false }) rfl rfl rfl rfl
  case powerOn =>
    have reset : (p.heldIn cause).powerUp = p.heldIn .power := rfl
    refine State.act_heldIn here ?_
    rw [reset, Part.finish_heldIn]
    exact p.heldIn_laws .power
  case stopInAssert => exact State.stopIn_heldIn here true
  case stopInRelease => exact State.stopIn_heldIn here false
  case slipClockAdvance => exact State.endSecond_heldIn here rfl
  case ringOutSend | deckSend | resetLineAssert => exact State.act_heldIn_same here rfl
  case resetAfterAck | deferredEntryExpiry | creepTimerExpiry | leaseLimit | windowExpiry | commitWaitCancel
      | resumeBlankingEnd | subTransactionTimeout | resendDue | deglitchExpiry =>
    exact State.due_heldIn here rfl
  case lift | pour | ask | still | nodeset | deckFrameWrongKind | frameBadCheck | unknownKindDropped | lifted | poured | wait
      | nodeState | trouble | unclaimedLiftPour | unclaimedAskStill | unclaimedNodeset | ringFrameDropped =>
    exact State.takeFrame_heldIn here _
  case mgmtBadRequest =>
    unfold exec execMgmtBadRequest
    dsimp only
    split
    · exact State.takeRequest_heldIn here _
    · exact State.takeFrame_heldIn here _
  case spliceBegin | spliceEnd | rodSet | positionSet | jackRead | sectorRead | layerRead =>
    simp only [exec, execSpliceBegin, execSpliceEnd, execRodSet, execPositionSet, execJackRead, execSectorRead, execLayerRead]
    exact State.takeRequest_heldIn here _
  all_goals exact State.takeRequest_heldIn here _

end

/-! ### Every step -/

/-- Held in reset, the laws of the outputs say how the part stands. -/
theorem Part.OutputLaws.heldIn {p : Part} (h : p.OutputLaws) (line : p.resetLine = true) :
    ∃ cause, p = p.heldIn cause := h.held line

theorem exec_outputLaws (i : Instr) {s : State} (laws : s.part.OutputLaws) :
    ∃ p, exec i s = .next { s with part := p } ∧ p.OutputLaws := by
  cases line : s.part.resetLine with
  | true =>
    obtain ⟨cause, here⟩ := laws.heldIn line
    exact exec_heldIn here i
  | false =>
    have outputs := laws.outputs line
    by_cases running : i = .resetLineAssert
    · rw [running]
      exact ⟨_, rfl, Part.holdReset_laws (s.part.settle_upholds.outputs outputs)⟩
    · obtain ⟨p, taken, upholds⟩ := exec_upholds i s running
      exact ⟨p, taken, (upholds.outputs outputs).laws⟩

theorem exec_leaseLaw (i : Instr) {s : State} (law : s.part.LeaseLaw) :
    ∃ p, exec i s = .next { s with part := p } ∧ p.LeaseLaw := by
  by_cases running : i = .resetLineAssert
  · rw [running]
    exact ⟨_, rfl, Part.holdReset_leaseLaw (s.part.settle_upholds.lease law)⟩
  · obtain ⟨p, taken, upholds⟩ := exec_upholds i s running
    exact ⟨p, taken, upholds.lease law⟩

/-- What the taking of all that is due brings about, and every command, every step does. -/
theorem step_brings {P : Part → Prop} {s t : State} (taken : step s = .next t)
    (second : P (s.part.settleAll.finish s.part.settleAll))
    (command : ∀ i rest, ∃ p, exec i { s with pending := rest } = .next ⟨p, rest⟩ ∧ P p) : P t.part := by
  unfold step at taken
  split at taken
  · cases taken
    exact second
  · next i rest _ =>
    obtain ⟨p, same, kept⟩ := command i rest
    rw [same] at taken
    cases taken
    exact kept

theorem Part.OutputLaws.settledAll {p : Part} (h : p.OutputLaws) : (p.settleAll.finish p.settleAll).OutputLaws := by
  cases line : p.resetLine with
  | true =>
    obtain ⟨cause, here⟩ := h.heldIn line
    rw [here, Part.settleAll_eq (p.heldIn_settled cause) rfl, Part.finish_heldIn]
    exact p.heldIn_laws cause
  | false =>
    have settled : Upholds p (p.settleAll.finish p.settleAll) := p.settleAll_upholds.trans (Effect.refl _).finish
    exact (settled.outputs (h.outputs line)).laws

/-- Every command ends with the end of an event, and so a pending commit waits for an open command (R160). -/
theorem exec_commitLaw (i : Instr) (s : State) : ∃ p, exec i s = .next { s with part := p } ∧ p.CommitLaw := by
  have ended : ∀ pre q : Part, ∃ p, (Host.Outcome.next { s with part := pre.finish q } : Host.Outcome State Fault Refusal)
      = .next { s with part := p } ∧ p.CommitLaw := fun pre q => ⟨_, rfl, pre.finish_commitLaw q⟩
  cases i
  case mgmtBadRequest =>
    simp only [exec, execMgmtBadRequest]
    split <;> exact ended _ _
  case spliceBegin | spliceEnd | rodSet | positionSet | jackRead | sectorRead | layerRead =>
    simp only [exec, execSpliceBegin, execSpliceEnd, execRodSet, execPositionSet, execJackRead, execSectorRead, execLayerRead]
    exact ended _ _
  all_goals exact ended _ _

/-- Settles O56: outside reset by what every command upholds, held in reset because nothing but the release of the line
moves the part from its reset values. -/
theorem stepKeepsStopOutAndAlert : Obligations.StepKeepsStopOutAndAlert := by
  unfold Obligations.StepKeepsStopOutAndAlert
  intro s t held stopOut alert taken
  have laws : s.part.OutputLaws := ⟨held, stopOut, alert⟩
  have kept : t.part.OutputLaws := step_brings taken laws.settledAll fun i rest =>
    exec_outputLaws i (s := { s with pending := rest }) laws
  exact ⟨kept.held, kept.stopOut, kept.alert⟩

/-- Settles O57: the queues, the event set, the log and the sum by what a Turn can do, the lease by what every command
upholds, and the commit by the end of the event. -/
theorem stepKeepsRecordLaws : Obligations.StepKeepsRecordLaws := by
  unfold Obligations.StepKeepsRecordLaws
  intro s t taken
  have turn := step_turn taken
  refine ⟨turn.portLaw, turn.eventLaw, turn.logLaw, turn.sumLaw, fun law => ?_, ?_⟩
  · have second : Upholds s.part (s.part.settleAll.finish s.part.settleAll) :=
      s.part.settleAll_upholds.trans (Effect.refl _).finish
    exact step_brings taken (second.lease law) fun i rest => exec_leaseLaw i (s := { s with pending := rest }) law
  · exact step_brings taken (Part.finish_commitLaw _ _) fun i rest => exec_commitLaw i { s with pending := rest }

end Sys2Proof.Machine
end

section
/-! SUPPORT. CONTROL refused: START, HOLD and RESUME with the first check that fails (R100 to R102). -/

namespace Sys2Proof.Machine

theorem mem_allPairs (q : Pair) : q ∈ allPairs := by
  cases q <;> simp [allPairs, sectorPairs, mem_sectorIds, mem_feedIds]

section
variable {p : Part}

theorem Part.ringCausesEmpty_iff : p.ringCausesEmpty = true ↔ ∀ q, (p.pair q).stopsRing = false := by
  simp [Part.ringCausesEmpty, mem_allPairs]

theorem Part.ringCausesEmpty_eq_false : p.ringCausesEmpty = false ↔ ∃ q, (p.pair q).stopsRing = true := by
  rw [← Bool.not_eq_true, Part.ringCausesEmpty_iff]
  simp

theorem Part.anyActive_iff : jackIds.any p.isActive = true ↔ ∃ j, (p.jack j).state = .active := by
  simp [Part.isActive, mem_jackIds]

theorem Lease.isNone_eq_false {l : Lease} : l.isNone = false ↔ l ≠ .none := by
  rw [← Bool.not_eq_true, Lease.isNone_iff]

/-- A refusal ends no round, closes no command and moves no commit. -/
theorem State.takeRequest_denied {s : State} {f : Part → Part} {tag : Tag} {code : Byte} {r : Reason} (ready : s.part.Ready)
    (denied : f s.part.acceptAny = s.part.acceptAny.deny tag code r) :
    s.takeRequest f = .next { s with part := s.part.acceptAny.deny tag code r } := by
  rw [← denied]
  refine State.takeRequest_keep ready (Part.leaseSince_keep ?_ ?_) ?_ ?_
  all_goals rw [denied]
  · rw [Part.deny, Part.reply_mode, s.part.acceptAny_keeps.mode]
  · rw [Part.deny, Part.reply_mode, s.part.acceptAny_keeps.mode]
  all_goals simp

/-! ### START (R100) -/

theorem Part.controlStart_mode (tag : Tag) (no : p.mode.mode ≠ .setup ∨ ∃ q, (p.pair q).stopsRing = true) :
    p.controlStart tag = p.deny tag 9 .mode := if_pos (no.imp_right Part.ringCausesEmpty_eq_false.2)

theorem Part.controlStart_past {tag : Tag} (setup : p.mode.mode = .setup) (free : ∀ q, (p.pair q).stopsRing = false) :
    p.controlStart tag = if !jackIds.any p.isActive then p.deny tag codeControl .jackState
      else if !p.mode.lease.isNone then p.deny tag codeControl .leased else p.startSlip tag := by
  refine if_neg (not_or.2 ⟨not_not.2 setup, ?_⟩)
  rw [Part.ringCausesEmpty_iff.2 free]
  nofun

theorem Part.controlStart_jackState (tag : Tag) (setup : p.mode.mode = .setup) (free : ∀ q, (p.pair q).stopsRing = false)
    (none : ∀ j, (p.jack j).state ≠ .active) : p.controlStart tag = p.deny tag 9 .jackState := by
  have idle : jackIds.any p.isActive = false := by
    rw [← Bool.not_eq_true, Part.anyActive_iff]
    exact fun ⟨j, active⟩ => none j active
  rw [Part.controlStart_past setup free, idle]
  rfl

theorem Part.controlStart_leased (tag : Tag) (setup : p.mode.mode = .setup) (free : ∀ q, (p.pair q).stopsRing = false)
    (some : ∃ j, (p.jack j).state = .active) (leased : p.mode.lease ≠ .none) :
    p.controlStart tag = p.deny tag 9 .leased := by
  rw [Part.controlStart_past setup free, Part.anyActive_iff.2 some, Lease.isNone_eq_false.2 leased]
  rfl

theorem Part.controlStart_accepted {tag : Tag} (setup : p.mode.mode = .setup) (free : ∀ q, (p.pair q).stopsRing = false)
    (some : ∃ j, (p.jack j).state = .active) (unleased : p.mode.lease = .none) : p.controlStart tag = p.startSlip tag := by
  rw [Part.controlStart_past setup free, Part.anyActive_iff.2 some, Lease.isNone_iff.2 unleased]
  rfl

/-! ### RESUME (R102) -/

theorem Part.controlResume_mode (tag : Tag) (away : p.mode.mode.isHold = false) :
    p.controlResume tag = p.deny tag 9 .mode := by
  unfold Part.controlResume
  rw [away]
  rfl

theorem Part.controlResume_deck (tag : Tag) (hold : p.mode.mode.isHold = true)
    (deck : p.sup.violations ≠ 0 ∨ p.mode.heartbeatSinceHold = false) : p.controlResume tag = p.deny tag 9 .deck := by
  unfold Part.controlResume
  rw [hold]
  exact if_pos deck

theorem Part.controlResume_past {tag : Tag} (hold : p.mode.mode.isHold = true) (kept : p.sup.violations = 0)
    (beat : p.mode.heartbeatSinceHold = true) :
    p.controlResume tag = if !p.mode.lease.isNone then p.deny tag codeControl .leased else p.resumeSlip tag := by
  unfold Part.controlResume
  rw [hold, kept, beat]
  rfl

theorem Part.controlResume_leased (tag : Tag) (hold : p.mode.mode.isHold = true) (kept : p.sup.violations = 0)
    (beat : p.mode.heartbeatSinceHold = true) (leased : p.mode.lease ≠ .none) :
    p.controlResume tag = p.deny tag 9 .leased := by
  rw [Part.controlResume_past hold kept beat, Lease.isNone_eq_false.2 leased]
  rfl

theorem Part.controlResume_accepted {tag : Tag} (hold : p.mode.mode.isHold = true) (kept : p.sup.violations = 0)
    (beat : p.mode.heartbeatSinceHold = true) (unleased : p.mode.lease = .none) :
    p.controlResume tag = p.resumeSlip tag := by
  rw [Part.controlResume_past hold kept beat, Lease.isNone_iff.2 unleased]
  rfl

end

/-- Settles O28: check by check, each with the refusal it gives. -/
theorem controlRefused : Obligations.ControlRefused := by
  unfold Obligations.ControlRefused
  intro s tag ready
  have denied : ∀ {f : Part → Part} {r : Reason}, f s.part.acceptAny = s.part.acceptAny.deny tag 9 r →
      s.takeRequest f = .next { s with part := s.part.acceptAny.deny tag 9 r } := State.takeRequest_denied ready
  dsimp only
  refine ⟨fun no => denied (Part.controlStart_mode tag no), fun setup free => ⟨fun none => ?_, fun some leased => ?_⟩,
    fun away => denied (if_pos away), fun away => denied (Part.controlResume_mode tag away),
    fun hold => ⟨fun deck => denied (Part.controlResume_deck tag hold deck), fun kept beat leased => ?_⟩⟩
  · exact denied (Part.controlStart_jackState tag setup free none)
  · exact denied (Part.controlStart_leased tag setup free some leased)
  · exact denied (Part.controlResume_leased tag hold kept beat leased)

end Sys2Proof.Machine
end

section
/-! SUPPORT. MON's tests where none of them asserts: each pair follows its input, and its record with it (R125). -/

namespace Sys2Proof.Machine

/-! ### Pairs that follow their inputs -/

/-- The input of a condition whose test reads one (R119, R120, R124). -/
def Part.testInput (p : Part) : Pair → Bool
  | .compound => p.compoundInput
  | x => p.inputOf x

/-- The test of such a condition. -/
def inputTest (x : Pair) : Judging := judging x fun p => p.testInput x

/-- Pairs that follow the inputs b, one after the other. -/
def Part.followAll (b : Pair → Bool) (l : List Pair) (p : Part) : Part := l.foldl (fun p x => p.follow x (b x)) p

/-- What following leaves: the pairs' states, and their records; nothing else of MON, and nothing beyond it (R125). -/
structure Part.Followed (b : Pair → Bool) (l : List Pair) (p t : Part) : Prop where
  only : t = { p with mon := t.mon }
  pair : ∀ x, t.pair x =
    if x ∈ l then { p.pair x with state := (p.pair x).state.followed p.clock (b x) } else p.pair x
  log : t.mon.log = p.mon.log.map fun r =>
    if r.pair ∈ l ∧ (p.pair r.pair).state.isPresent = true ∧ b r.pair = false then { r with present := false } else r
  blanking : t.mon.blanking = p.mon.blanking
  alert : t.mon.alert = p.mon.alert
  events : t.mon.events = p.mon.events

theorem PairState.followed_followed (now : Clock) (b : Bool) (x : PairState) :
    (x.followed now b).followed now b = x.followed now b := by
  cases b
  · rfl
  · cases x <;> rfl

theorem PairState.followed_isPresent (now : Clock) (b : Bool) (x : PairState) :
    (x.followed now b).isPresent = (x.isPresent && b) := by
  cases b
  · exact (Bool.and_false _).symm
  · cases x <;> rfl

theorem PairState.followed_true_ne (now : Clock) (x : PairState) : x.followed now true ≠ .notPresent := by
  cases x <;> nofun

section
variable {p : Part} {b : Pair → Bool}

theorem Part.follow_log (x : Pair) (c : Bool) : (p.follow x c).mon.log = p.mon.log.map fun r =>
    if r.pair = x ∧ (p.pair x).state.isPresent = true ∧ c = false then { r with present := false } else r := by
  unfold Part.follow
  cases state : (p.pair x).state with
  | notPresent => cases c <;> simp [PairState.isPresent, Part.setPairState, Part.setPair]
  | pending start => cases c <;> simp [PairState.isPresent, Part.cease, state, Part.setLog, Part.setPairState, Part.setPair]
  | present m => cases c <;> simp [PairState.isPresent, Part.cease, state, Part.setLog]

theorem Part.follow_events (x : Pair) (c : Bool) : (p.follow x c).mon.events = p.mon.events := by
  unfold Part.follow
  split
  · split <;> rfl
  all_goals split <;> rfl

theorem Part.follow_clock (x : Pair) (c : Bool) : (p.follow x c).clock = p.clock := by
  rw [(p.follow_only x c).1]

theorem Part.followAll_followed (l : List Pair) (p : Part) : p.Followed b l (p.followAll b l) := by
  induction l generalizing p with
  | nil => exact ⟨rfl, fun _ => rfl, by simp [Part.followAll], rfl, rfl, rfl⟩
  | cons x l ih =>
    obtain ⟨only, pair, log, blanking, alert, events⟩ := ih (p.follow x (b x))
    obtain ⟨first, blanked, alerted⟩ := p.follow_only x (b x)
    have pair₁ := p.follow_pair x (b x)
    change Part.Followed b (x :: l) p ((p.follow x (b x)).followAll b l)
    generalize (p.follow x (b x)).followAll b l = t at *
    refine ⟨?_, fun y => ?_, ?_, blanking.trans blanked, alert.trans alerted, events.trans (p.follow_events x (b x))⟩
    · rw [only, first]
    · rw [pair, pair₁, p.follow_clock]
      by_cases same : y = x
      · subst same
        simp [PairState.followed_followed]
      · simp [same]
    · rw [log, p.follow_log, List.map_map]
      refine List.map_congr_left fun r _ => ?_
      dsimp only [Function.comp_apply]
      by_cases same : r.pair = x
      · have state : ((p.follow x (b x)).pair x).state.isPresent = ((p.pair x).state.isPresent && b x) := by
          rw [pair₁, if_pos rfl, PairState.followed_isPresent]
        by_cases ends : (p.pair x).state.isPresent = true ∧ b x = false
        · simp [ends, same]
        · simp [ends, same, state]
      · simp [same, pair₁]

/-! ### Tests that assert nothing -/

/-- Each pair listed has the input b, and would not assert. -/
structure Part.Steady (b : Pair → Bool) (l : List Pair) (p : Part) : Prop where
  input : ∀ x ∈ l, p.testInput x = b x
  calm : ∀ x ∈ l, p.assertsNow x (b x) = false

theorem Part.testInput_eq (p : Part) {x : Pair} (other : x ≠ .compound) : p.testInput x = p.inputOf x := by
  cases x
  case compound => exact absurd rfl other
  all_goals rfl

/-- A test reads the deck, the climb mode, blanking and the sectors stopped. -/
theorem Part.testInput_congr {q : Part} (only : q = { p with mon := q.mon }) (blanking : q.mon.blanking = p.mon.blanking)
    (stops : ∀ x, (q.pair x).stopsSector = (p.pair x).stopsSector) (x : Pair) : q.testInput x = p.testInput x := by
  have inputs := (Part.inputOf_congr (p := p) (t := q) (by rw [only]) (by rw [only]) (by rw [only]) (by rw [only])).2
    (by rw [only]) blanking
  have bank : q.bank = p.bank := by
    rw [only]
    rfl
  by_cases compound : x = .compound
  · subst compound
    change q.compoundInput = p.compoundInput
    rw [Part.compoundInput, Part.compoundInput, bank, Part.stoppedSectors_congr stops]
  · rw [q.testInput_eq compound, p.testInput_eq compound]
    exact inputs x

theorem Part.Steady.follow {l : List Pair} (h : p.Steady b l) (x : Pair) : (p.follow x (b x)).Steady b l := by
  obtain ⟨only, blanking, -⟩ := p.follow_only x (b x)
  have pair := p.follow_pair x (b x)
  have bank : (p.follow x (b x)).bank = p.bank := by
    rw [only]
    rfl
  refine ⟨fun y m => ?_, fun y m => ?_⟩
  · rw [Part.testInput_congr only blanking fun z => ?_]
    · exact h.input y m
    · rw [pair]
      split
      · next here => rw [here]
      · rfl
  · have calm := h.calm y m
    unfold Part.assertsNow at calm ⊢
    rw [bank, pair]
    split
    · next here =>
      subst here
      cases c : b y with
      | false => rfl
      | true =>
        have stays := PairState.followed_true_ne p.clock (p.pair y).state
        rw [beq_false_of_ne stays]
        rfl
    · exact calm

theorem Part.Steady.judgeAll {l m : List Pair} (h : p.Steady b l) (within : ∀ x ∈ m, x ∈ l) :
    judgeAll (m.map inputTest) p = (p.followAll b m, false) := by
  induction m generalizing p with
  | nil => rfl
  | cons x m ih =>
    have here := within x List.mem_cons_self
    have first : inputTest x p = (p.follow x (b x), false) := by
      have calm := h.calm x here
      rw [← h.input x here] at calm ⊢
      exact if_neg (Bool.eq_false_iff.1 calm)
    rw [List.map_cons, Sys2Proof.Machine.judgeAll, first, ih (h.follow x) fun y k => within y (List.mem_cons_of_mem _ k)]
    rfl

/-- An event of such tests: the pairs follow their inputs. -/
theorem Part.Steady.event {l : List Pair} (h : p.Steady b l) : p.event (l.map inputTest) = p.followAll b l := by
  unfold Part.event
  rw [h.judgeAll fun _ => id]
  rfl

/-! ### The tests at a mode change (R99, R119, R120) -/

/-- The pairs that MON judges at a mode change. -/
def modePairs : List Pair := sectorIds.map .starve ++ [.spread, .compound]

theorem mem_modePairs {x : Pair} : x ∈ modePairs ↔ ofModeChange x := by
  simp only [modePairs, ofModeChange, List.mem_append, List.mem_map, mem_sectorIds, true_and, List.mem_cons,
    List.not_mem_nil, or_false]
  constructor
  · rintro (⟨k, rfl⟩ | rfl | rfl)
    · exact .inr (.inr ⟨k, rfl⟩)
    · exact .inl rfl
    · exact .inr (.inl rfl)
  · rintro (rfl | rfl | ⟨k, rfl⟩)
    · exact .inr (.inl rfl)
    · exact .inr (.inr rfl)
    · exact .inl ⟨k, rfl⟩

theorem Part.judgeDeck_eq (p : Part) : p.judgeDeck = p.event (modePairs.map inputTest) := by
  have tests : modePairs.map inputTest = sectorIds.map starveJudging ++ [spreadJudging, compoundJudging] := by
    unfold modePairs
    rw [List.map_append, List.map_map]
    rfl
  rw [tests]
  rfl

/-- A mode change whose tests assert nothing. -/
theorem Part.Steady.judgeDeck (h : p.Steady b modePairs) : p.Followed b modePairs p.judgeDeck := by
  rw [Part.judgeDeck_eq, h.event]
  exact Part.followAll_followed _ p

end

end Sys2Proof.Machine
end

section
/-! SUPPORT. CONTROL START and RESUME (R100, R102): the answer, supervision, blanking and what MON is told; a creep list that
RESUME has dropped stays empty. -/

namespace Sys2Proof.Machine

/-! ### No jack waits for a round, and none is owed -/

def Part.Drained (p : Part) : Prop := p.mode.roundList = [] ∧ p.mode.roundOwed = false

section
variable {p q : Part}

theorem Part.Drained.of_mode (h : p.Drained) (mode : q.mode = p.mode) : q.Drained := by
  rw [Part.Drained, mode]
  exact h

theorem Part.Drained.foldl {α : Type} {f : Part → α → Part} (step : ∀ (p : Part) a, p.Drained → (f p a).Drained)
    (l : List α) (h : p.Drained) : (l.foldl f p).Drained := foldl_law (P := Part.Drained) step l p h

theorem Part.Drained.endRoundTest (h : p.Drained) : p.endRoundTest.Drained := by
  rw [Part.endRoundTest_stopped h.1]
  exact h

theorem Part.Drained.creepPassIfWaiting (h : p.Drained) : p.creepPassIfWaiting.Drained := by
  unfold Part.creepPassIfWaiting
  rw [h.1]
  exact h

theorem Part.Drained.toldOfClose (h : p.Drained) (o : Origin) : (p.toldOfClose o).Drained := by
  unfold Part.toldOfClose
  split
  · exact Part.Drained.endRoundTest (Part.Drained.creepPassIfWaiting h)
  · exact h.creepPassIfWaiting

theorem Part.Drained.closeEnded (h : p.Drained) (c : Command) (r : Reason) : (p.closeEnded c r).Drained := by
  have answered : ∀ q : Part, (q.answerEnded c r).mode = q.mode := fun q => by
    unfold Part.answerEnded
    split
    · exact q.ended_mode _ _ _ _
    · rfl
  have returned : ∀ q : Part, (q.subjectReturn c).mode = q.mode := fun q => by
    unfold Part.subjectReturn
    split
    · rfl
    · unfold Part.feedReturn
      split <;> rfl
  have ended : (Part.subjectReturn c (Part.answerEnded c r (p.removeCommand c.subject))).Drained :=
    h.of_mode ((returned _).trans (answered _))
  unfold Part.closeEnded Part.closeWith
  dsimp only
  refine Part.Drained.toldOfClose (Part.Drained.of_mode ?_ (Part.passWith_mode _)) _
  split <;> exact ended

theorem Part.Drained.closeStopped (h : p.Drained) (x : Subject) : (p.closeStopped x).Drained := by
  unfold Part.closeStopped
  split
  · split
    · exact h.closeEnded _ _
    · exact h
  · exact h

theorem Part.Drained.removeEntries (h : p.Drained) (which : Entry → Bool) (r : Reason) : (p.removeEntries which r).Drained :=
  .foldl (f := Part.refuseEntry r) (fun q e before => before.of_mode (by rw [Part.refuseEntry, Part.refuse_mode]; rfl)) _ h

theorem Part.Drained.stopSector (h : p.Drained) (k : SectorId) : (p.stopSector k).Drained := by
  have stilled := Part.Drained.foldl (f := Part.stillNode) (fun _ _ before => before)
    (p.xt.table.filter (p.liftsIn k)) (p := p.markAll .sectorStopped (p.liftsIn k)) h
  have closed := stilled.foldl (f := fun p x => p.closeStopped x) (fun _ x before => before.closeStopped x)
    ((p.xt.table.filter (p.liftsIn k)).map Command.subject)
  exact closed.removeEntries _ _

theorem Part.Drained.assertHere (h : p.Drained) (x : Pair) (d : Option JackId) : (p.assertHere x d).Drained := by
  have noted : (p.noteAssertion x d).Drained := h.of_mode (by rw [(p.noteAssertion_only x d).1])
  unfold Part.assertHere
  split
  · split
    · exact noted
    · exact noted.stopSector _
  · exact noted

theorem Part.Drained.judging (h : p.Drained) (x : Pair) (input : Part → Bool) : (judging x input p).1.Drained := by
  unfold Sys2Proof.Machine.judging
  split
  · exact h.assertHere x none
  · exact h.of_mode (by rw [(p.follow_only x _).1])

end

/-! ### What an event's tests end in -/

section
variable {p q : Part}

theorem Part.event_cases (l : List Judging) (p : Part) :
    p.event l = (judgeAll l p).1 ∨ p.event l = (judgeAll l p).1.enterStopped := by
  unfold Part.event
  dsimp only
  split
  · exact .inr rfl
  · exact .inl rfl

theorem modeTests_drain : ∀ f ∈ modePairs.map inputTest, ∀ p : Part, p.Drained → (f p).1.Drained := by
  intro f m p h
  obtain ⟨x, -, rfl⟩ := List.mem_map.1 m
  exact h.judging x _

/-- What a ring stop leaves in SLIP: the list empty, no round owed, and all that it leaves of MODE and supervision. -/
theorem Part.enterStopped_slip (slip : p.mode.mode = .slip) : p.Stopped p.enterStopped ∧ p.enterStopped.Drained := by
  have runs : p.mode.mode.isStopped = false := by rw [slip]; rfl
  have flushed : p.Flushed := fun away => absurd slip away
  obtain ⟨-, -, list, owed, -⟩ := Part.enterStopped_ringStopped runs flushed
  exact ⟨Part.enterStopped_leaves runs flushed, list, owed⟩

theorem Part.Stopped.of_runs {t : Part} (runs : p.Runs q) (stop : q.Stopped t) : p.Stopped t :=
  ⟨by rw [stop.climb, runs.climb], stop.timer, by rw [stop.sup, runs.sup], stop.stopOut, stop.blanking, stop.empty⟩

theorem Part.judgeDeck_cases (p : Part) : p.judgeDeck = (judgeAll (modePairs.map inputTest) p).1
    ∨ p.judgeDeck = (judgeAll (modePairs.map inputTest) p).1.enterStopped := by
  rw [Part.judgeDeck_eq]
  exact p.event_cases _

theorem modeTests_run : ∀ f ∈ modePairs.map inputTest, ∀ p : Part, p.Runs (f p).1 := by
  intro f m p
  obtain ⟨x, -, rfl⟩ := List.mem_map.1 m
  exact judging_runs x _ p

/-- MON told of SLIP: it goes on there, or the ring stops (R99, R105). -/
theorem Part.judgeDeck_slip (slip : p.mode.mode = .slip) : p.Runs p.judgeDeck ∨ p.Stopped p.judgeDeck := by
  have runs := judgeAll_runs modeTests_run p
  rcases p.judgeDeck_cases with same | same
  · exact .inl (same ▸ runs)
  · have stop := (Part.enterStopped_slip (runs.climb.trans slip)).1
    exact .inr (same ▸ stop.of_runs runs)

/-- A dropped creep list stays dropped. -/
theorem Part.Drained.judgeDeck (h : p.Drained) (slip : p.mode.mode = .slip) : p.judgeDeck.Drained := by
  have runs := judgeAll_runs modeTests_run p
  rcases p.judgeDeck_cases with same | same
  · rw [same]
    exact judgeAll_keeps (P := Part.Drained) modeTests_drain h
  · rw [same]
    exact (Part.enterStopped_slip (runs.climb.trans slip)).2

/-- In resume blanking, with no more sectors stopped than the limit, SPREAD, STARVE and COMPOUND cease (R119, R120, R124). -/
theorem Part.steady_blanked (blanked : p.blanked = true) (low : p.stoppedSectors ≤ p.bank.sectorStopLimit) :
    p.Steady (fun _ => false) modePairs := by
  refine ⟨fun x m => ?_, fun _ _ => rfl⟩
  rcases mem_modePairs.1 m with rfl | rfl | ⟨k, rfl⟩
  · change p.spreadInput = false
    rw [Part.spreadInput, blanked]
    simp
  · exact decide_eq_false (by omega)
  · change p.starveInput k = false
    rw [Part.starveInput, blanked]
    simp

end

/-! ### The part as MON is told of SLIP -/

section
variable (p : Part) (tag : Tag)

/-- The mode record of RESUME. -/
def Part.resumeRecord : ModeRecord :=
  { p.mode with mode := .slip, creepTimer := none, roundOwed := false, roundList := [] }

def Part.slipStarted : Part :=
  (((p.setMode { p.mode with mode := .slip }).ack tag codeControl).startSupervision false).startBlanking.updateAlert

def Part.slipResumed : Part := ((p.setMode p.resumeRecord).ack tag codeControl).startBlanking.updateAlert

theorem Part.startSlip_eq : p.startSlip tag = (p.slipStarted tag).judgeDeck := rfl

theorem Part.resumeSlip_eq : p.resumeSlip tag = (p.slipResumed tag).judgeDeck.endRoundTest := rfl

/-- What the entry into SLIP has made of the part p when MON is told: the mode record m, supervision x, blanking. -/
structure Part.SlipTold (m : ModeRecord) (x : Supervision) (q : Part) : Prop where
  only : q = { p with mode := m, sup := x, mon := q.mon, sendQueue := q.sendQueue }
  pair : ∀ y, q.pair y = p.pair y
  blanking : q.mon.blanking = if p.bank.resumeBlanking = 0 then none else some p.bank.resumeBlanking

theorem Part.slipStarted_told :
    p.SlipTold { p.mode with mode := .slip } ⟨true, 0, p.clock, p.clock, 0, false⟩ (p.slipStarted tag) := by
  have acked := (p.setMode { p.mode with mode := .slip }).emit_moves .reply 0 tag [codeControl, outAck]
  have pair := (p.setMode { p.mode with mode := .slip }).emit_pair .reply 0 tag [codeControl, outAck]
  unfold Part.slipStarted Part.ack Part.reply
  generalize (p.setMode { p.mode with mode := .slip }).emit .reply 0 tag [codeControl, outAck] = a at *
  refine ⟨?_, pair, ?_⟩
  all_goals
    rw [acked]
    rfl

theorem Part.slipResumed_told : p.SlipTold p.resumeRecord p.sup (p.slipResumed tag) := by
  have acked := (p.setMode p.resumeRecord).emit_moves .reply 0 tag [codeControl, outAck]
  have pair := (p.setMode p.resumeRecord).emit_pair .reply 0 tag [codeControl, outAck]
  unfold Part.slipResumed Part.ack Part.reply
  generalize (p.setMode p.resumeRecord).emit .reply 0 tag [codeControl, outAck] = a at *
  refine ⟨?_, pair, ?_⟩
  all_goals
    rw [acked]
    rfl

variable {p} {m : ModeRecord} {x : Supervision} {q : Part}

/-- What the tests leave of MODE and supervision: SLIP with the record m, or a ring stop out of it. -/
theorem Part.SlipTold.outcome (told : p.SlipTold m x q) (slip : m.mode = .slip) :
    (q.judgeDeck.mode.mode = .slip ∧ q.judgeDeck.sup = x)
    ∨ (q.judgeDeck.mode.mode = .stopped .slip ∧ q.judgeDeck.sup = { x with active := false } ∧ q.judgeDeck.stopOut = true) := by
  have mode : q.mode = m := by rw [told.only]
  have sup : q.sup = x := by rw [told.only]
  refine (Part.judgeDeck_slip (mode ▸ slip)).imp (fun runs => ?_) fun stop => ?_
  · exact ⟨runs.climb.trans (mode ▸ slip), runs.sup.trans sup⟩
  · refine ⟨stop.climb.trans ?_, stop.sup.trans (by rw [sup]), stop.stopOut⟩
    rw [mode, slip]
    rfl

theorem Part.SlipTold.timer (told : p.SlipTold m x q) (slip : m.mode = .slip) (timer : m.creepTimer = none) :
    q.judgeDeck.mode.creepTimer = none := by
  have mode : q.mode = m := by rw [told.only]
  refine (Part.judgeDeck_slip (mode ▸ slip)).elim (fun runs => runs.timer.trans ?_) fun stop => stop.timer
  rw [mode, timer]

/-- The deck and the base stay (R100, R102). -/
theorem Part.SlipTold.keeps (told : p.SlipTold m x q) :
    q.judgeDeck.jacks = p.jacks ∧ q.judgeDeck.sectors = p.sectors ∧ p.SameBase q.judgeDeck := by
  have keeps := q.judgeDeck_loud.keeps
  have only := told.only
  refine ⟨keeps.jacks.trans ?_, keeps.sectors.trans ?_, keeps.cfg.trans ?_, keeps.clock.trans ?_, keeps.owed.trans ?_,
    keeps.resetCause.trans ?_, keeps.resetWait.trans ?_, keeps.stopIn.trans ?_, keeps.resetLine.trans ?_,
    keeps.order.trans ?_⟩
  all_goals rw [only]

/-- With a blanking time and no more sectors stopped than the limit, MON's own records alone move (R126). -/
theorem Part.SlipTold.blanked (told : p.SlipTold m x q) (slip : m.mode = .slip) (time : p.bank.resumeBlanking ≠ 0)
    (low : p.stoppedSectors ≤ p.bank.sectorStopLimit) : q.judgeDeck.mon.blanking = some p.bank.resumeBlanking
      ∧ (q.judgeDeck.pair .spread).state = .notPresent ∧ (∀ k, (q.judgeDeck.pair (.starve k)).state = .notPresent)
      ∧ (∀ y, y ≠ .spread → y ≠ .compound → (∀ k, y ≠ .starve k) → q.judgeDeck.pair y = p.pair y)
      ∧ { q.judgeDeck with mon := p.mon, sendQueue := p.sendQueue } = { p with mode := m, sup := x } := by
  obtain ⟨only, pair, blanking⟩ := told
  rw [if_neg time] at blanking
  have bank : q.bank = p.bank := by
    rw [only]
    rfl
  have mode : q.mode.mode = .slip := by rw [only, slip]
  have blanked : q.blanked = true := by
    rw [Part.blanked, mode, blanking]
    rfl
  have stopped : q.stoppedSectors = p.stoppedSectors := Part.stoppedSectors_congr fun y => by rw [pair]
  obtain ⟨last, judged, -, kept, -⟩ := (Part.steady_blanked blanked (by rw [stopped, bank]; exact low)).judgeDeck
  have ceased : ∀ y, ofModeChange y → (q.judgeDeck.pair y).state = .notPresent := fun y named => by
    rw [judged, if_pos (mem_modePairs.2 named)]
    rfl
  refine ⟨kept.trans blanking, ceased _ (.inl rfl), fun k => ceased _ (.inr (.inr ⟨k, rfl⟩)), fun y a b c => ?_, ?_⟩
  · rw [judged, if_neg, pair]
    rw [mem_modePairs]
    rintro (named | named | ⟨k, named⟩)
    · exact a named
    · exact b named
    · exact c k named
  · rw [last, only]

end

theorem exec_controlStart {s : State} {tag : Tag} (ready : s.part.Ready) : exec (.controlStart tag) s
    = .next { s with part := s.part.acceptAny.finish (s.part.acceptAny.controlStart tag) } := by
  rw [← Part.finish_acceptAny]
  exact State.takeRequest_ready ready

theorem exec_controlResume {s : State} {tag : Tag} (ready : s.part.Ready) : exec (.controlResume tag) s
    = .next { s with part := s.part.acceptAny.finish (s.part.acceptAny.controlResume tag) } := by
  rw [← Part.finish_acceptAny]
  exact State.takeRequest_ready ready

section
variable {p : Part} {tag : Tag}

theorem Part.startSlip_answers : p.Answers (p.startSlip tag)
    ⟨0, 0, .reply, tag, (p.setMode { p.mode with mode := .slip }).summary, [9, 0]⟩ := by
  have told : Course ((p.setMode { p.mode with mode := .slip }).ack tag codeControl) (p.startSlip tag) :=
    ((Course.sup _ _).trans (Part.startBlanking_course _)).trans (Part.tellMonMode_course _)
  exact Part.answers_of_grows (q := p.setMode { p.mode with mode := .slip }) rfl told.grows

theorem Part.resumeSlip_answers : p.Answers (p.resumeSlip tag)
    ⟨0, 0, .reply, tag, (p.setMode { p.mode with mode := .slip }).summary, [9, 0]⟩ := by
  have told : Course ((p.setMode p.resumeRecord).ack tag codeControl) (p.resumeSlip tag) :=
    ((Part.startBlanking_course _).trans (Part.tellMonMode_course _)).trans (.quiet (Part.endRoundTest_quiet _))
  exact Part.answers_of_grows (q := p.setMode p.resumeRecord) rfl told.grows

end

/-- Settles O29: the answer, what MON is told of SLIP, and its tests; RESUME ends the round that it leaves without a command. -/
theorem startAndResumeEnterSlip : Obligations.StartAndResumeEnterSlip := by
  unfold Obligations.StartAndResumeEnterSlip
  refine ⟨fun s tag ready => ?_, fun s tag ready => ?_⟩
  · have taken := exec_controlStart (tag := tag) ready
    dsimp only
    generalize s.part.acceptAny = p at *
    intro setup free active unleased
    have quiesced := (p.controlStart_course tag).quiesced
    have answers := p.startSlip_answers (tag := tag)
    have told := p.slipStarted_told tag
    rw [Part.controlStart_accepted setup free active unleased] at taken quiesced
    rw [Part.startSlip_eq] at *
    obtain ⟨jacks, sectors, base⟩ := told.keeps
    exact ⟨_, _, taken, quiesced, answers, told.outcome rfl, jacks, sectors, base, told.blanked rfl⟩
  · have taken := exec_controlResume (tag := tag) ready
    dsimp only
    generalize s.part.acceptAny = p at *
    intro hold kept beat unleased
    have quiesced := (p.controlResume_course tag).quiesced
    have answers := p.resumeSlip_answers (tag := tag)
    have told := p.slipResumed_told tag
    have drained : (p.slipResumed tag).judgeDeck.Drained := by
      have mode : (p.slipResumed tag).mode = p.resumeRecord := by rw [told.only]
      exact Part.Drained.judgeDeck (by rw [Part.Drained, mode]; exact ⟨rfl, rfl⟩) (by rw [mode]; rfl)
    rw [Part.controlResume_accepted hold kept beat unleased] at taken quiesced
    rw [Part.resumeSlip_eq, Part.endRoundTest_stopped drained.1] at *
    obtain ⟨jacks, sectors, base⟩ := told.keeps
    refine ⟨_, _, taken, quiesced, answers, told.outcome rfl, told.timer rfl rfl, drained.2, drained.1, jacks, sectors, base,
      fun time low => ?_⟩
    obtain ⟨blanking, spread, starve, others, only⟩ := told.blanked rfl time low
    refine ⟨blanking, spread, starve, others, ?_⟩
    have mode : (p.slipResumed tag).judgeDeck.mode = p.resumeRecord := congrArg Part.mode only
    rw [mode]
    exact congrArg (Part.setMode { p.resumeRecord with
      roundInProgress := p.resumeRecord.roundInProgress && p.resumeRecord.roundCommands != 0 }) only

end Sys2Proof.Machine
end

section
/-! SUPPORT. CLEAR (R134): what it takes out of the cause sets and the log, its answer, and the return from STOPPED (R107). -/

namespace Sys2Proof.Machine

/-! ### What CLEAR leaves -/

section
variable (p : Part)

/-- A sector cause that is still present (R134 step 1). -/
def Part.stillStops (q : Pair) : Bool := (p.pair q).stopsSector && (p.pair q).state.isPresent

/-- The sectors that CLEAR leaves stopped. -/
def Part.stillStopped : Nat := sectorIds.countP fun k => (sectorPairs k).any p.stillStops

/-- COMPOUND's input, judged on them (R134 step 2). -/
def Part.stillAbove : Bool := decide (p.bank.sectorStopLimit < p.stillStopped)

/-- A pair that is not present once COMPOUND has been judged. -/
def Part.gone (q : Pair) : Bool := !(p.pair q).state.isPresent || (q == .compound && !p.stillAbove)

/-- The records that CLEAR leaves (R134 step 4). -/
def Part.keptLog : List LogRecord := p.mon.log.filter fun r =>
  r.present && !(r.pair == .compound && (p.pair .compound).state.isPresent && !p.stillAbove)

/-- The part that CLEAR's steps leave, before its answer. -/
def Part.cleared : Part := p.clearSectorCauses.judgeCompound.clearRingCauses.clearLog.updateAlert

/-- The pair records that CLEAR leaves. -/
def Part.clearedPair (q : Pair) : PairRecord where
  state := if q = .compound then (p.pair q).state.followed p.clock p.stillAbove else (p.pair q).state
  stopsSector := p.stillStops q
  stopsRing := (p.pair q).stopsRing && !p.gone q

end

section
variable {p : Part}

theorem Part.clearSectorCauses_stopped (p : Part) : p.clearSectorCauses.stoppedSectors = p.stillStopped := by
  have stops : ∀ k, p.clearSectorCauses.sectorStopped k = (sectorPairs k).any p.stillStops := fun k => by
    unfold Part.sectorStopped
    refine congrArg (sectorPairs k).any (funext fun q => ?_)
    rw [Part.clearSectorCauses_pair]
    rfl
  exact congrArg sectorIds.countP (funext stops)

/-- COMPOUND, judged in CLEAR, does not assert: above the limit it is present already. -/
theorem Part.clearSectorCauses_steady (present : p.stillAbove = true → (p.pair .compound).state.isPresent = true) :
    p.clearSectorCauses.Steady (fun _ => p.stillAbove) [.compound] := by
  refine ⟨fun x m => ?_, fun x m => ?_⟩
  · obtain rfl := List.mem_singleton.1 m
    change decide (p.bank.sectorStopLimit < p.clearSectorCauses.stoppedSectors) = _
    rw [Part.clearSectorCauses_stopped]
    rfl
  · obtain rfl := List.mem_singleton.1 m
    unfold Part.assertsNow
    rw [Part.clearSectorCauses_pair]
    cases above : p.stillAbove with
    | false => rfl
    | true =>
      have here := present above
      cases state : (p.pair .compound).state with
      | present m => rfl
      | notPresent | pending start =>
        rw [state] at here
        nomatch here

/-- What CLEAR's steps leave of MON (R134); nothing else moves. -/
structure Part.Cleared (p t : Part) : Prop where
  only : t = { p with mon := t.mon }
  pair : ∀ q, t.pair q = p.clearedPair q
  log : t.mon.log = p.keptLog
  stopped : t.stoppedSectors = p.stillStopped
  alert : t.mon.alert = (p.mode.mode.isStopped || decide (0 < p.stillStopped))
  blanking : t.mon.blanking = p.mon.blanking
  events : t.mon.events = p.mon.events

theorem Part.anyStopped_eq (p : Part) : sectorIds.any p.sectorStopped = decide (0 < p.stoppedSectors) := by
  rw [Part.stoppedSectors, Bool.eq_iff_iff, decide_eq_true_iff, List.countP_pos_iff, List.any_eq_true]

theorem Part.stoppedSectors_of_still {t : Part} (stops : ∀ q, (t.pair q).stopsSector = p.stillStops q) :
    t.stoppedSectors = p.stillStopped := by
  have sector : ∀ k, t.sectorStopped k = (sectorPairs k).any p.stillStops := fun k =>
    congrArg (sectorPairs k).any (funext stops)
  exact congrArg sectorIds.countP (funext sector)

/-- Records of pairs not present go, COMPOUND's among them where it has ceased (R134 step 4). -/
theorem Part.ceasedLog_filter (p : Part) : (p.mon.log.map fun r =>
    if r.pair ∈ [Pair.compound] ∧ (p.clearSectorCauses.pair r.pair).state.isPresent = true ∧ p.stillAbove = false
    then { r with present := false } else r).filter (·.present) = p.keptLog := by
  have same : ∀ q, (p.clearSectorCauses.pair q).state = (p.pair q).state := fun q => by
    rw [Part.clearSectorCauses_pair]
  unfold Part.keptLog
  induction p.mon.log with
  | nil => rfl
  | cons r l ih =>
    rw [List.map_cons, List.filter_cons, List.filter_cons, ih]
    by_cases ends : r.pair ∈ [Pair.compound] ∧ (p.clearSectorCauses.pair r.pair).state.isPresent = true ∧ p.stillAbove = false
    · obtain ⟨here, present, low⟩ := ends
      have compound := List.mem_singleton.1 here
      rw [same, compound] at present
      simp [same, compound, present, low]
    · rw [if_neg ends]
      have stays : (r.pair == Pair.compound && (p.pair .compound).state.isPresent && !p.stillAbove) = false := by
        rw [same] at ends
        rw [Bool.eq_false_iff]
        intro all
        simp only [Bool.and_eq_true, beq_iff_eq, Bool.not_eq_true'] at all
        obtain ⟨⟨compound, present⟩, low⟩ := all
        exact ends ⟨List.mem_singleton.2 compound, compound ▸ present, low⟩
      rw [stays]
      simp

theorem Part.cleared_cleared (present : p.stillAbove = true → (p.pair .compound).state.isPresent = true) :
    p.Cleared p.cleared := by
  obtain ⟨only, pair, log, blanking, -, events⟩ := Part.followAll_followed (b := fun _ => p.stillAbove) [.compound] p.clearSectorCauses
  rw [← (Part.clearSectorCauses_steady present).event] at only pair log blanking events
  have judged : p.cleared = (p.clearSectorCauses.event ([Pair.compound].map inputTest)).clearRingCauses.clearLog.updateAlert := rfl
  rw [judged]
  generalize p.clearSectorCauses.event ([Pair.compound].map inputTest) = c at *
  have pairs : ∀ q, c.clearRingCauses.clearLog.updateAlert.pair q = p.clearedPair q := fun q => by
    refine (c.clearRingCauses_pair q).trans ?_
    rw [pair, Part.clearSectorCauses_pair]
    by_cases compound : q = .compound
    · subst compound
      simp [Part.clearedPair, Part.gone, Part.stillStops, PairState.followed_isPresent, Part.clearSectorCauses]
    · simp [compound, beq_false_of_ne compound, Part.clearedPair, Part.gone, Part.stillStops]
  have stopped := Part.stoppedSectors_of_still (p := p) fun q => congrArg PairRecord.stopsSector (pairs q)
  have kept : c.mon.log.filter (·.present) = p.keptLog := log ▸ p.ceasedLog_filter
  refine ⟨?_, pairs, kept, stopped, ?_, blanking, events⟩
  · rw [only]
    rfl
  · change (c.mode.mode.isStopped || sectorIds.any c.clearRingCauses.clearLog.updateAlert.sectorStopped) = _
    rw [Part.anyStopped_eq, stopped, only]
    rfl

end

/-! ### The answer -/

section
variable (p : Part) (tag : Tag)

/-- The part that CLEAR's answer leaves. -/
def Part.clearTold : Part :=
  p.cleared.data tag codeClear [octet p.cleared.mon.log.length, octet p.cleared.stoppedSectors]

theorem Part.clear_eq : p.clear tag =
    if (p.clearTold tag).ringCausesEmpty then (p.clearTold tag).returnFromStopped else p.clearTold tag := rfl

variable {p} {tag}

/-- What CLEAR leaves of MON once it has answered; nothing else moves but the send queue. -/
structure Part.ClearTold (p t : Part) : Prop where
  only : t = { p with mon := t.mon, sendQueue := t.sendQueue }
  pair : ∀ q, t.pair q = p.clearedPair q
  log : t.mon.log = p.keptLog
  stopped : t.stoppedSectors = p.stillStopped
  alert : t.mon.alert = (p.mode.mode.isStopped || decide (0 < p.stillStopped))
  blanking : t.mon.blanking = p.mon.blanking
  events : t.mon.events = if p.sendQueue.length < 256 then p.mon.events else p.mon.events ||| 2

theorem Part.Cleared.answered {t : Part} (h : p.Cleared t) (l : List Byte) : p.ClearTold (t.emit .reply 0 tag l) := by
  obtain ⟨only, pair, log, stopped, alert, blanking, events⟩ := h
  have queue : t.sendQueue = p.sendQueue := by rw [only]
  by_cases room : t.sendQueue.length < Config.maxSend
  · rw [t.emit_room room]
    refine ⟨by rw [only], pair, log, stopped, alert, blanking, events.trans ?_⟩
    rw [queue] at room
    exact (if_pos room).symm
  · rw [t.emit_full room]
    refine ⟨by rw [only]; rfl, pair, log, stopped, alert, blanking, ?_⟩
    rw [queue] at room
    refine Eq.trans ?_ (if_neg room).symm
    change t.mon.events ||| 2 = _
    rw [events]

theorem Part.clearTold_told (tag : Tag) (present : p.stillAbove = true → (p.pair .compound).state.isPresent = true) :
    p.ClearTold (p.clearTold tag) := (Part.cleared_cleared present).answered _

/-- The ring stop cause set is empty exactly where each of its pairs is gone. -/
theorem Part.ClearTold.ringCausesEmpty {t : Part} (h : p.ClearTold t) :
    t.ringCausesEmpty = true ↔ ∀ q, (p.pair q).stopsRing = true → p.gone q = true := by
  rw [Part.ringCausesEmpty_iff]
  refine forall_congr' fun q => ?_
  rw [h.pair]
  change ((p.pair q).stopsRing && !p.gone q) = false ↔ _
  cases (p.pair q).stopsRing <;> simp

end

/-! ### The return from STOPPED (R107) -/

section
variable (p : Part) (tag : Tag) (m : ModeRecord) (x : Supervision)

/-- The part as MON is told of SETUP or HOLD. -/
def Part.backTold : Part := ({ p.clearTold tag with mode := m, sup := x, stopOut := false } : Part).updateAlert

/-- What the return has made of the part p when MON is told: the mode record m, supervision x, STOP OUT released. -/
structure Part.BackTold (w : Part) : Prop where
  only : w = { p with mode := m, sup := x, stopOut := false, mon := w.mon, sendQueue := w.sendQueue }
  pair : ∀ q, w.pair q = p.clearedPair q
  log : w.mon.log = p.keptLog
  alert : w.mon.alert = decide (0 < p.stillStopped)
  blanking : w.mon.blanking = p.mon.blanking
  events : w.mon.events = if p.sendQueue.length < 256 then p.mon.events else p.mon.events ||| 2

variable {p tag m x}

theorem Part.backTold_told (present : p.stillAbove = true → (p.pair .compound).state.isPresent = true)
    (running : m.mode.isStopped = false) : p.BackTold m x (p.backTold tag m x) := by
  obtain ⟨only, pair, log, stopped, -, blanking, events⟩ := Part.clearTold_told tag present
  refine ⟨?_, pair, log, ?_, blanking, events⟩
  · unfold Part.backTold
    rw [only]
    rfl
  · change (m.mode.isStopped || sectorIds.any (p.clearTold tag).sectorStopped) = _
    rw [running, Part.anyStopped_eq, stopped]
    rfl

theorem Part.clearTold_setup (present : p.stillAbove = true → (p.pair .compound).state.isPresent = true)
    (climb : p.mode.mode = .stopped .setup) : (p.clearTold tag).returnFromStopped
      = (p.backTold tag { p.mode with mode := .setup } p.sup).judgeDeck := by
  have only := (Part.clearTold_told tag present).only
  have mode : (p.clearTold tag).mode = p.mode := by rw [only]
  have sup : (p.clearTold tag).sup = p.sup := by rw [only]
  unfold Part.returnFromStopped
  rw [mode, climb, ← sup]
  rfl

theorem Part.clearTold_hold (present : p.stillAbove = true → (p.pair .compound).state.isPresent = true)
    (climb : p.mode.mode = .stopped .slip ∨ p.mode.mode = .stopped .hold) : (p.clearTold tag).returnFromStopped
      = (p.backTold tag (p.holdRecord .fromStop) ⟨true, 0, p.clock, p.clock, 0, p.sup.deckLost⟩).judgeDeck := by
  have only := (Part.clearTold_told tag present).only
  have mode : (p.clearTold tag).mode = p.mode := by rw [only]
  have back : ({ (p.clearTold tag).setMode ((p.clearTold tag).holdRecord .fromStop) with stopOut := false }.startSupervision
      (p.clearTold tag).sup.deckLost).tellMonMode
      = (p.backTold tag (p.holdRecord .fromStop) ⟨true, 0, p.clock, p.clock, 0, p.sup.deckLost⟩).judgeDeck := by
    unfold Part.backTold Part.tellMonMode
    rw [only]
    rfl
  rw [← back]
  unfold Part.returnFromStopped
  rw [mode]
  rcases climb with climb | climb
  · rw [climb]
  · rw [climb]

/-- The inputs that MON's tests find after the return: in SETUP but COMPOUND's none (R119, R120, R124). -/
def Part.backInput (p : Part) : Pair → Bool
  | .compound => p.stillAbove
  | .spread => p.mode.mode != .stopped .setup && decide (p.bank.spreadAlarm < p.spread)
  | .starve k => p.mode.mode != .stopped .setup && (p.inUse k && p.fillLow k)
  | _ => false

/-- The return to SETUP, where SETUP was stopped, or to HOLD (R107). -/
def Part.Returns (p : Part) (m : ModeRecord) : Prop :=
  (p.mode.mode = .stopped .setup ∧ m.mode = .setup) ∨ (p.mode.mode ≠ .stopped .setup ∧ m.mode = .hold .fromStop)

variable {w : Part}

theorem Part.BackTold.moves (told : p.BackTold m x w) : w.mode = m ∧ w.sup = x ∧ w.stopOut = false := by
  refine ⟨?_, ?_, ?_⟩
  all_goals rw [told.only]

theorem Part.BackTold.stopped (told : p.BackTold m x w) : w.stoppedSectors = p.stillStopped :=
  Part.stoppedSectors_of_still fun q => congrArg PairRecord.stopsSector (told.pair q)

theorem Part.BackTold.compoundInput (told : p.BackTold m x w) : w.compoundInput = p.stillAbove := by
  have bank : w.bank = p.bank := by
    rw [told.only]
    rfl
  rw [Part.compoundInput, told.stopped, bank]
  rfl

/-- SPREAD and STARVE outside resume blanking, out of SLIP (R119, R120). -/
theorem Part.inputs_aside {q : Part} (aside : q.mode.mode = .setup ∨ q.mode.mode = .hold .fromStop) :
    q.spreadInput = (q.mode.mode != .setup && decide (q.bank.spreadAlarm < q.spread))
    ∧ ∀ k, q.starveInput k = (q.mode.mode != .setup && (q.inUse k && q.fillLow k)) := by
  have blanked : q.blanked = false := by
    unfold Part.blanked
    rcases aside with mode | mode <;> rw [mode] <;> rfl
  refine ⟨?_, fun k => ?_⟩
  · rw [Part.spreadInput, blanked]
    simp
  · rw [Part.starveInput, blanked]
    rcases aside with mode | mode <;> simp [mode, ClimbMode.isHold]

theorem Part.BackTold.testInput (told : p.BackTold m x w) (back : p.Returns m) {q : Pair} (named : ofModeChange q) :
    w.testInput q = p.backInput q := by
  have mode : w.mode = m := told.moves.1
  have aside : w.mode.mode = .setup ∨ w.mode.mode = .hold .fromStop := mode ▸ back.imp And.right And.right
  have climb : (w.mode.mode != .setup) = (p.mode.mode != .stopped .setup) := by
    rw [mode]
    rcases back with ⟨stopped, setup⟩ | ⟨stopped, hold⟩
    · rw [stopped, setup]
      rfl
    · rw [hold, bne_iff_ne.2 stopped]
      rfl
  obtain ⟨spread, starve⟩ := Part.inputs_aside aside
  have only := told.only
  rcases named with rfl | rfl | ⟨k, rfl⟩
  · refine spread.trans ?_
    rw [climb, only]
    rfl
  · exact told.compoundInput
  · refine (starve k).trans ?_
    rw [climb, only]
    rfl

theorem Part.BackTold.compound_calm (told : p.BackTold m x w) : w.assertsNow .compound p.stillAbove = false := by
  unfold Part.assertsNow
  rw [told.pair]
  cases above : p.stillAbove with
  | false => rfl
  | true =>
    have stays := PairState.followed_true_ne p.clock (p.pair .compound).state
    rw [Part.clearedPair, if_pos rfl, above, beq_false_of_ne stays]
    rfl

/-- Back in SETUP, or in HOLD with deglitch times, no test asserts. -/
theorem Part.BackTold.steady (told : p.BackTold m x w) (back : p.Returns m)
    (slow : p.mode.mode = .stopped .setup ∨ (p.bank.deglitchSpread ≠ 0 ∧ p.bank.deglitchStarve ≠ 0)) :
    w.Steady p.backInput modePairs := by
  have bank : w.bank = p.bank := by
    rw [told.only]
    rfl
  have calm : ∀ q, (p.mode.mode = .stopped .setup → p.backInput q = false) → (p.mode.mode ≠ .stopped .setup →
      p.bank.deglitch q ≠ 0) → w.assertsNow q (p.backInput q) = false := fun q low waits => by
    unfold Part.assertsNow
    rw [bank]
    by_cases setup : p.mode.mode = .stopped .setup
    · rw [low setup]
      rfl
    · rw [beq_false_of_ne (waits setup), Bool.and_false]
  refine ⟨fun q named => told.testInput back (mem_modePairs.1 named), fun q named => ?_⟩
  rcases mem_modePairs.1 named with rfl | rfl | ⟨k, rfl⟩
  · exact calm _ (fun setup => by rw [Part.backInput, setup]; rfl) fun hold => (slow.resolve_left hold).1
  · exact told.compound_calm
  · exact calm _ (fun setup => by rw [Part.backInput, setup]; rfl) fun hold => (slow.resolve_left hold).2

/-! ### What MON's tests make of the return -/

/-- The entry into STOPPED, whatever waits for admission. -/
theorem Part.enterStopped_halts {q : Part} (runs : q.mode.mode.isStopped = false) :
    q.enterStopped.mode.mode = .stopped q.mode.mode.left ∧ q.enterStopped.stopOut = true := by
  have told := q.stopTold.toldOfStopped_quiet.keeps
  have tested : Quiet ({ q.stopClosed.ringOut false .still 127 0 [] with stopOut := true } : Part) q.stopTold :=
    Part.endRoundTest_quiet _
  have after := tested.keeps.stopOut
  have climb := q.stopTold_climb
  rw [Part.enterStopped_eq runs]
  generalize q.stopTold = d at *
  generalize d.toldOfStopped = t at *
  exact ⟨told.climb.trans climb, told.stopOut.trans after⟩

/-- Back in HOLD the part runs on, or a condition judged there stops the ring again (R105, R107). -/
theorem Part.BackTold.outcome (told : p.BackTold m x w) (hold : m.mode = .hold .fromStop) :
    w.Runs w.judgeDeck ∨ (w.judgeDeck.mode.mode = .stopped .hold ∧ w.judgeDeck.stopOut = true) := by
  have runs := judgeAll_runs modeTests_run w
  have mode : w.mode.mode = .hold .fromStop := by rw [told.moves.1, hold]
  have climb := runs.climb.trans mode
  rcases w.judgeDeck_cases with same | same
  · exact .inl (same ▸ runs)
  · have halts := Part.enterStopped_halts (q := (judgeAll (modePairs.map inputTest) w).1) (by rw [climb]; rfl)
    rw [climb] at halts
    exact .inr (same ▸ halts)

/-- A test under a mode that stops no sector moves its own pair alone. -/
theorem judging_other {q y : Pair} {r : Part} (input : Part → Bool) (soft : r.bank.condMode q = .sector → pairSector q = none)
    (away : y ≠ q) :
    ((judging q input r).1.pair y) = r.pair y := by
  have noted : r.assertHere q none = r.noteAssertion q none := by
    unfold Part.assertHere
    split
    · next mode of =>
      rw [soft mode] at of
      nomatch of
    · rfl
  unfold judging
  split
  · change (r.assertHere q none).pair y = _
    rw [noted]
    exact (r.noteAssertion_touches q none).others y away
  · exact (r.follow_touches q _).others y away

/-- COMPOUND goes on not asserting where a test has left its pair and the sectors stopped. -/
theorem Part.Watched.steady {c : Bool} {r t : Part} (h : r.Watched t) (same : t.pair .compound = r.pair .compound)
    (steady : r.Steady (fun _ => c) [.compound]) : t.Steady (fun _ => c) [.compound] := by
  refine ⟨List.forall_mem_singleton.2 ?_, List.forall_mem_singleton.2 ?_⟩
  · refine Eq.trans ?_ (steady.input _ List.mem_cons_self)
    change t.compoundInput = r.compoundInput
    rw [Part.compoundInput, Part.compoundInput, h.stoppedSectors, h.bank]
  · have calm := steady.calm _ List.mem_cons_self
    unfold Part.assertsNow at calm ⊢
    rwa [same, h.bank]

/-- A test of a mode change that stops nothing, COMPOUND's where it does not assert. -/
theorem inputTest_stays {c : Bool} {q : Pair} {r : Part} (named : ofModeChange q)
    (soft : q ≠ .compound → (r.bank.condMode q = .sector → pairSector q = none) ∧ r.bank.condMode q ≠ .ring)
    (steady : r.Steady (fun _ => c) [.compound]) : r.Watched (inputTest q r).1
      ∧ (inputTest q r).1.Steady (fun _ => c) [.compound] ∧ (inputTest q r).2 = false := by
  by_cases compound : q = .compound
  · subst compound
    have test : inputTest .compound r = (r.follow .compound c, false) := by
      have one := steady.judgeAll fun _ => id
      rwa [List.map_singleton, judgeAll_singleton] at one
    rw [test]
    exact ⟨Part.follow_watched named c, steady.follow .compound, rfl⟩
  · obtain ⟨sector, ring⟩ := soft compound
    have watched : r.Watched (inputTest q r).1 := judging_watched named _ sector
    exact ⟨watched, watched.steady (judging_other _ sector (Ne.symm compound)) steady, judging_calm _ ring⟩

/-- In HOLD, with SPREAD and STARVE stopping nothing, no test stops the ring. -/
theorem Part.BackTold.stays (told : p.BackTold m x w) (hold : m.mode = .hold .fromStop)
    (spread : p.bank.condMode .spread ≠ .ring) (sector : p.bank.condMode (.starve 0) ≠ .sector)
    (ring : p.bank.condMode (.starve 0) ≠ .ring) : w.judgeDeck.mode.mode = .hold .fromStop := by
  have bank : w.bank = p.bank := by
    rw [told.only]
    rfl
  have mode : w.mode.mode = .hold .fromStop := by rw [told.moves.1, hold]
  have steady : w.Steady (fun _ => p.stillAbove) [.compound] :=
    ⟨List.forall_mem_singleton.2 told.compoundInput, List.forall_mem_singleton.2 told.compound_calm⟩
  have step : ∀ f ∈ modePairs.map inputTest, ∀ r, w.Watched r ∧ r.Steady (fun _ => p.stillAbove) [.compound] →
      (w.Watched (f r).1 ∧ (f r).1.Steady (fun _ => p.stillAbove) [.compound]) ∧ (f r).2 = false := by
    rintro f here r ⟨before, still⟩
    obtain ⟨q, m, rfl⟩ := List.mem_map.1 here
    have named := mem_modePairs.1 m
    have soft : q ≠ .compound → (r.bank.condMode q = .sector → pairSector q = none) ∧ r.bank.condMode q ≠ .ring := by
      rw [before.bank, bank]
      rcases named with rfl | rfl | ⟨k, rfl⟩
      · exact fun _ => ⟨fun _ => rfl, spread⟩
      · exact fun other => absurd rfl other
      · exact fun _ => ⟨fun mode => absurd mode sector, ring⟩
    obtain ⟨watched, after, calm⟩ := inputTest_stays named soft still
    exact ⟨⟨before.trans watched, after⟩, calm⟩
  have calm := judgeAll_calm step ⟨.refl w, steady⟩
  have runs := judgeAll_runs modeTests_run w
  rw [Part.judgeDeck_eq]
  unfold Part.event
  generalize judgeAll (modePairs.map inputTest) w = r at *
  dsimp only
  rw [calm]
  exact runs.climb.trans mode

/-- Back in SETUP, or in HOLD with deglitch times: SPREAD, STARVE and COMPOUND follow their inputs (R119, R120, R124). -/
theorem Part.BackTold.judged (told : p.BackTold m x w) (back : p.Returns m)
    (slow : p.mode.mode = .stopped .setup ∨ (p.bank.deglitchSpread ≠ 0 ∧ p.bank.deglitchStarve ≠ 0)) :
    w.Followed p.backInput modePairs w.judgeDeck := (told.steady back slow).judgeDeck

section
variable {t : Part} (told : p.BackTold m x w) (followed : w.Followed p.backInput modePairs t)
include told followed

theorem Part.BackTold.stops (q : Pair) : (t.pair q).stopsSector = p.stillStops q
    ∧ (t.pair q).stopsRing = ((p.pair q).stopsRing && !p.gone q) := by
  rw [followed.pair]
  split
  · rw [told.pair]
    exact ⟨rfl, rfl⟩
  · rw [told.pair]
    exact ⟨rfl, rfl⟩

theorem Part.BackTold.state_aside {q : Pair} (aside : ¬ ofModeChange q) : (t.pair q).state = (p.pair q).state := by
  have other : q ≠ .compound := fun same => aside (.inr (.inl same))
  rw [followed.pair, if_neg (mem_modePairs.not.2 aside), told.pair]
  exact if_neg other

theorem Part.BackTold.state_judged {q : Pair} (named : ofModeChange q) (other : q ≠ .compound) :
    (t.pair q).state = (p.pair q).state.followed p.clock (p.backInput q) := by
  have clock : w.clock = p.clock := by rw [told.only]
  have state : (p.clearedPair q).state = (p.pair q).state := if_neg other
  rw [followed.pair, if_pos (mem_modePairs.2 named), told.pair, clock, state]

theorem Part.BackTold.log_judged : t.mon.log = p.keptLog.map fun r =>
    if (r.pair ∈ modePairs ∧ r.pair ≠ .compound) ∧ (p.pair r.pair).state.isPresent = true ∧ p.backInput r.pair = false
    then { r with present := false } else r := by
  rw [followed.log, told.log]
  refine List.map_congr_left fun r _ => if_congr ?_ rfl rfl
  rw [told.pair]
  by_cases compound : r.pair = .compound
  · have ends : ((p.clearedPair r.pair).state.isPresent = true ∧ p.backInput r.pair = false) ↔ False := by
      have state : (p.clearedPair .compound).state = (p.pair .compound).state.followed p.clock p.stillAbove := by
        rw [Part.clearedPair, if_pos rfl]
      rw [compound, state, PairState.followed_isPresent, iff_false, not_and, Bool.and_eq_true, and_imp]
      exact fun _ above low => nomatch above.symm.trans low
    rw [ends, and_false, false_iff]
    exact fun all => all.1.2 compound
  · have state : (p.clearedPair r.pair).state = (p.pair r.pair).state := if_neg compound
    rw [state, and_iff_left compound]

end

end

/-! ### CLEAR as a whole -/

section
variable {p : Part} {tag : Tag}

theorem Part.inUse_iff {k : SectorId} : p.inUse k = true ↔ ∃ j, (p.jackEntry j).enabled = true ∧ p.sectorOf j = k := by
  simp [Part.inUse, mem_jackIds]

/-- A pair that follows its input, written out (R125). -/
theorem PairState.followed_eq {now : Clock} {b : Bool} {state : PairState} : state.followed now b =
    if b = true then (if state = .notPresent then .pending now else state) else .notPresent := by
  cases b
  · rfl
  · cases state <;> rfl

theorem exec_clear {s : State} {tag : Tag} (ready : s.part.Ready) : exec (.clear tag) s
    = .next { s with part := s.part.acceptAny.finish (s.part.acceptAny.clear tag) } := by
  rw [← Part.finish_acceptAny]
  exact State.takeRequest_ready ready

/-- DATA, stamped with the mode that CLEAR found (R134, R169). -/
theorem Part.clear_answers (present : p.stillAbove = true → (p.pair .compound).state.isPresent = true)
    (free : p.resetLine = false) : p.Answers (p.clear tag) ⟨0, 0, .reply, tag,
      ({ p with mon := { p.mon with alert := p.mode.mode.isStopped || decide (0 < p.stillStopped) } } : Part).summary,
      [4, 1, octet p.keptLog.length, octet p.stillStopped]⟩ := by
  obtain ⟨only, -, log, stopped, alert, -, events⟩ := Part.cleared_cleared present
  have line := (Part.clearTold_told tag present).only
  have summary : p.cleared.summary
      = ({ p with mon := { p.mon with alert := p.mode.mode.isStopped || decide (0 < p.stillStopped) } } : Part).summary := by
    have mode : p.cleared.mode = p.mode := by rw [only]
    rw [Part.summary, Part.summary, Part.notice, alert, events, mode]
    rfl
  have told : Course (p.clearTold tag) (p.clear tag) := by
    rw [Part.clear_eq]
    exact .ite (fun _ => Part.returnFromStopped_course _ (by rw [line]; exact free)) fun _ => .refl _
  rw [← summary, ← log, ← stopped]
  exact Part.answers_of_grows (q := p.cleared) (by rw [only]) told.grows

/-- CLEAR that does not return leaves what it has told; one that returns, what MON judges in the new mode. -/
theorem Part.clear_cases (present : p.stillAbove = true → (p.pair .compound).state.isPresent = true) :
    ((p.mode.mode.isStopped = false ∨ ∃ q, (p.pair q).stopsRing = true ∧ p.gone q = false) →
      p.clear tag = p.clearTold tag)
    ∧ ((∀ q, (p.pair q).stopsRing = true → p.gone q = true) → p.clear tag = (p.clearTold tag).returnFromStopped) := by
  have told := Part.clearTold_told tag present
  have climb : (p.clearTold tag).mode = p.mode := by rw [told.only]
  refine ⟨fun stays => ?_, fun gone => if_pos (told.ringCausesEmpty.2 gone)⟩
  rw [Part.clear_eq]
  split
  · next empty =>
    have running := stays.resolve_right fun ⟨q, stops, kept⟩ =>
      nomatch kept.symm.trans (told.ringCausesEmpty.1 empty q stops)
    unfold Part.returnFromStopped
    rw [climb]
    cases mode : p.mode.mode with
    | stopped l =>
      rw [mode] at running
      nomatch running
    | setup | slip | hold c => rfl
  · rfl

theorem Part.returnFromStopped_deck (p : Part) :
    p.returnFromStopped.jacks = p.jacks ∧ p.returnFromStopped.sectors = p.sectors := by
  have judged := fun q : Part => q.updateAlert.judgeDeck_loud.keeps
  unfold Part.returnFromStopped
  split
  · exact ⟨(judged _).jacks, (judged _).sectors⟩
  · exact ⟨(judged _).jacks, (judged _).sectors⟩
  · exact ⟨(judged _).jacks, (judged _).sectors⟩
  all_goals exact ⟨rfl, rfl⟩

/-- CLEAR leaves the jacks and the layers. -/
theorem Part.clear_deck (present : p.stillAbove = true → (p.pair .compound).state.isPresent = true) :
    (p.clear tag).jacks = p.jacks ∧ (p.clear tag).sectors = p.sectors := by
  have only := (Part.clearTold_told tag present).only
  have told : (p.clearTold tag).jacks = p.jacks ∧ (p.clearTold tag).sectors = p.sectors := by
    rw [only]
    exact ⟨rfl, rfl⟩
  rw [Part.clear_eq]
  split
  · obtain ⟨jacks, sectors⟩ := (p.clearTold tag).returnFromStopped_deck
    exact ⟨jacks.trans told.1, sectors.trans told.2⟩
  · exact told

/-- Out of STOPPED, with no ring cause left, MON is told of SETUP or HOLD and judges it (R107). -/
theorem Part.clear_returns (present : p.stillAbove = true → (p.pair .compound).state.isPresent = true)
    (gone : ∀ q, (p.pair q).stopsRing = true → p.gone q = true) (stopped : p.mode.mode.isStopped = true) :
    ∃ m x w, p.clear tag = w.judgeDeck ∧ p.BackTold m x w ∧ p.Returns m := by
  rw [(Part.clear_cases present).2 gone]
  cases climb : p.mode.mode with
  | stopped l =>
    cases l with
    | setup => exact ⟨_, _, _, Part.clearTold_setup present climb, Part.backTold_told present rfl, .inl ⟨climb, rfl⟩⟩
    | slip | hold =>
      refine ⟨_, _, _, Part.clearTold_hold present ?_, Part.backTold_told present rfl, .inr ⟨?_, rfl⟩⟩
      all_goals simp [climb]
  | setup | slip | hold c =>
    rw [climb] at stopped
    nomatch stopped

/-- The inputs of SPREAD and STARVE after the return, written out (R119, R120). -/
theorem Part.backInput_iff {q : Pair} (named : q = .spread ∨ ∃ k, q = .starve k) : p.backInput q = true ↔
    (p.mode.mode == .stopped .setup) = false ∧ ((q = .spread ∧ p.bank.spreadAlarm < p.spread)
      ∨ ∃ k, q = .starve k ∧ (∃ j, (p.jackEntry j).enabled = true ∧ p.sectorOf j = k)
        ∧ (p.sector k).top < p.sectorBottom k + p.bank.minFill) := by
  rcases named with rfl | ⟨k, rfl⟩
  · simp [Part.backInput, bne]
  · rw [Part.backInput, Bool.and_eq_true, Bool.and_eq_true, Part.inUse_iff, Part.fillLow, decide_eq_true_iff, bne,
      Bool.not_eq_true']
    refine and_congr_right fun _ => ⟨fun found => .inr ⟨k, rfl, found⟩, ?_⟩
    rintro (⟨same, -⟩ | ⟨i, same, found⟩)
    · nomatch same
    · obtain rfl := Pair.starve.inj same
      exact found

theorem mem_modePairs_other {q : Pair} : (q ∈ modePairs ∧ q ≠ .compound) ↔ (q = .spread ∨ ∃ k, q = .starve k) := by
  rw [mem_modePairs]
  constructor
  · rintro ⟨named | named | named, other⟩
    · exact .inl named
    · exact absurd named other
    · exact .inr named
  · rintro (rfl | ⟨k, rfl⟩)
    · exact ⟨.inl rfl, nofun⟩
    · exact ⟨.inr (.inr ⟨k, rfl⟩), nofun⟩

end

/-- Settles O33: CLEAR's steps and its answer, then, where it returns, MON's tests in the mode returned to. -/
theorem clearForgetsWhatCeased : Obligations.ClearForgetsWhatCeased := by
  unfold Obligations.ClearForgetsWhatCeased
  intro s tag ready p held stopped above gone log alert setup input present
  have taken : exec (.clear tag) s = .next { s with part := p.finish (p.clear tag) } := exec_clear ready
  have free : p.resetLine = false := s.part.acceptAny_course.keeps.resetLine.trans ready.2
  clear_value p
  have course := p.clear_course tag free
  have keeps := course.keeps
  obtain ⟨jacks, sectors⟩ := Part.clear_deck (tag := tag) present
  obtain ⟨stays, returns⟩ := Part.clear_cases (tag := tag) present
  refine ⟨p.clear tag, p.finish (p.clear tag), taken, course.quiesced, Part.clear_answers present free, jacks, sectors,
    ⟨keeps.cfg, keeps.clock, keeps.owed, keeps.resetCause, keeps.resetWait, keeps.stopIn, keeps.resetLine, keeps.order⟩,
    fun remains => ?_, fun none => ⟨fun climb => ?_, fun climb => ⟨?_, fun spread sector ring => ?_⟩, fun climb slow => ?_⟩⟩
  · obtain ⟨only, pair, log, stopped, alert, -, -⟩ := Part.clearTold_told tag present
    rw [stays remains]
    refine ⟨log, alert, stopped, fun q => ?_, ?_⟩
    · rw [pair]
      exact ⟨rfl, rfl, fun other => if_neg other⟩
    · rw [only]
  · have told := Part.backTold_told (tag := tag) (m := { p.mode with mode := .setup }) (x := p.sup) present rfl
    have followed := told.judged (.inl ⟨climb, rfl⟩) (.inl climb)
    rw [returns none, Part.clearTold_setup present climb]
    rw [followed.only]
    exact told.moves.imp id And.symm
  · have told := Part.backTold_told (tag := tag) (m := p.holdRecord .fromStop)
      (x := ⟨true, 0, p.clock, p.clock, 0, p.sup.deckLost⟩) present rfl
    rw [returns none, Part.clearTold_hold present climb]
    obtain ⟨mode, sup, stopOut⟩ := told.moves
    exact (told.outcome rfl).imp (fun runs => ⟨runs.climb.trans (congrArg ModeRecord.mode mode),
      runs.timer.trans (congrArg ModeRecord.creepTimer mode), runs.beat.trans (congrArg ModeRecord.heartbeatSinceHold mode),
      runs.stopOut.trans stopOut, runs.sup.trans sup⟩) id
  · have told := Part.backTold_told (tag := tag) (m := p.holdRecord .fromStop)
      (x := ⟨true, 0, p.clock, p.clock, 0, p.sup.deckLost⟩) present rfl
    rw [returns none, Part.clearTold_hold present climb]
    exact told.stays rfl spread sector ring
  · obtain ⟨m, x, w, same, told, back⟩ := Part.clear_returns (tag := tag) present none climb
    have followed := told.judged back (slow.imp_left beq_iff_eq.1)
    have stops := told.stops followed
    rw [same]
    refine ⟨followed.alert.trans told.alert, Part.stoppedSectors_of_still fun q => (stops q).1,
      followed.blanking.trans told.blanking, followed.events.trans told.events, fun q => ⟨(stops q).1, ?_⟩,
      fun q compound spread starve => told.state_aside followed ?_, fun q named => ?_, ?_, ?_⟩
    · rw [(stops q).2]
      cases ring : (p.pair q).stopsRing with
      | false => rfl
      | true =>
        have left : p.gone q = true := none q ring
        rw [left]
        rfl
    · rintro (here | here | ⟨k, here⟩)
      · exact spread here
      · exact compound here
      · exact starve k here
    · obtain ⟨here, other⟩ := mem_modePairs_other.2 named
      rw [told.state_judged followed (mem_modePairs.1 here) other, PairState.followed_eq]
      exact if_congr (Part.backInput_iff named) rfl rfl
    · rw [told.log_judged followed]
      refine List.map_congr_left fun r _ => if_congr ?_ rfl rfl
      rw [mem_modePairs_other]
      refine and_congr_right fun named => and_congr_right fun _ => ?_
      rw [← Bool.not_eq_true]
      exact not_congr (Part.backInput_iff named)
    · rw [followed.only, told.only]

end Sys2Proof.Machine
end

section
/-! SUPPORT. The end of resume blanking (R126): SPREAD and every STARVE follow their inputs, and nothing beyond MON moves. -/

namespace Sys2Proof.Machine

/-! ### A share of MON's own -/

/-- A share that moves MON alone brings neither the grant of a lease nor quiescence. -/
theorem State.due_mon {s : State} {x : Share} {q : Part} (wait : s.part.resetWait ≠ some 0) (law : s.part.CommitLaw)
    (owed : x ∈ s.part.owed) (share : s.part.share x = q) (only : q = { s.part with mon := q.mon }) :
    s.due (Part.rowShare x) = .next { s with part := q.setOwed (s.part.owed.filter (· ≠ x)) } := by
  have kept : (q.dropShare x).CommitLaw := by
    rw [only]
    exact law
  have unleased : s.part.leaseSince (q.dropShare x) = q.dropShare x := by
    rw [only]
    exact Part.leaseSince_keep rfl rfl
  have same : q.owed = s.part.owed := by rw [only]
  rw [State.due_owed wait owed (by rw [share]; exact kept), share, unleased, Part.dropShare_eq, same]

/-! ### The inputs once blanking has ended -/

section
variable {p : Part}

theorem Part.endBlanking_blanked (p : Part) : p.endBlanking.blanked = false := Bool.and_false _

/-- SPREAD's input (R119), written out. -/
theorem Part.endBlanking_spread :
    p.endBlanking.testInput .spread = true ↔ p.mode.mode ≠ .setup ∧ p.bank.spreadAlarm < p.spread := by
  change (p.mode.mode != .setup && !p.endBlanking.blanked && decide (p.bank.spreadAlarm < p.spread)) = true ↔ _
  rw [p.endBlanking_blanked]
  simp

/-- STARVE's input (R120), written out. -/
theorem Part.endBlanking_starve {k : SectorId} : p.endBlanking.testInput (.starve k) = true ↔
    (p.mode.mode = .slip ∨ p.mode.mode.isHold = true) ∧ (∃ j, (p.jackEntry j).enabled = true ∧ p.sectorOf j = k)
      ∧ (p.sector k).top < p.sectorBottom k + p.bank.minFill := by
  change ((p.mode.mode == .slip || p.mode.mode.isHold) && !p.endBlanking.blanked && p.inUse k && p.fillLow k) = true ↔ _
  rw [p.endBlanking_blanked, ← Part.inUse_iff, Part.fillLow]
  simp [and_assoc]

/-! ### What the tests leave -/

/-- With deglitch times, and no more sectors stopped than the limit, no test of a mode change asserts (R124, R125). -/
theorem Part.steady_slow (spread : p.bank.deglitchSpread ≠ 0) (starve : p.bank.deglitchStarve ≠ 0)
    (low : p.stoppedSectors ≤ p.bank.sectorStopLimit) : p.Steady p.testInput modePairs := by
  have waits : ∀ q, p.bank.deglitch q ≠ 0 → p.assertsNow q (p.testInput q) = false := fun q time => by
    rw [Part.assertsNow, beq_false_of_ne time, Bool.and_false]
  refine ⟨fun _ _ => rfl, fun q named => ?_⟩
  rcases mem_modePairs.1 named with rfl | rfl | ⟨k, rfl⟩
  · exact waits _ spread
  · have none : p.testInput .compound = false := decide_eq_false (Nat.not_lt.2 low)
    rw [none]
    rfl
  · exact waits _ starve

/-- The end of blanking, where it asserts nothing. -/
theorem Part.shareBlanking_followed (ended : p.mon.blanking = some 0) (spread : p.bank.deglitchSpread ≠ 0)
    (starve : p.bank.deglitchStarve ≠ 0) (low : p.stoppedSectors ≤ p.bank.sectorStopLimit) :
    p.endBlanking.Followed p.endBlanking.testInput modePairs p.shareBlanking := by
  rw [Part.shareBlanking, if_pos ended]
  exact (Part.steady_slow (p := p.endBlanking) spread starve low).judgeDeck

/-- A pair that has followed its input, case by case (R125). -/
theorem Part.Followed.judged {b : Pair → Bool} {l : List Pair} {t : Part} {q : Pair} {input : Prop}
    (followed : p.Followed b l t) (listed : q ∈ l) (read : b q = true ↔ input) :
    (¬ input → (t.pair q).state = .notPresent)
    ∧ (input → (p.pair q).state = .notPresent → (t.pair q).state = .pending p.clock)
    ∧ (input → (p.pair q).state ≠ .notPresent → (t.pair q).state = (p.pair q).state) := by
  have state : (t.pair q).state = (p.pair q).state.followed p.clock (b q) := by rw [followed.pair, if_pos listed]
  rw [state, PairState.followed_eq, ← read]
  exact ⟨fun low => if_neg low, fun high none => by rw [if_pos high, if_pos none],
    fun high waits => by rw [if_pos high, if_neg waits]⟩

end

/-- Settles O42: the share not owed, blanking that goes on, and blanking that ends, pair by pair. -/
theorem resumeBlankingEnds : Obligations.ResumeBlankingEnds := by
  unfold Obligations.ResumeBlankingEnds
  intro s wait law
  refine ⟨State.due_unowed wait law, fun owed => ⟨fun runs => ?_, fun ended spread starve low => ?_⟩⟩
  · exact State.due_nothing wait law owed (if_neg runs)
  · have followed := Part.shareBlanking_followed (p := s.part) ended spread starve low
    refine ⟨_, State.due_mon wait law owed rfl followed.only, followed.blanking,
      followed.judged (mem_modePairs.2 (.inl rfl)) Part.endBlanking_spread,
      fun k => followed.judged (mem_modePairs.2 (.inr (.inr ⟨k, rfl⟩))) Part.endBlanking_starve,
      fun q other compound away => ?_, followed.events, followed.alert, ?_⟩
    · refine (followed.pair q).trans (if_neg fun named => ?_)
      rcases mem_modePairs.1 named with same | same | ⟨k, same⟩
      · exact other same
      · exact compound same
      · exact away k same
    · change ({ s.part.shareBlanking with
        mon := s.part.mon, owed := s.part.owed.filter (· ≠ Share.blanking) } : Part) = _
      rw [followed.only]
      rfl

end Sys2Proof.Machine
end

section
/-! SUPPORT. Acceptance of a heartbeat (R139, R140, R143, R145), violations below the strikes (R142), and the requests that
only answer and leave rounds, open commands and configuration as they were. -/

namespace Sys2Proof.Machine

section
variable {p : Part}

/-! ### Acceptance (R140, R143) -/

/-- MODE told of an acceptance: only HOLD keeps note of it (R102). -/
theorem Part.tellModeAccepted_eq : p.tellModeAccepted
    = { p with mode := { p.mode with heartbeatSinceHold := p.mode.mode.isHold || p.mode.heartbeatSinceHold } } := by
  unfold Part.tellModeAccepted
  cases hold : p.mode.mode.isHold <;> rfl

theorem Part.endDeckLost_of_kept (kept : p.sup.deckLost = false) : p.endDeckLost = p := by
  rw [Part.endDeckLost, kept]
  rfl

/-- A deck lost ends: the DECK pair ceases, and beyond MON and SUP nothing moves (R143, R145). -/
theorem Part.endDeckLost_of_lost (lost : p.sup.deckLost = true) :
    p.endDeckLost.sup = { p.sup with deckLost := false } ∧ p.Ceased p.endDeckLost .deck
      ∧ { p.endDeckLost with sup := p.sup, mon := p.mon } = p := by
  rw [Part.endDeckLost, if_pos lost]
  obtain ⟨ceased, only⟩ := Part.judge_ceases (p := p.setSup { p.sup with deckLost := false }) .deck
  refine ⟨?_, ceased, ?_⟩
  · rw [only]
    rfl
  · rw [only]
    rfl

/-- With the deck not lost an acceptance moves SUP, and MODE's note of it, alone. -/
theorem Part.accept_of_kept (kept : p.sup.deckLost = false) : p.accept = { p with
    sup := { p.sup with lastAccepted := p.clock, windowStart := p.clock, violations := 0 }
    mode := { p.mode with heartbeatSinceHold := p.mode.mode.isHold || p.mode.heartbeatSinceHold } } := by
  unfold Part.accept
  rw [Part.tellModeAccepted_eq, Part.endDeckLost_of_kept]
  · rfl
  · exact kept

/-- With the deck lost it ends deck lost too (R143). -/
theorem Part.accept_of_lost (lost : p.sup.deckLost = true) :
    p.accept.sup = { p.sup with
        lastAccepted := p.clock, windowStart := p.clock, violations := 0, deckLost := false }
      ∧ p.accept.mode = { p.mode with heartbeatSinceHold := p.mode.mode.isHold || p.mode.heartbeatSinceHold }
      ∧ p.Ceased p.accept .deck ∧ { p.accept with sup := p.sup, mode := p.mode, mon := p.mon } = p := by
  unfold Part.accept
  obtain ⟨sup, ceased, rest⟩ := Part.endDeckLost_of_lost
    (p := p.setSup { p.sup with lastAccepted := p.clock, windowStart := p.clock, violations := 0 }) lost
  have mode := congrArg Part.mode rest
  rw [Part.tellModeAccepted_eq]
  refine ⟨sup, ?_, ceased, congrArg (fun t : Part => { t with sup := p.sup, mode := p.mode }) rest⟩
  dsimp only at mode ⊢
  rw [mode]
  rfl

/-- SUP after an acceptance, with the deck lost before it or not (R140, R143). -/
theorem Part.accept_sup : p.accept.sup = { p.sup with
    lastAccepted := p.clock, windowStart := p.clock, violations := 0, deckLost := false } := by
  cases deck : p.sup.deckLost with
  | false =>
    rw [Part.accept_of_kept deck, ← deck]
  | true => exact (Part.accept_of_lost deck).1

theorem Part.acceptAny_of_any (active : p.sup.active = true) (any : p.bank.supKind = .any) : p.acceptAny = p.accept := by
  rw [Part.acceptAny, active, any]
  rfl

/-! ### Violations (R142) -/

/-- One violation more declares nothing: it stays below the strikes, or the deck is lost already. -/
def Part.Forbears (p : Part) : Prop := min (p.sup.violations + 1) 255 < p.bank.strikes ∨ p.sup.deckLost = true

/-- A violation counted. -/
def Part.struck (p : Part) : Part := p.setSup { p.sup with violations := min (p.sup.violations + 1) 255 }

theorem Part.violation_of_forbears (forbears : p.Forbears) : p.violation = p.struck := by
  refine if_neg fun strikes => ?_
  obtain ⟨reached, kept⟩ := Bool.and_eq_true_iff.1 strikes
  rcases forbears with short | lost
  · exact Nat.not_le.2 short (of_decide_eq_true reached)
  · exact nomatch lost.symm.trans (Bool.not_eq_eq_eq_not.mp kept)

/-! ### Answers of requests -/

/-- The summary of a frame does not read SUP (R169). -/
theorem Part.emit_setSup (x : Supervision) (k : Kind) (a : Byte) (t : Tag) (l : List Byte) :
    (p.setSup x).emit k a t l = (p.emit k a t l).setSup x := by
  unfold Part.emit
  rw [apply_ite (Part.setSup x)]
  rfl

/-- A violation that comes with the refusal of a HEARTBEAT (R139). -/
theorem Part.deny_violation {tag : Tag} {code : Byte} {r : Reason} (forbears : p.Forbears) :
    (p.deny tag code r).violation = p.struck.deny tag code r := by
  have bank : (p.deny tag code r).bank = p.bank := congrArg Store.active (p.deny_cfg tag code r)
  have still : (p.deny tag code r).Forbears := by rwa [Part.Forbears, bank, Part.deny_sup]
  rw [Part.violation_of_forbears still, Part.struck, Part.deny_sup]
  exact (Part.emit_setSup ..).symm

end

/-- A request that leaves rounds, open commands and configuration, and then answers, has nothing at its end. -/
theorem State.takeRequest_answered {s : State} {f : Part → Part} {t : Part} {tag : Tag} {code outcome : Byte}
    {data : List Byte} (ready : s.part.Ready) (answers : f s.part.acceptAny = t.reply tag code outcome data)
    (round : t.mode.roundInProgress = s.part.mode.roundInProgress)
    (commands : t.mode.roundCommands = s.part.mode.roundCommands) (xt : t.xt = s.part.xt) (cfg : t.cfg = s.part.cfg) :
    s.takeRequest f = .next { s with part := t.reply tag code outcome data } := by
  rw [← answers]
  refine State.takeRequest_keep ready (Part.leaseSince_keep ?_ ?_) ?_ ?_
  all_goals rw [answers]
  · rw [Part.reply_mode, round]
  · rw [Part.reply_mode, commands]
  · rw [Part.reply_xt, xt, s.part.acceptAny_keeps.xt]
  · rw [Part.reply_cfg, cfg, s.part.acceptAny_keeps.cfg]

/-- A HEARTBEAT that comes to an acceptance, or to a violation that declares nothing, and then to an answer. -/
theorem exec_heartbeat {s : State} {t : Part} {tag : Tag} {token code outcome : Byte} {data : List Byte}
    (ready : s.part.Ready) (answers : s.part.acceptAny.heartbeat tag token = t.reply tag code outcome data)
    (kept : AcceptKeeps s.part t) :
    exec (.heartbeat tag token) s = .next { s with part := t.reply tag code outcome data } := by
  refine State.takeRequest_answered ready answers ?_ ?_ kept.xt kept.cfg
  all_goals rw [kept.mode]

/-- Settles O25: the acceptance with the deck not lost and with the deck lost; then TOKEN and inactive. -/
theorem anyRequestIsAHeartbeat : Obligations.AnyRequestIsAHeartbeat := by
  unfold Obligations.AnyRequestIsAHeartbeat
  refine fun p => ⟨fun active any => ?_, Part.acceptAny_eq⟩
  rw [Part.acceptAny_of_any active any]
  cases deck : p.sup.deckLost with
  | false =>
    refine ⟨Part.accept_sup, ?_⟩
    rw [Part.accept_of_kept deck]
    exact ⟨rfl, nofun, fun _ => rfl, fun _ _ => rfl, rfl⟩
  | true =>
    obtain ⟨sup, mode, ⟨ceases, others, -⟩, rest⟩ := Part.accept_of_lost deck
    exact ⟨sup, mode, fun _ => congrArg PairRecord.state ceases, nofun, others, rest⟩

/-! ### HEARTBEAT under TOKEN and under ANY (R139, R140) -/

section
variable {p : Part} {tag : Tag} {token : Byte}

theorem Part.heartbeat_of_token (active : p.sup.active = true) (kind : p.bank.supKind = .token) :
    p.heartbeat tag token = p.judgeToken tag token := by
  rw [Part.heartbeat, active, kind]
  rfl

theorem Part.heartbeat_of_any (active : p.sup.active = true) (kind : p.bank.supKind = .any) :
    p.heartbeat tag token = p.ack tag 1 := by
  rw [Part.heartbeat, active, kind]
  rfl

/-- The expected token stands in one bit, the octet of the frame in eight (R139). -/
theorem token_ne_iff {b : BitVec 1} : token ≠ b.setWidth 8 ↔ token.toNat ≠ b.toNat := by
  rw [ne_eq, ← BitVec.toNat_inj, BitVec.toNat_setWidth_of_le (by decide)]

theorem Part.judgeToken_early (early : age p.clock p.sup.lastAccepted < p.bank.windowMin) :
    p.judgeToken tag token = (p.deny tag 1 .early).violation := if_pos early

theorem Part.judgeToken_wrong (time : p.bank.windowMin ≤ age p.clock p.sup.lastAccepted)
    (wrong : token.toNat ≠ p.sup.expected.toNat) : p.judgeToken tag token = (p.deny tag 1 .token).violation := by
  rw [Part.judgeToken, if_neg (Nat.not_lt.2 time), if_pos (token_ne_iff.2 wrong)]
  rfl

theorem Part.judgeToken_passes (time : p.bank.windowMin ≤ age p.clock p.sup.lastAccepted)
    (right : token.toNat = p.sup.expected.toNat) :
    p.judgeToken tag token = ((p.setSup { p.sup with expected := ~~~p.sup.expected }).accept).ack tag 1 := by
  rw [Part.judgeToken, if_neg (Nat.not_lt.2 time), if_neg (token_ne_iff.not.2 (not_not.2 right))]
  rfl

/-- The acceptance under TOKEN is that of R140 with the token flipped (R139). -/
theorem Part.accept_flipped_of_lost (lost : p.sup.deckLost = true) :
    let q := (p.setSup { p.sup with expected := ~~~p.sup.expected }).accept
    q.sup = { p.sup with
        expected := ~~~p.sup.expected, lastAccepted := p.clock, windowStart := p.clock, violations := 0
        deckLost := false }
      ∧ q.mode = { p.mode with heartbeatSinceHold := p.mode.mode.isHold || p.mode.heartbeatSinceHold }
      ∧ p.Ceased q .deck ∧ { q with sup := p.sup, mode := p.mode, mon := p.mon } = p := by
  obtain ⟨sup, mode, ceased, rest⟩ := Part.accept_of_lost
    (p := p.setSup { p.sup with expected := ~~~p.sup.expected }) lost
  exact ⟨sup, mode, ceased, congrArg (Part.setSup p.sup) rest⟩

/-! ### The window (R141) -/

theorem Part.shareWindow_of_idle (idle : p.sup.active = false ∨ age p.clock p.sup.windowStart < p.bank.windowMax) :
    p.shareWindow = p := by
  refine if_neg fun due => ?_
  obtain ⟨active, late⟩ := Bool.and_eq_true_iff.1 due
  rcases idle with idle | short
  · exact nomatch idle.symm.trans active
  · exact Nat.not_le.2 short (of_decide_eq_true late)

theorem Part.shareWindow_of_due (active : p.sup.active = true) (late : p.bank.windowMax ≤ age p.clock p.sup.windowStart)
    (forbears : p.Forbears) : p.shareWindow = p.setSup { p.sup with
      windowStart := p.clock, violations := min (p.sup.violations + 1) 255 } :=
  (if_pos (Bool.and_eq_true_iff.2 ⟨active, decide_eq_true late⟩)).trans (Part.violation_of_forbears forbears)

end

/-- A share that moves SUP alone brings neither the grant of a lease nor quiescence. -/
theorem State.due_sup {s : State} {x : Share} {y : Supervision} (wait : s.part.resetWait ≠ some 0)
    (law : s.part.CommitLaw) (owed : x ∈ s.part.owed) (share : s.part.share x = s.part.setSup y) :
    s.due (Part.rowShare x)
      = .next { s with part := (s.part.setSup y).setOwed (s.part.owed.filter (· ≠ x)) } := by
  have unleased : s.part.leaseSince ((s.part.setSup y).dropShare x) = (s.part.setSup y).dropShare x :=
    Part.leaseSince_keep rfl rfl
  rw [State.due_owed wait owed (by rw [share]; exact law), share, unleased]
  rfl

/-- Settles O26: TOKEN by the time and the token, ANY, then the window's share. -/
theorem heartbeatsAndWindowsJudged : Obligations.HeartbeatsAndWindowsJudged := by
  unfold Obligations.HeartbeatsAndWindowsJudged
  refine ⟨fun s tag token ready active => ⟨fun kind => ?_, fun kind => ?_⟩,
    fun s wait law => ⟨State.due_unowed wait law, fun owed => ⟨fun idle => ?_, fun active late forbears => ?_⟩⟩⟩
  · have judged : s.part.acceptAny.heartbeat tag token = s.part.judgeToken tag token := by
      rw [Part.acceptAny_eq (.inr kind), Part.heartbeat_of_token active kind]
    have violates {r : Reason} (forbears : s.part.Forbears)
        (refused : s.part.judgeToken tag token = (s.part.deny tag 1 r).violation) :
        exec (.heartbeat tag token) s = .next { s with part :=
          { s.part.deny tag 1 r with sup := s.part.struck.sup } } := by
      have answers := judged.trans (refused.trans (Part.deny_violation forbears))
      refine (exec_heartbeat ready answers (Part.setSup_keeps ..)).trans ?_
      rw [Part.struck, Part.reply, Part.emit_setSup]
      rfl
    have accepts (time : s.part.bank.windowMin ≤ age s.part.clock s.part.sup.lastAccepted)
        (right : token.toNat = s.part.sup.expected.toNat) : exec (.heartbeat tag token) s
          = .next { s with part := (
            ((s.part.setSup { s.part.sup with expected := ~~~s.part.sup.expected }).accept).ack tag 1) } :=
      exec_heartbeat ready (judged.trans (Part.judgeToken_passes time right))
        ((Part.setSup_keeps _ _).trans (Part.accept_keeps _))
    refine ⟨fun forbears early => violates forbears (Part.judgeToken_early early),
      fun forbears time wrong => violates forbears (Part.judgeToken_wrong time wrong), fun time right kept => ?_,
      fun time right lost => ⟨_, accepts time right, Part.accept_flipped_of_lost lost⟩⟩
    rw [accepts time right, Part.accept_of_kept]
    · rfl
    · exact kept
  · have still : s.part.acceptAny.sup.active = true := by rwa [Part.acceptAny_of_any active kind, Part.accept_sup]
    have any : s.part.acceptAny.bank.supKind = .any := by rwa [Part.bank, s.part.acceptAny_keeps.cfg]
    exact exec_heartbeat ready (Part.heartbeat_of_any still any) s.part.acceptAny_keeps
  · exact State.due_nothing wait law owed (Part.shareWindow_of_idle idle)
  · exact State.due_sup wait law owed (Part.shareWindow_of_due active late forbears)

/-! ### HEARTBEAT while supervision is inactive (R144, R145) -/

theorem Part.heartbeat_of_inactive {p : Part} {tag : Tag} {token : Byte} (inactive : p.sup.active = false) :
    p.acceptAny.heartbeat tag token = (if p.mode.mode.isStopped then p.endDeckLost else p).ack tag 1 := by
  rw [Part.acceptAny_eq (.inl inactive), Part.heartbeat, inactive]
  rfl

/-- Settles O27: by whether there is a deck lost to end. -/
theorem heartbeatWhileInactive : Obligations.HeartbeatWhileInactive := by
  unfold Obligations.HeartbeatWhileInactive
  intro s tag token ready inactive
  have judged := Part.heartbeat_of_inactive (tag := tag) (token := token) inactive
  refine ⟨fun idle => ?_, fun stopped lost => ?_⟩
  · have none : (if s.part.mode.mode.isStopped then s.part.endDeckLost else s.part) = s.part := by
      rcases idle with runs | kept
      · rw [runs]
        rfl
      · rw [Part.endDeckLost_of_kept kept, ite_self]
    rw [none] at judged
    exact exec_heartbeat ready judged (.refl _)
  · rw [if_pos stopped] at judged
    exact ⟨_, exec_heartbeat ready judged s.part.endDeckLost_keeps, Part.endDeckLost_of_lost lost⟩

end Sys2Proof.Machine
end

section
/-! SUPPORT. The service lease asked for (R147), and the NODESET that it lets through (R149, R170). -/

namespace Sys2Proof.Machine

/-! ### LEASE-ASK (R147) -/

section
variable {p : Part} {tag : Tag}

theorem Part.leaseAsk_busy (away : p.mode.mode ≠ .slip) (leased : p.mode.lease ≠ .none) :
    p.leaseAsk tag = p.deny tag 20 .busy := by
  rw [Part.leaseAsk, if_neg away, Lease.isNone_eq_false.2 leased]
  rfl

theorem Part.leaseAsk_past (away : p.mode.mode ≠ .slip) (free : p.mode.lease = .none) :
    p.leaseAsk tag = if p.grantTest then (p.setLease (.held tag p.clock)).reply tag 20 5 []
      else (p.setLease (.pending tag)).ack tag 20 := by
  rw [Part.leaseAsk, if_neg away, Lease.isNone_iff.2 free]
  rfl

/-- No round in progress and no round command open (R116). -/
theorem Part.leaseAsk_granted (away : p.mode.mode ≠ .slip) (free : p.mode.lease = .none)
    (round : p.mode.roundInProgress = false) (commands : p.mode.roundCommands = 0) :
    p.leaseAsk tag = (p.setLease (.held tag p.clock)).reply tag 20 5 [] := by
  rw [Part.leaseAsk_past away free, Part.grantTest, round, commands]
  rfl

theorem Part.leaseAsk_waits (away : p.mode.mode ≠ .slip) (free : p.mode.lease = .none)
    (busy : p.mode.roundInProgress = true ∨ p.mode.roundCommands ≠ 0) :
    p.leaseAsk tag = (p.setLease (.pending tag)).ack tag 20 := by
  rw [Part.leaseAsk_past away free, Part.grantTest_false.2 busy]
  rfl

end

/-- A LEASE-ASK that is not refused. -/
theorem exec_leaseAsk {s : State} {tag : Tag} {l : Lease} {outcome : Byte} (ready : s.part.Ready)
    (answers : s.part.acceptAny.leaseAsk tag = (s.part.acceptAny.setLease l).reply tag 20 outcome []) :
    exec (.leaseAsk tag) s
      = .next { s with part := (s.part.acceptAny.setLease l).reply tag 20 outcome [] } := by
  refine State.takeRequest_answered ready answers ?_ ?_ s.part.acceptAny_keeps.xt s.part.acceptAny_keeps.cfg
  all_goals rw [Part.setLease, Part.setMode_mode, s.part.acceptAny_keeps.mode]

/-- Settles O34: the two refusals, then the grant test of R116 both ways. -/
theorem leaseAskDecided : Obligations.LeaseAskDecided := by
  unfold Obligations.LeaseAskDecided
  exact fun s tag ready =>
    ⟨fun slip => State.takeRequest_denied ready (if_pos slip),
      fun away leased => State.takeRequest_denied ready (Part.leaseAsk_busy away leased),
      fun away free =>
        ⟨fun round commands => exec_leaseAsk ready (Part.leaseAsk_granted away free round commands),
          fun busy => exec_leaseAsk ready (Part.leaseAsk_waits away free busy)⟩⟩

/-! ### NODESET (R149, R170) -/

theorem onRing_eq_false {a : Byte} : onRing a = false ↔ a.toNat = 0 ∨ 127 < a.toNat := by
  simp only [onRing, Bool.and_eq_false_iff, decide_eq_false_iff_not]
  omega

/-- MODE's and DPORT's checks of a NODESET, one after the other (log 27). -/
theorem Part.nodeset_eq (p : Part) (dest : Byte) (tag : Tag) (payload : List Byte) : p.nodeset dest tag payload =
    if payload = [] then p.refuse dest .nodeset tag .range
    else if dest.toNat = 0 ∨ 127 < dest.toNat then p.refuse dest .nodeset tag .noNode
    else if p.mode.lease.code ≠ 2 then p.refuse dest .nodeset tag .notLeased
    else if 16 ≤ p.passedWaiting then p.refuse dest .nodeset tag .busy
    else p.ringOut true .nodeset dest tag payload := by
  have full : p.passFull = decide (16 ≤ p.passedWaiting) := rfl
  simp only [Part.nodeset, List.isEmpty_iff, ← onRing_eq_false, full, Bool.not_eq_true', decide_eq_true_eq]
  cases p.mode.lease <;> rfl

/-- A NODESET moves neither rounds nor open commands nor the configuration, whatever comes of it. -/
theorem exec_nodeset {s : State} {dest : Byte} {tag : Tag} {payload : List Byte} (ready : s.part.Ready) :
    exec (.nodeset dest tag payload) s = .next { s with part := s.part.nodeset dest tag payload } := by
  have kept : (s.part.nodeset dest tag payload).mode = s.part.mode
      ∧ (s.part.nodeset dest tag payload).xt = s.part.xt ∧ (s.part.nodeset dest tag payload).cfg = s.part.cfg := by
    rw [Part.nodeset_eq]
    split_ifs <;> simp
  obtain ⟨mode, xt, cfg⟩ := kept
  exact State.takeFrame_keep ready (Part.leaseSince_keep (by rw [mode]) (by rw [mode])) (by rw [xt]) (by rw [cfg])

/-- Settles O21: the deck's NODESET check by check, and one that returns from a node or from broadcast. -/
theorem nodesetNeedsLease : Obligations.NodesetNeedsLease := by
  unfold Obligations.NodesetNeedsLease
  refine fun s dest tag payload ready => ⟨?_, fun low high => ?_, fun broadcast => ?_⟩
  · rw [exec_nodeset ready, Part.nodeset_eq]
    rfl
  · have node : isNode dest = true := by simp [isNode, low, high]
    exact State.takeFrame_refused ready (by rw [node]; rfl)
  · have away : isNode dest = false := by simp [isNode, broadcast]
    have consumed : (if isNode dest then s.part.refuse dest .nodeset tag .noNode else s.part) = s.part := by
      rw [away]
      rfl
    refine (State.takeFrame_ready ready).trans ?_
    rw [consumed, Part.finish_self ready.1.2.2]

end Sys2Proof.Machine
end

section
/-! SUPPORT. The fields of a bank: which writes TABLE-WRITE takes (R153, R154, R156), what a write leaves, and the
table sum (R155). -/

namespace Sys2Proof.Machine

/-! ### The values that a field takes (R153, R154) -/

theorem inRange_iff {r : Nat × Nat} {v : Nat} : inRange r v = true ↔ r.1 ≤ v ∧ v ≤ r.2 := by
  simp [inRange]

theorem asFlag_eq_some {v : Nat} {x : Bool} : asFlag v = some x ↔ v = x.toNat := by
  unfold asFlag
  cases x <;> split <;> simp_all

theorem asFlag_isSome {v : Nat} : (asFlag v).isSome = true ↔ v ≤ 1 := by
  rw [Option.isSome_iff_exists, Bool.exists_bool, asFlag_eq_some, asFlag_eq_some]
  exact Nat.le_one_iff_eq_zero_or_eq_one.symm

theorem asNode_val {v : Nat} {x : Addr} (h : asNode v = some x) : x.val = v := by
  unfold asNode at h
  split at h <;> cases h
  rfl

theorem asNode_isSome {v : Nat} : (asNode v).isSome = true ↔ 1 ≤ v ∧ v ≤ 126 := by
  simp [asNode]

theorem asFin_val {n v : Nat} {x : Fin n} (h : asFin n v = some x) : x.val = v := by
  unfold asFin at h
  split at h <;> cases h
  rfl

theorem asFin_isSome {n v : Nat} : (asFin n v).isSome = true ↔ v < n := by
  simp [asFin]

theorem asRange_val {r : Nat × Nat} {v x : Nat} (h : asRange r v = some x) : x = v := by
  unfold asRange at h
  split at h <;> cases h
  rfl

theorem asRange_isSome {r : Nat × Nat} {v : Nat} : (asRange r v).isSome = true ↔ r.1 ≤ v ∧ v ≤ r.2 := by
  simp [asRange, inRange_iff]

theorem profileLimits_getElem? {field : Nat} :
    profileLimits[field]? = if field < 35 then some (profileRange field) else none := by
  split
  next low =>
    have all : ∀ f : Fin 35, profileLimits[f.val]? = some (profileRange f.val) := by decide
    exact all ⟨field, low⟩
  next high => exact List.getElem?_eq_none (Nat.not_lt.1 high)

theorem profileAccepts_iff {field v : Nat} : profileAccepts field v = true ↔
    ((profileRange field).1 ≤ v ∧ v ≤ (profileRange field).2) ∧ ¬(field = 12 ∧ v = 2) := by
  rw [profileAccepts, Bool.and_eq_true, inRange_iff]
  refine and_congr .rfl ?_
  simp [imp_iff_not_or]

/-! ### The writes that are taken (R156) -/

theorem JackEntry.write_isSome {e : JackEntry} {field v : Nat} : (e.write field v).isSome = true ↔
    (field = 0 ∧ v ≤ 1) ∨ (field = 1 ∧ 1 ≤ v ∧ v ≤ 126) ∨ (field = 2 ∧ v ≤ 23) ∨ (field = 3 ∧ v ≤ 7) := by
  rcases field with _ | _ | _ | _ | field
  all_goals simp [JackEntry.write, asFlag_isSome, asNode_isSome, asFin_isSome, Nat.lt_succ_iff]

theorem SectorEntry.write_isSome {e : SectorEntry} {field v : Nat} : (e.write field v).isSome = true ↔
    (field = 0 ∧ 500 ≤ v ∧ v ≤ 20000) ∨ (field = 1 ∧ 150 ≤ v ∧ v ≤ 600) := by
  rcases field with _ | _ | field
  all_goals simp [SectorEntry.write, asRange_isSome, lengthRange, thicknessRange]

theorem MixEntry.write_isSome {e : MixEntry} {field v : Nat} : (e.write field v).isSome = true ↔
    (field = 0 ∧ 600 ≤ v ∧ v ≤ 28800) ∨ (field = 1 ∧ 1800 ≤ v ∧ v ≤ 86400) := by
  rcases field with _ | _ | field
  all_goals simp [MixEntry.write, asRange_isSome]

theorem FeedEntry.write_isSome {e : FeedEntry} {field v : Nat} : (e.write field v).isSome = true ↔
    (field = 0 ∧ v ≤ 1) ∨ (field = 1 ∧ 1 ≤ v ∧ v ≤ 126) ∨ (2 ≤ field ∧ field ≤ 25 ∧ v ≤ 1) := by
  unfold FeedEntry.write
  split_ifs <;> simp [asFlag_isSome, asNode_isSome] <;> omega

/-- A table takes a write where it has the entry and the entry takes it. -/
theorem isSome_dite_map {α β : Type} {i n : Nat} {w : i < n + 1 → Option α} {g : i < n + 1 → α → β} {P : Prop}
    (taken : ∀ low, (w low).isSome = true ↔ P) :
    (if low : i < n + 1 then (w low).map (g low) else none).isSome = true ↔ i ≤ n ∧ P := by
  split
  next low => simp [taken, Nat.lt_succ_iff.1 low]
  next high => simp [Nat.lt_succ_iff.not.1 high]

theorem Bank.write_isSome {b : Bank} {table index field v : Nat} :
    (b.write table index field v).isSome = true ↔ Writable table index field v := by
  unfold Bank.write Writable
  split
  case h_1 =>
    rw [profileLimits_getElem?]
    by_cases low : field < 35
    · by_cases first : index = 0 <;> simp [low, first, profileAccepts_iff]
    · simp [low]
  case h_2 => exact isSome_dite_map fun _ => JackEntry.write_isSome
  case h_3 => exact isSome_dite_map fun _ => SectorEntry.write_isSome
  case h_4 => exact isSome_dite_map fun _ => MixEntry.write_isSome
  case h_5 =>
    by_cases here : index < 8 ∧ field = 0
    · simp [here, asRange_isSome, Nat.lt_succ_iff.1 here.1]
    · exact iff_of_false (by simp [here]) (by omega)
  case h_6 => exact isSome_dite_map fun _ => FeedEntry.write_isSome
  case h_7 => simp

/-! ### One cell overwritten -/

/-- The cell k now holds v, and every other cell holds what it held. -/
def Overwritten {κ : Type} (old new : κ → Option Nat) (k : κ) (v : Nat) : Prop :=
  new k = some v ∧ ∀ l, l ≠ k → new l = old l

theorem JackEntry.write_overwritten {e x : JackEntry} {field v : Nat} (h : e.write field v = some x) :
    Overwritten e.read x.read field v := by
  unfold JackEntry.write at h
  split at h <;> simp only [Option.map_eq_some_iff, reduceCtorEq] at h
  all_goals
    obtain ⟨a, value, rfl⟩ := h
    refine ⟨congrArg some ?_, fun l ne => by unfold JackEntry.read; split <;> trivial⟩
  case h_1 => exact (asFlag_eq_some.1 value).symm
  case h_2 => exact asNode_val value
  case h_3 => exact asFin_val value
  case h_4 => exact asFin_val value

theorem SectorEntry.write_overwritten {e x : SectorEntry} {field v : Nat} (h : e.write field v = some x) :
    Overwritten e.read x.read field v := by
  unfold SectorEntry.write at h
  split at h <;> simp only [Option.map_eq_some_iff, reduceCtorEq] at h
  all_goals
    obtain ⟨a, value, rfl⟩ := h
    exact ⟨congrArg some (asRange_val value), fun l ne => by unfold SectorEntry.read; split <;> trivial⟩

theorem MixEntry.write_overwritten {e x : MixEntry} {field v : Nat} (h : e.write field v = some x) :
    Overwritten e.read x.read field v := by
  unfold MixEntry.write at h
  split at h <;> simp only [Option.map_eq_some_iff, reduceCtorEq] at h
  all_goals
    obtain ⟨a, value, rfl⟩ := h
    exact ⟨congrArg some (asRange_val value), fun l ne => by unfold MixEntry.read; split <;> trivial⟩

theorem FeedEntry.write_overwritten {e x : FeedEntry} {field v : Nat} (h : e.write field v = some x) :
    Overwritten e.read x.read field v := by
  unfold FeedEntry.write at h
  split_ifs at h with enabled node member
  · obtain ⟨a, value, rfl⟩ := Option.map_eq_some_iff.1 h
    subst enabled
    exact ⟨congrArg some (asFlag_eq_some.1 value).symm, fun l ne => by simp [FeedEntry.read, ne]⟩
  · obtain ⟨a, value, rfl⟩ := Option.map_eq_some_iff.1 h
    subst node
    exact ⟨congrArg some (asNode_val value), fun l ne => by simp [FeedEntry.read, ne]⟩
  · obtain ⟨a, value, rfl⟩ := Option.map_eq_some_iff.1 h
    refine ⟨?_, fun l ne => ?_⟩
    · simp [FeedEntry.read, enabled, node, member, asFlag_eq_some.1 value]
    · unfold FeedEntry.read
      split_ifs with zero one
      · rfl
      · rfl
      · rw [Vector.getElem_set_ne _ _ (by omega)]
      · rfl

/-- An entry of a table set: its own cells are as the entry's, and the other entries' cells as they were. -/
theorem Overwritten.entry {α : Type} {n index field v : Nat} {xs : Vector α n} {read : α → Nat → Option Nat} {e : α}
    (low : index < n) (one : Overwritten (read xs[index]) (read e) field v) :
    Overwritten (fun x : Nat × Nat => xs[x.1]?.bind (read · x.2))
      (fun x => (xs.set index e)[x.1]?.bind (read · x.2)) (index, field) v := by
  refine ⟨by simp [one.1], fun ⟨i, f⟩ ne => ?_⟩
  by_cases same : i = index
  · subst same
    have other : f ≠ field := fun h => ne (congrArg _ h)
    simp [low, one.2 f other]
  · simp [Vector.getElem?_set_ne _ (Ne.symm same)]

/-- A write that is taken sets one field of one entry of its table. -/
inductive Bank.Wrote (b : Bank) : (table index field v : Nat) → Bank → Prop
  | profile {field v : Nat} (low : field < 35) : Wrote b 0 0 field v { b with profile := b.profile.set field v }
  | jack {index field v : Nat} {e : JackEntry} (low : index < 96) (entry : b.jacks[index].write field v = some e) :
      Wrote b 1 index field v { b with jacks := b.jacks.set index e }
  | sector {index field v : Nat} {e : SectorEntry} (low : index < 24)
      (entry : b.sectors[index].write field v = some e) :
      Wrote b 2 index field v { b with sectors := b.sectors.set index e }
  | mix {index field v : Nat} {e : MixEntry} (low : index < 8) (entry : b.mixes[index].write field v = some e) :
      Wrote b 3 index field v { b with mixes := b.mixes.set index e }
  | group {index v : Nat} (low : index < 8) : Wrote b 4 index 0 v { b with groups := b.groups.set index v }
  | feed {index field v : Nat} {e : FeedEntry} (low : index < 8) (entry : b.feeds[index].write field v = some e) :
      Wrote b 5 index field v { b with feeds := b.feeds.set index e }

theorem dite_map_eq_some {α β : Type} {p : Prop} [Decidable p] {w : p → Option α} {g : p → α → β} {c : β}
    (h : (if low : p then (w low).map (g low) else none) = some c) : ∃ low e, w low = some e ∧ g low e = c := by
  split at h
  next low => exact ⟨low, Option.map_eq_some_iff.1 h⟩
  next => cases h

theorem Bank.write_wrote {b c : Bank} {table index field v : Nat} (h : b.write table index field v = some c) :
    b.Wrote table index field v c := by
  unfold Bank.write at h
  split at h
  case h_1 =>
    split_ifs at h with here accepted
    obtain ⟨rfl, low⟩ := here
    cases h
    exact .profile low
  case h_2 =>
    obtain ⟨low, e, entry, rfl⟩ := dite_map_eq_some h
    exact .jack low entry
  case h_3 =>
    obtain ⟨low, e, entry, rfl⟩ := dite_map_eq_some h
    exact .sector low entry
  case h_4 =>
    obtain ⟨low, e, entry, rfl⟩ := dite_map_eq_some h
    exact .mix low entry
  case h_5 =>
    obtain ⟨⟨low, rfl⟩, x, value, rfl⟩ := dite_map_eq_some h
    rw [asRange_val value]
    exact .group low
  case h_6 =>
    obtain ⟨low, e, entry, rfl⟩ := dite_map_eq_some h
    exact .feed low entry
  case h_7 => cases h

/-- A write reads back, and every other cell of its table keeps its value (R156, R157). -/
theorem Bank.Wrote.overwritten {b c : Bank} {table index field v : Nat} (h : b.Wrote table index field v c) :
    Overwritten (fun x : Nat × Nat => b.read table x.1 x.2) (fun x => c.read table x.1 x.2) (index, field) v := by
  cases h with
  | profile low =>
    refine ⟨by simp [Bank.read, low], fun ⟨i, f⟩ ne => ?_⟩
    by_cases first : i = 0
    · have other : field ≠ f := fun h => ne (by rw [first, h])
      simp [Bank.read, Vector.getElem?_set_ne _ other]
    · simp [Bank.read, first]
  | jack low entry => exact .entry low (JackEntry.write_overwritten entry)
  | sector low entry => exact .entry low (SectorEntry.write_overwritten entry)
  | mix low entry => exact .entry low (MixEntry.write_overwritten entry)
  | group low =>
    refine ⟨by simp [Bank.read, low], fun ⟨i, f⟩ ne => ?_⟩
    by_cases first : f = 0
    · have other : index ≠ i := fun h => ne (by rw [first, h])
      simp [Bank.read, Vector.getElem?_set_ne _ other]
    · simp [Bank.read, first]
  | feed low entry => exact .entry low (FeedEntry.write_overwritten entry)

/-- The other tables keep every value. -/
theorem Bank.Wrote.read_other {b c : Bank} {table index field v t i f : Nat} (h : b.Wrote table index field v c)
    (other : t ≠ table) : c.read t i f = b.read t i f := by
  cases h
  all_goals
    unfold Bank.read
    split <;> trivial

/-! ### The table sum (R155) -/

theorem sum_map_toList_eq_finRange {α : Type} {n : Nat} (xs : Vector α n) (f : α → Nat) :
    (xs.toList.map f).sum = ((List.finRange n).map fun i => f xs[i]).sum := by
  congr 1
  exact List.ext_getElem (by simp) (by simp)

theorem JackEntry.sum_eq (e : JackEntry) :
    e.sum = (if e.enabled then 1 else 0) + e.node.val + e.sector.val + e.group.val := by
  rw [JackEntry.sum, Bool.toNat, Bool.cond_eq_ite]

theorem FeedEntry.sum_eq (e : FeedEntry) : e.sum = (if e.enabled then 1 else 0) + e.node.val
    + ((List.finRange 24).map fun k => if e.allowed[k] then 1 + k.val else 0).sum := by
  rw [FeedEntry.sum, Bool.toNat, Bool.cond_eq_ite]
  rfl

theorem Bank.total_eq (b : Bank) : b.total = ((List.finRange 35).map fun n => b.profile[n]).sum
    + ((List.finRange 96).map fun j => b.jacks[j].sum).sum
    + ((List.finRange 24).map fun k => b.sectors[k].length + b.sectors[k].thickness).sum
    + ((List.finRange 8).map fun m => b.mixes[m].minExit + b.mixes[m].maxExit).sum
    + ((List.finRange 8).map fun g => b.groups[g]).sum
    + ((List.finRange 8).map fun f => b.feeds[f].sum).sum := by
  have profile := sum_map_toList_eq_finRange b.profile id
  have groups := sum_map_toList_eq_finRange b.groups id
  rw [List.map_id] at profile groups
  simp only [Bank.total, profile, groups, sum_map_toList_eq_finRange]
  rfl

theorem Bank.tableSum_toNat (b : Bank) : b.tableSum.toNat = b.total % 65536 := BitVec.toNat_ofNat _ _

/-! ### What a TABLE-READ finds (R157) -/

theorem Store.read_active {c : Store} {table index field : Nat} (plain : table ≠ 6) :
    c.read 0 table index field = (c.active.read table index field).map octets3 := by
  unfold Store.read
  split <;> trivial

theorem Store.read_shadow {c : Store} {table index field : Nat} (plain : table ≠ 6) :
    c.read 1 table index field = (c.shadow.read table index field).map octets3 := by
  unfold Store.read
  split <;> trivial

theorem Store.read_sum_astray {c : Store} {bank index field : Nat} (astray : index ≠ 0 ∨ field ≠ 0) :
    c.read bank 6 index field = none := by
  unfold Store.read
  split
  case h_1 | h_2 => exact if_neg fun ⟨first, only⟩ => astray.elim (· first) (· only)
  all_goals trivial

theorem Store.read_beyond {c : Store} {bank table index field : Nat} (beyond : 2 ≤ bank) :
    c.read bank table index field = none := by
  unfold Store.read
  split
  case h_5 => rfl
  all_goals omega

end Sys2Proof.Machine
end

section
/-! SUPPORT. The requests TABLE-WRITE, TABLE-READ and SHADOW-LOAD as a ready part takes them (R156 to R158). -/

namespace Sys2Proof.Machine

/-- A request that sets the shadow and is answered ACK ends no round, closes no command and moves no commit. -/
theorem State.takeRequest_setShadow {s : State} {f : Part → Part} {b : Bank} {tag : Tag} {code : Byte}
    (ready : s.part.Ready) (answers : f s.part.acceptAny = (s.part.acceptAny.setShadow b).ack tag code) :
    s.takeRequest f = .next { s with part := (s.part.acceptAny.setShadow b).ack tag code } := by
  rw [← answers]
  refine State.takeRequest_keep ready (Part.leaseSince_keep ?_ ?_) ?_ ?_
  all_goals rw [answers]
  · rw [Part.ack, Part.reply_mode, Part.setShadow_mode, s.part.acceptAny_keeps.mode]
  · rw [Part.ack, Part.reply_mode, Part.setShadow_mode, s.part.acceptAny_keeps.mode]
  all_goals simp

/-! ### SHADOW-LOAD (R158) -/

section
variable {s : State} {tag : Tag}

theorem exec_shadowLoad_busy (ready : s.part.Ready) (pending : s.part.acceptAny.commitPending = true) :
    exec (.shadowLoad tag) s = .next { s with part := s.part.acceptAny.deny tag 7 .busy } :=
  State.takeRequest_denied ready (if_pos pending)

theorem exec_shadowLoad_copies (ready : s.part.Ready) (idle : s.part.acceptAny.commitPending = false) :
    exec (.shadowLoad tag) s
      = .next { s with part := (s.part.acceptAny.setShadow s.part.acceptAny.cfg.active).ack tag 7 } :=
  State.takeRequest_setShadow ready (if_neg (Bool.eq_false_iff.1 idle))

/-- Settles O18: the refusal, the copy, and its sum by SumLaw. -/
theorem shadowLoadCopiesActive : Obligations.ShadowLoadCopiesActive := by
  unfold Obligations.ShadowLoadCopiesActive
  refine fun s tag ready => ⟨exec_shadowLoad_busy ready, exec_shadowLoad_copies ready, fun idle law t next => ?_⟩
  rw [exec_shadowLoad_copies ready idle] at next
  cases next
  have sum : s.part.acceptAny.SumLaw := by rwa [Part.SumLaw, s.part.acceptAny_keeps.cfg]
  simpa using sum.symm

end

/-! ### TABLE-WRITE (R156) -/

section
variable {s : State} {tag : Tag} {table index field : Byte} {value : BitVec 24}

theorem exec_tableWrite_range (ready : s.part.Ready)
    (out : s.part.acceptAny.cfg.shadow.write table.toNat index.toNat field.toNat value.toNat = none) :
    exec (.tableWrite tag table index field value) s = .next { s with part := s.part.acceptAny.deny tag 5 .range } :=
  State.takeRequest_denied ready (by rw [Part.tableWrite, out]; rfl)

theorem exec_tableWrite_busy {b : Bank} (ready : s.part.Ready)
    (taken : s.part.acceptAny.cfg.shadow.write table.toNat index.toNat field.toNat value.toNat = some b)
    (pending : s.part.acceptAny.commitPending = true) :
    exec (.tableWrite tag table index field value) s = .next { s with part := s.part.acceptAny.deny tag 5 .busy } :=
  State.takeRequest_denied ready (by rw [Part.tableWrite, taken]; exact if_pos pending)

theorem exec_tableWrite_writes {b : Bank} (ready : s.part.Ready)
    (taken : s.part.acceptAny.cfg.shadow.write table.toNat index.toNat field.toNat value.toNat = some b)
    (idle : s.part.acceptAny.commitPending = false) :
    exec (.tableWrite tag table index field value) s
      = .next { s with part := (s.part.acceptAny.setShadow b).ack tag 5 } :=
  State.takeRequest_setShadow ready (by rw [Part.tableWrite, taken]; exact if_neg (Bool.eq_false_iff.1 idle))

end

/-! ### TABLE-READ (R157) -/

/-- The answer to a TABLE-READ that finds these octets, or none. -/
def Part.readAnswer (p : Part) (tag : Tag) : Option (List Byte) → Part
  | some d => p.data tag 6 d
  | none => p.deny tag 6 .range

theorem exec_tableRead {s : State} {tag : Tag} {bank table index field : Byte} {found : Option (List Byte)}
    (ready : s.part.Ready)
    (read : s.part.acceptAny.cfg.read bank.toNat table.toNat index.toNat field.toNat = found) :
    exec (.tableRead tag bank table index field) s = .next { s with part := s.part.acceptAny.readAnswer tag found } := by
  have answer : s.part.acceptAny.tableRead tag bank.toNat table.toNat index.toNat field.toNat
      = s.part.acceptAny.readAnswer tag found := by
    rw [Part.tableRead, read]
    cases found <;> rfl
  cases found with
  | none => exact State.takeRequest_denied ready answer
  | some d =>
    have keeps := s.part.acceptAny_keeps
    exact State.takeRequest_answered ready answer (by rw [keeps.mode]) (by rw [keeps.mode]) keeps.xt keeps.cfg

/-- Settles O17: the write's three answers, the ranges, what a write leaves, the sum, and the read's answers. -/
theorem tableFieldsWrittenAndRead : Obligations.TableFieldsWrittenAndRead := by
  unfold Obligations.TableFieldsWrittenAndRead
  refine ⟨fun s tag table index field value ready => ?_, fun b table index field v => Bank.write_isSome,
    fun b c table index field v taken => ?_, fun b => ?_, fun s tag table index field ready => ?_⟩
  · exact ⟨exec_tableWrite_range ready,
      fun b taken => ⟨exec_tableWrite_busy ready taken, exec_tableWrite_writes ready taken⟩⟩
  · have wrote := Bank.write_wrote taken
    obtain ⟨back, others⟩ := wrote.overwritten
    exact ⟨back, fun i f ne => others (i, f) ne, fun t i f other => wrote.read_other other⟩
  · simp only [Bank.tableSum_toNat, Bank.total_eq, JackEntry.sum_eq, FeedEntry.sum_eq]
  · exact ⟨fun plain => ⟨exec_tableRead ready (Store.read_active plain), exec_tableRead ready (Store.read_shadow plain)⟩,
      exec_tableRead ready rfl, exec_tableRead ready rfl,
      fun bank astray => exec_tableRead (found := none) ready (Store.read_sum_astray astray),
      fun bank beyond => exec_tableRead ready (Store.read_beyond beyond)⟩

end Sys2Proof.Machine
end

section
/-! SUPPORT. Frames at the ports: octets read back (R164 to R166), what the deck is sent (R169, R175), frames that leave
(R174, R175), and frames dropped or refused (R165, R166, R170, R172, R176). -/

namespace Sys2Proof

/-! ### Octets (R164 to R166) -/

@[simp] theorem Kind.ofCode_code (k : Kind) : Kind.ofCode k.code = some k := by
  cases k <;> rfl

/-- Octet 3 holds the tag in its low half and the summary in its high half (R164). -/
theorem halves_of_octet3 (summary : BitVec 4) (tag : Tag) :
    (summary ++ tag : Byte).setWidth 4 = tag ∧ ((summary ++ tag : Byte) >>> 4).setWidth 4 = summary :=
  ⟨BitVec.setWidth_append_eq_right,
    BitVec.setWidth_ushiftRight_eq_extractLsb.trans BitVec.extractLsb'_append_eq_left⟩

/-- A length octet holds any payload's length (R164). -/
theorem toNat_lengthOctet {n : Nat} (fits : n ≤ 12) : (BitVec.ofNat 8 n).toNat = n := by
  rw [BitVec.toNat_ofNat, Nat.mod_eq_of_lt (by omega)]

/-- Five octets of header, as many of payload as octet 4 says, and their check: the port reads the frame further. -/
theorem takeOctets_checked {dest source code tagOctet : Byte} {kind : Kind} {payload : List Byte}
    (known : Kind.ofCode code = some kind) (fits : payload.length ≤ 12) :
    let header := [dest, source, code, tagOctet, BitVec.ofNat 8 payload.length]
    takeOctets (header ++ payload ++ be16 (crc (header ++ payload)))
      = .frame ⟨dest, source, kind, tagOctet.setWidth 4, (tagOctet >>> 4).setWidth 4, payload⟩ := by
  have two (w : BitVec 16) : (be16 w).length = 2 := rfl
  simp [takeOctets, toNat_lengthOctet fits, fits, two, known]

/-- Settles O10: what the port reads of the header and payload is what the frame's octets were made of. -/
theorem frameOctetsRoundTrip : Obligations.FrameOctetsRoundTrip := by
  unfold Obligations.FrameOctetsRoundTrip
  intro f fits
  have read := takeOctets_checked (dest := f.dest) (source := f.source) (tagOctet := f.summary ++ f.tag)
    f.kind.ofCode_code fits
  obtain ⟨tag, summary⟩ := halves_of_octet3 f.summary f.tag
  rwa [tag, summary] at read

end Sys2Proof

namespace Sys2Proof.Machine

/-! ### The summary (R169) -/

theorem ClimbMode.code_le (m : ClimbMode) : m.code ≤ 3 := by
  cases m <;> simp [ClimbMode.code]

/-- Mode, ALERT and NOTICE each have bits of their own in the summary (R169). -/
theorem Part.summary_toNat (p : Part) :
    p.summary.toNat = p.mode.mode.code + (if p.mon.alert then 4 else 0) + (if p.mon.events = 0 then 0 else 8) := by
  have code := p.mode.mode.code_le
  have notice : flagBit p.notice 3 = if p.mon.events = 0 then 0 else 8 := by
    simp [flagBit, Part.notice]
  have alert : flagBit p.mon.alert 2 = if p.mon.alert then 4 else 0 := rfl
  rw [Part.summary, alert, notice, BitVec.toNat_ofNat, Nat.mod_eq_of_lt]
  split <;> split <;> omega

/-- Settles O11: with room, with 256 waiting, and the summary's bits. -/
theorem framesToDeckAreStamped : Obligations.FramesToDeckAreStamped := by
  unfold Obligations.FramesToDeckAreStamped
  exact fun p kind source tag payload =>
    ⟨fun room => p.emit_room room, fun full => p.emit_full (Nat.not_lt.2 full), p.summary_toNat⟩

/-! ### Frames that leave (R174, R175) -/

/-- A command that moves neither rounds nor open commands nor the configuration. -/
theorem State.act_keep {s : State} {f : Part → Part} {p : Part} (settled : s.part.Settled) (leaves : f s.part = p)
    (mode : p.mode = s.part.mode) (xt : p.xt = s.part.xt) (cfg : p.cfg = s.part.cfg) :
    s.act f = .next { s with part := p } := by
  rw [State.act_settled settled, leaves, Part.finish_keep settled.2.2 mode xt cfg]

/-- With no RESET request waiting, a frame that leaves for the deck brings no ACK nearer (R183). -/
theorem Part.sendDeck_ready {p : Part} (ready : p.Ready) : p.sendDeck = { p with sendQueue := p.sendQueue.tail } := by
  obtain ⟨⟨_, unasked, _⟩, line⟩ := ready
  have waits : p.resetWait.map (· - 1) = p.resetWait := by rw [unasked]; rfl
  rw [Part.sendDeck, if_neg (by simp [line]), waits]
  cases queue : p.sendQueue with
  | nil =>
    show p = { p with sendQueue := [] }
    rw [← queue]
  | cons f rest => rfl

theorem Part.sendRing_ready {p : Part} (ready : p.Ready) : p.sendRing = { p with ringQueue := p.ringQueue.tail } := by
  rw [Part.sendRing, if_neg (by simp [ready.2])]

/-- Settles O12: the deck link, then the climb ring. -/
theorem portsSendOldestFirst : Obligations.PortsSendOldestFirst := by
  unfold Obligations.PortsSendOldestFirst
  exact fun s ready => ⟨State.act_keep ready.1 (Part.sendDeck_ready ready) rfl rfl rfl,
    State.act_keep ready.1 (Part.sendRing_ready ready) rfl rfl rfl⟩

/-! ### Frames dropped or refused (R165, R166, R170, R172, R176) -/

/-- A frame that raises an event and has no other effect. -/
theorem State.takeFrame_raises {s : State} (e : EventKind) (ready : s.part.Ready) :
    s.takeFrame (Part.raise e) = .next { s with part := s.part.raise e } :=
  State.takeFrame_keep ready (Part.leaseSince_keep rfl rfl) rfl rfl

/-- A frame answered REPLY REFUSED that counts for no heartbeat. -/
theorem State.takeFrame_denied {s : State} (tag : Tag) (code : Byte) (r : Reason) (ready : s.part.Ready) :
    s.takeFrame (Part.deny tag code r) = .next { s with part := s.part.deny tag code r } := by
  refine State.takeFrame_keep ready (Part.leaseSince_keep ?_ ?_) ?_ ?_ <;> simp

/-- A CONTROL with its one argument (log 18). -/
theorem isControl_iff {payload : List Byte} : isControl payload = true ↔ ∃ arg, payload = [9, arg] := by
  unfold isControl
  split <;> simp_all [codeControl]

/-- An MGMT whose payload is no request. -/
theorem exec_mgmtBadRequest {s : State} {tag : Tag} {payload : List Byte} (ready : s.part.Ready)
    (other : ∀ arg, payload ≠ [9, arg]) :
    exec (.mgmtBadRequest tag payload) s
      = .next { s with part := s.part.deny tag (payload.headD 0) .badRequest } := by
  have notControl : ¬ isControl payload = true := fun is => (isControl_iff.1 is).elim other
  exact (if_neg notControl).trans (State.takeFrame_denied tag _ _ ready)

/-- A CONTROL whose argument names nothing (6.2, log 18). -/
theorem exec_mgmtBadRequest_control {s : State} {tag : Tag} {arg : Byte} (ready : s.part.Ready) :
    exec (.mgmtBadRequest tag [9, arg]) s = .next { s with part := s.part.acceptAny.deny tag 9 .range } :=
  State.takeRequest_denied ready rfl

/-- Settles O13: what is dropped, then the wrong kind, the payload that is no request, and the CONTROL out of range. -/
theorem unreadableFramesRefused : Obligations.UnreadableFramesRefused := by
  unfold Obligations.UnreadableFramesRefused
  refine ⟨fun s port code source dest kind length ready => ?_, fun s dest kind tag payload ready =>
    ⟨State.takeFrame_refused ready rfl, exec_mgmtBadRequest ready, ?_⟩⟩
  · have dropped := State.takeFrame_raises .linkerr ready
    exact ⟨dropped, dropped, dropped⟩
  · rintro arg rfl
    exact exec_mgmtBadRequest_control ready

end Sys2Proof.Machine
end

section
/-! SUPPORT. What a part that owes nothing does while it is held in reset or an accepted RESET waits for its ACK to leave
(R182, R183, log 23). -/

namespace Sys2Proof.Machine

/-! ### Nothing owed -/

section
variable {p : Part} {s : State} {f : Part → Part}

theorem Part.settle_unowed (owed : p.owed = []) (due : p.resetWait ≠ some 0) : p.settle = p := by
  rw [Part.settle, Part.resetIfDue_eq due]
  exact Part.takeShares_eq _ fun x _ owes => by simp [owed] at owes

theorem State.act_unowed (owed : s.part.owed = []) (due : s.part.resetWait ≠ some 0) :
    s.act f = .next { s with part := s.part.finish (f s.part) } := by
  rw [State.act, Part.settle_unowed owed due]

/-- An event that leaves a settled part as it was is no event. -/
theorem State.act_self (settled : s.part.Settled) (same : f s.part = s.part) : s.act f = .next s :=
  State.act_keep settled same rfl rfl rfl

end

/-! ### Frames that come to a port (R182, R183) -/

theorem exec_mgmtBadRequest_takeFrame (tag : Tag) (payload : List Byte) :
    ∃ f, ∀ s, exec (.mgmtBadRequest tag payload) s = s.takeFrame f := by
  cases control : isControl payload
  · exact ⟨_, fun s => if_neg (Bool.eq_false_iff.1 control)⟩
  · exact ⟨_, fun s => if_pos control⟩

/-- Every row that brings a frame takes it at a port. -/
theorem exec_frameRow {i : Instr} (row : frameRow i = true) : ∃ f, ∀ s, exec i s = s.takeFrame f := by
  cases i
  case mgmtBadRequest tag payload => exact exec_mgmtBadRequest_takeFrame tag payload
  case deckSend | ringOutSend | slipClockAdvance | stopInAssert | stopInRelease | powerOn | resetLineAssert
      | resetLineRelease | resetAfterAck | deferredEntryExpiry | subTransactionTimeout | resendDue | creepTimerExpiry
      | leaseLimit | windowExpiry | commitWaitCancel | deglitchExpiry | resumeBlankingEnd =>
    nomatch row
  all_goals exact ⟨_, fun s => rfl⟩

/-- A frame that comes while an accepted RESET waits is not taken. -/
theorem exec_frameRow_awaiting {i : Instr} {s : State} {n : Nat} (row : frameRow i = true) (owed : s.part.owed = [])
    (law : s.part.CommitLaw) (waits : s.part.resetWait = some (n + 1)) : exec i s = .next s := by
  obtain ⟨f, taken⟩ := exec_frameRow row
  have shut : Part.ifTaking f s.part = s.part := by simp [Part.ifTaking, Part.takesFrames, waits]
  rw [taken, State.takeFrame, State.act_unowed owed (by simp [waits]), shut, Part.finish_self law]

/-- Held in reset, the part takes no frame and sends none, and its clock stands. -/
theorem exec_portOrTimeRow_held {i : Instr} {s : State} (row : portOrTimeRow i = true) (settled : s.part.Settled)
    (owed : s.part.owed = []) (held : s.part.resetLine = true) : exec i s = .next s := by
  by_cases frame : frameRow i = true
  · obtain ⟨f, taken⟩ := exec_frameRow frame
    rw [taken, State.takeFrame_shut settled held]
  cases i
  case deckSend => exact State.act_self settled (if_pos held)
  case ringOutSend => exact State.act_self settled (if_pos held)
  case slipClockAdvance =>
    have stands : s.part.advance = s.part := if_pos held
    refine (State.endSecond_settled settled owed).trans ?_
    rw [stands, Part.finish_self settled.2.2]
  all_goals exact absurd row frame

end Sys2Proof.Machine
end

section
/-! SUPPORT. The release of a reset (R181 to R183): with STOP IN released the part is up at its reset values, and with it
asserted the part is up STOPPED out of SETUP (R105, R123). -/

namespace Sys2Proof.Machine

/-! ### The release event at each level of STOP IN -/

section
variable {p q : Part}

/-- The reset values, with the cause of the reset and the part's own order. -/
def upSetup (cause : ResetCause) (order : Order) : Part :=
  { State.reset.part with resetCause := cause, order := order }

/-- The release event with STOP IN released sends the STILL, and releases STOP OUT (R181). -/
theorem Part.releaseEvent_low (low : p.stopIn = false) :
    p.releaseEvent = { p with stopOut := false, ringQueue := p.ringQueue ++ [broadcastStill] } := by
  rw [Part.releaseEvent, low]
  rfl

/-- The release event with STOP IN asserted: STOPIN is judged, STOP OUT asserted and the STILL sent (R181). -/
theorem Part.releaseEvent_high (high : p.stopIn = true) : p.releaseEvent
    = ({ p with stopOut := true, ringQueue := p.ringQueue ++ [broadcastStill] } : Part).judge .stopin true := by
  rw [Part.releaseEvent, high]
  rfl

theorem Part.releaseEvent_reset_low (cause : ResetCause) (free : p.resetLine = false) (low : p.stopIn = false) :
    (p.resetEvent cause).releaseEvent = upSetup cause p.order := by
  rw [Part.releaseEvent_low (p := p.resetEvent cause) low]
  simp only [Part.resetEvent, free, low]
  rfl

theorem finish_upSetup (cause : ResetCause) (order : Order) : q.finish (upSetup cause order) = upSetup cause order :=
  Part.finish_bare rfl rfl

/-! ### STOP IN asserted: a ring stop of a deck at rest (R105) -/

theorem Part.follow_absent {x : Pair} (absent : (p.pair x).state = .notPresent) : p.follow x false = p := by
  rw [Part.follow, absent]
  rfl

theorem Part.unstarved_absent (absent : ∀ k, (p.pair (.starve k)).state = .notPresent) : p.unstarved = p := by
  unfold Part.unstarved
  generalize sectorIds = l
  induction l with
  | nil => rfl
  | cons k l ih => rw [List.foldl_cons, Part.follow_absent (absent k), ih]

/-- A deck without spread and without STARVE: MON told of STOPPED ends blanking and brings ALERT up to date, no more. -/
theorem Part.toldOfStopped_level (starve : ∀ k, (p.pair (.starve k)).state = .notPresent)
    (spread : (p.pair .spread).state = .notPresent) (level : p.spread = 0) :
    p.toldOfStopped = p.endBlanking.updateAlert := by
  have same : p.endBlanking.updateAlert.unstarved = p.endBlanking.updateAlert := Part.unstarved_absent starve
  have flat : p.endBlanking.updateAlert.spread = 0 := level
  have low : p.endBlanking.updateAlert.spreadInput = false := by simp [Part.spreadInput, flat]
  have absent : (p.endBlanking.updateAlert.pair .spread).state = .notPresent := spread
  rw [Part.toldOfStopped_eq, same]
  generalize p.endBlanking.updateAlert = t at *
  rw [spreadJudging, judging, low]
  exact Part.follow_absent absent

/-- With no command open nothing closes at a stop out of SETUP (R78, R79). -/
theorem Part.stopClosed_unopened (setup : p.mode.mode = .setup) (unopened : p.xt.table = []) :
    p.stopClosed = p.setMode p.stoppedRecord := by
  have away : ¬ p.mode.mode = .slip := by rw [setup]; nofun
  rw [Part.stopClosed, Part.stopFlushed, if_neg away]
  unfold Part.markAll Part.closeAllStopped
  simp only [Part.setTable_xt, Part.setMode_xt, unopened]
  show (p.setMode p.stoppedRecord).setTable [] = _
  rw [← unopened]
  rfl

/-- A ring stop of a deck at rest in SETUP. -/
theorem Part.enterStopped_rest (setup : p.mode.mode = .setup) (unopened : p.xt.table = [])
    (round : p.mode.roundInProgress = false) (starve : ∀ k, (p.pair (.starve k)).state = .notPresent)
    (spread : (p.pair .spread).state = .notPresent) (level : p.spread = 0) :
    p.enterStopped = { p with
      mode := p.stoppedRecord
      ringQueue := p.ringQueue ++ [broadcastStill]
      stopOut := true
      sup := { p.sup with active := false }
      mon := { p.mon with blanking := none, alert := true } } := by
  have runs : p.mode.mode.isStopped = false := by rw [setup]; rfl
  have told : p.stopTold = { (p.setMode p.stoppedRecord).ringOut false .still 127 0 [] with stopOut := true } := by
    rw [Part.stopTold, Part.stopClosed_unopened setup unopened]
    refine if_neg ?_
    show ¬ (p.mode.roundInProgress && _ && _) = true
    rw [round]
    nofun
  have quiet : p.stopTold.toldOfStopped = p.stopTold.endBlanking.updateAlert := by
    rw [told]
    exact Part.toldOfStopped_level starve spread level
  rw [Part.enterStopped_eq runs, quiet, told]
  rfl

/-- What MON notes in an empty log of an assertion under RING (R131). -/
theorem Part.noteAssertion_first {x : Pair} (ring : p.bank.condMode x = .ring) (d : Option JackId) (log : p.mon.log = []) :
    (p.noteAssertion x d).mon.log = [⟨x, .ring, d, p.clock, p.clock, 1, true⟩]
      ∧ (p.noteAssertion x d).mon.events = p.mon.events := by
  unfold Part.noteAssertion
  rw [ring]
  unfold Part.logAssertion
  simp [log, logRoom, Config.maxLog, Part.addRingCause]

/-! ### STOP IN asserted at the release (R181 to R183) -/

theorem reset_spread : State.reset.part.spread = 0 := by
  simp [Part.spread, Part.lowestActive, reset_activePositions]

/-- The part t is up STOPPED out of SETUP, after a reset with this cause. -/
structure UpStopped (cause : ResetCause) (order : Order) (t : Part) : Prop where
  mode : t.mode = { State.reset.part.mode with mode := .stopped .setup }
  stopOut : t.stopOut = true
  alert : t.mon.alert = true
  events : t.mon.events = 1
  blanking : t.mon.blanking = none
  pair : ∀ q, t.pair q = if q = .stopin then ⟨.present .ring, false, true⟩ else ⟨.notPresent, false, false⟩
  log : t.mon.log = [⟨.stopin, .ring, none, 86400, 86400, 1, true⟩]
  ring : t.ringQueue = [broadcastStill, broadcastStill]
  rest : { t with
      mode := State.reset.part.mode, mon := State.reset.part.mon, ringQueue := State.reset.part.ringQueue
      stopIn := false, stopOut := false } = upSetup cause order

/-- Nothing is pending in such a part at the end of the event. -/
theorem UpStopped.finish {cause : ResetCause} {order : Order} {t : Part} (up : UpStopped cause order t) :
    q.finish t = t := by
  have cfg : t.cfg = resetStore := congrArg Part.cfg up.rest
  exact Part.finish_bare (by rw [up.mode]; rfl) (by rw [cfg]; rfl)

/-- The part in its release event, STOP OUT asserted and the STILL sent, as STOP IN is sampled. -/
def Part.sampling (p : Part) (cause : ResetCause) : Part :=
  { p.resetEvent cause with stopOut := true, ringQueue := [broadcastStill] }

theorem Part.sampling_pair (cause : ResetCause) (x : Pair) : (p.sampling cause).pair x = ⟨.notPresent, false, false⟩ :=
  reset_pair x

/-- STOPIN asserts, and the ring stops (R123, R129, R181). -/
theorem Part.releaseEvent_reset_asserts (cause : ResetCause) (high : p.stopIn = true) :
    (p.resetEvent cause).releaseEvent = ((p.sampling cause).noteAssertion .stopin none).enterStopped := by
  have released : (p.resetEvent cause).releaseEvent = (p.sampling cause).judge .stopin true :=
    Part.releaseEvent_high (p := p.resetEvent cause) high
  rw [released, Part.judge_asserts (by rw [Part.sampling_pair]) rfl, Part.assertPair_ringWide rfl rfl]

theorem Part.releaseEvent_reset_high (cause : ResetCause) (free : p.resetLine = false) (high : p.stopIn = true) :
    UpStopped cause p.order (p.resetEvent cause).releaseEvent := by
  have only := ((p.sampling cause).noteAssertion_only .stopin none).1
  have pair := (p.sampling cause).noteAssertion_pair .stopin none
  obtain ⟨log, events⟩ := Part.noteAssertion_first (p := p.sampling cause) (x := .stopin) rfl none rfl
  rw [Part.releaseEvent_reset_asserts cause high]
  generalize (p.sampling cause).noteAssertion .stopin none = t at *
  have others : ∀ x, x ≠ .stopin → (t.pair x).state = .notPresent := fun x away => by
    rw [pair, if_neg away, Part.sampling_pair]
  have kept : t.mode = resetMode ∧ t.xt.table = [] ∧ t.spread = 0 ∧ t.ringQueue = [broadcastStill] := by
    rw [only]
    exact ⟨rfl, rfl, reset_spread, rfl⟩
  obtain ⟨mode, unopened, level, ring⟩ := kept
  rw [Part.enterStopped_rest (by rw [mode]; rfl) unopened (by rw [mode]; rfl) (fun k => others _ nofun) (others _ nofun)
    level]
  refine ⟨by rw [Part.stoppedRecord, mode]; rfl, rfl, rfl, events, rfl, fun x => ?_, log, by rw [ring]; rfl, ?_⟩
  · refine (pair x).trans ?_
    rw [Part.sampling_pair, Part.sampling_pair]
    rfl
  · rw [only]
    simp only [Part.sampling, Part.resetEvent, free]
    rfl

end

end Sys2Proof.Machine
end

section
/-! SUPPORT. Power, the RESET line and the RESET request: how each takes its reset (R181 to R183). -/

namespace Sys2Proof.Machine

section
variable {p : Part} {s : State} {cause : ResetCause} {order : Order}

/-! ### The release of a reset, as one event -/

theorem Part.powerUp_free (free : p.resetLine = false) : p.powerUp = (p.resetEvent .power).releaseEvent := by
  have released : (p.resetEvent .power).resetLine = false := free
  rw [Part.powerUp, released]
  rfl

theorem Part.powerUp_held (held : p.resetLine = true) : p.powerUp = p.heldIn .power := by
  rw [Part.powerUp]
  simp only [Part.resetEvent, held]
  rfl

/-- By the law of a held part the RESET line's release finds the reset values (R182). -/
theorem Part.releaseReset_held (law : p.HeldLaw) (held : p.resetLine = true) :
    p.releaseReset = (({ p with resetLine := false } : Part).resetEvent p.resetCause).releaseEvent := by
  obtain ⟨c, here⟩ := law held
  have cause : p.resetCause = c := congrArg Part.resetCause here
  have values : ({ p with resetLine := false } : Part)
      = ({ p with resetLine := false } : Part).resetEvent p.resetCause := by
    rw [cause]
    conv_lhs => rw [here]
    rfl
  rw [Part.releaseReset, if_pos held]
  exact congrArg Part.releaseEvent values

theorem State.act_upSetup {f : Part → Part} (settled : s.part.Settled) (comes : f s.part = upSetup cause s.part.order) :
    s.act f = .next { s with part := upSetup cause s.part.order } := by
  rw [State.act_settled settled, comes, finish_upSetup]

theorem State.act_heldUp {f : Part → Part} (settled : s.part.Settled) (comes : f s.part = s.part.heldIn cause) :
    s.act f = .next { s with part := s.part.heldIn cause } := by
  rw [State.act_settled settled, comes, Part.finish_heldIn]

theorem State.act_upStopped {f : Part → Part} (settled : s.part.Settled) (up : UpStopped cause order (f s.part)) :
    s.act f = .next { s with part := f s.part } := by
  rw [State.act_settled settled, up.finish]

/-! ### The reset of a RESET request (R183) -/

theorem exec_resetAfterAck_due (due : s.part.resetWait = some 0) :
    exec .resetAfterAck s = .next { s with part := s.part.requestReset.finish s.part.requestReset } := by
  have reset : s.part.resetIfDue = s.part.requestReset := if_pos due
  rw [← reset]
  rfl

theorem exec_reset (tag : Tag) (ready : s.part.Ready) : exec (.reset tag) s
    = .next { s with part := s.part.acceptAny.finish (s.part.acceptAny.askReset tag) } := by
  rw [← Part.finish_acceptAny]
  exact State.takeRequest_ready ready

theorem Part.askReset_past {tag : Tag} (slip : p.mode.mode ≠ .slip) (hold : p.mode.mode.isHold = false) :
    p.askReset tag = if p.sendQueue.length < 256 then
      { p.ack tag codeReset with resetWait := some (p.sendQueue.length + 1) } else p.requestReset :=
  if_neg (not_or.2 ⟨slip, Bool.eq_false_iff.1 hold⟩)

/-- The ACK takes its place in the send queue. -/
theorem Part.askReset_waits {tag : Tag} (slip : p.mode.mode ≠ .slip) (hold : p.mode.mode.isHold = false)
    (room : p.sendQueue.length < 256) : p.askReset tag = { p with
      sendQueue := p.sendQueue ++ [⟨0, 0, .reply, tag, p.summary, [22, 0]⟩]
      resetWait := some (p.sendQueue.length + 1) } := by
  have acked : p.ack tag codeReset = _ := p.emit_room room
  rw [Part.askReset_past slip hold, if_pos room, acked]
  rfl

/-- The ACK is discarded. -/
theorem Part.askReset_full {tag : Tag} (slip : p.mode.mode ≠ .slip) (hold : p.mode.mode.isHold = false)
    (full : 256 ≤ p.sendQueue.length) : p.askReset tag = p.requestReset := by
  rw [Part.askReset_past slip hold, if_neg (Nat.not_lt.2 full)]

end

/-- Settles O5: the reset event and the release event, or the reset event alone. -/
theorem powerOnResets : Obligations.PowerOnResets := by
  unfold Obligations.PowerOnResets
  refine fun s settled => ⟨fun free low => ?_, fun held => State.act_heldUp settled (Part.powerUp_held held)⟩
  exact State.act_upSetup settled ((Part.powerUp_free free).trans (Part.releaseEvent_reset_low .power free low))

/-- Settles O6: the assertion, the release, and the rows that a held line keeps from any effect. -/
theorem resetLineResets : Obligations.ResetLineResets := by
  unfold Obligations.ResetLineResets
  refine ⟨fun s settled free => State.act_heldUp settled (Part.holdReset_eq free), fun s settled held low => ?_,
    fun c s row settled owed held => exec_portOrTimeRow_held row settled owed held⟩
  have released : s.part.releaseReset = { s.part with
      resetLine := false, stopOut := false, ringQueue := s.part.ringQueue ++ [broadcastStill] } :=
    (if_pos held).trans (Part.releaseEvent_low (p := { s.part with resetLine := false }) low)
  exact State.act_keep settled released rfl rfl rfl

/-- Settles O7: the four releases, each of the reset values with STOP IN asserted. -/
theorem stopInAtReleaseStops : Obligations.StopInAtReleaseStops := by
  unfold Obligations.StopInAtReleaseStops
  intro up
  have whole : ∀ {s : State} {cause : ResetCause} {r : Host.Outcome State Fault Refusal} {t : Part},
      r = .next { s with part := t } → UpStopped cause s.part.order t → up s cause r := fun taken stopped =>
    ⟨_, taken, stopped.mode, stopped.stopOut, stopped.alert, stopped.events, stopped.blanking, stopped.pair, stopped.log,
      stopped.ring, stopped.rest⟩
  refine ⟨fun s settled free high => ?_, fun s settled law held high => ?_, fun s free due high => ?_,
    fun s tag ready slip hold full high => ?_⟩
  · have stopped := Part.releaseEvent_reset_high .power free high
    rw [← Part.powerUp_free free] at stopped
    exact whole (State.act_upStopped settled stopped) stopped
  · have stopped : UpStopped s.part.resetCause s.part.order s.part.releaseReset := by
      rw [Part.releaseReset_held law held]
      exact Part.releaseEvent_reset_high (p := { s.part with resetLine := false }) s.part.resetCause rfl high
    exact whole (State.act_upStopped settled stopped) stopped
  · have stopped : UpStopped .request s.part.order s.part.requestReset := Part.releaseEvent_reset_high .request free high
    refine whole (exec_resetAfterAck_due due) ?_
    rwa [stopped.finish]
  · have keeps := s.part.acceptAny_keeps
    have free : s.part.acceptAny.resetLine = false := keeps.resetLine.trans ready.2
    have stopped : UpStopped .request s.part.acceptAny.order s.part.acceptAny.requestReset :=
      Part.releaseEvent_reset_high .request free high
    have taken := exec_reset tag ready
    rw [Part.askReset_full slip hold full, stopped.finish] at taken
    rw [keeps.order] at stopped
    exact whole taken stopped

/-- Settles O8: the refusal, the ACK that waits and the ACK discarded; then the frames that find an ACK waiting. -/
theorem resetRequestDecided : Obligations.ResetRequestDecided := by
  unfold Obligations.ResetRequestDecided
  refine ⟨fun s tag ready => ⟨fun no => State.takeRequest_denied ready (if_pos no), fun slip hold => ⟨fun room => ?_,
    fun full low => ?_⟩⟩, fun i s n row _ owed law waits => exec_frameRow_awaiting row owed law waits⟩
  · have waits := Part.askReset_waits (tag := tag) slip hold room
    have kept : s.part.acceptAny.finish (s.part.acceptAny.askReset tag) = s.part.acceptAny.askReset tag :=
      Part.finish_keep (Part.acceptAny_commitLaw ready.1.2.2) (by rw [waits]) (by rw [waits]) (by rw [waits])
    rw [exec_reset tag ready, kept, waits]
  · have free : s.part.acceptAny.resetLine = false := s.part.acceptAny_keeps.resetLine.trans ready.2
    have up : s.part.acceptAny.requestReset = _ := Part.releaseEvent_reset_low .request free low
    rw [exec_reset tag ready, Part.askReset_full slip hold full, up, finish_upSetup]
    rfl

/-- Settles O9: a frame leaves, then the reset that is due, or none that is. -/
theorem resetFollowsItsAck : Obligations.ResetFollowsItsAck := by
  unfold Obligations.ResetFollowsItsAck
  refine fun s free law => ⟨fun n f rest owed waits queue => ?_, fun due low => ?_, fun due => ?_⟩
  · have sent : s.part.sendDeck = { s.part with sendQueue := rest, resetWait := some n } := by
      rw [Part.sendDeck, if_neg (Bool.eq_false_iff.1 free), queue, waits]
      rfl
    have kept : s.part.finish s.part.sendDeck = s.part.sendDeck :=
      Part.finish_keep law (by rw [sent]) (by rw [sent]) (by rw [sent])
    refine (State.act_unowed owed (by simp [waits])).trans ?_
    rw [kept, sent]
  · have up : s.part.requestReset = _ := Part.releaseEvent_reset_low .request free low
    rw [exec_resetAfterAck_due due, up, finish_upSetup]
    rfl
  · refine (State.due_settled due).trans ?_
    rw [id, Part.finish_self law]

end Sys2Proof.Machine
end

section
/-! SUPPORT. Requests that read the part, and change no more of it than a read of the event set does (R38, R39, R133, R136,
R178 to R180). -/

namespace Sys2Proof.Machine

/-- A request answered DATA that changes nothing else. -/
theorem State.takeRequest_data {s : State} {f : Part → Part} {tag : Tag} {code : Byte} {bytes : List Byte}
    (ready : s.part.Ready) (answers : f s.part.acceptAny = s.part.acceptAny.data tag code bytes) :
    s.takeRequest f = .next { s with part := s.part.acceptAny.data tag code bytes } := by
  have keeps := s.part.acceptAny_keeps
  exact State.takeRequest_answered ready answers (by rw [keeps.mode]) (by rw [keeps.mode]) keeps.xt keeps.cfg

/-! ### IDENT and STATUS (R178, R180) -/

/-- Settles O15. -/
theorem identAnswersIdentity : Obligations.IdentAnswersIdentity := by
  unfold Obligations.IdentAnswersIdentity
  exact fun s tag ready => State.takeRequest_data ready rfl

/-- The event set moves no round (R136). -/
theorem exec_status_page0 {s : State} {tag : Tag} {page : Byte} (ready : s.part.Ready) (zero : page.toNat = 0) :
    exec (.status tag page) s
      = .next { s with part := s.part.acceptAny.emptyEvents.data tag 2 s.part.acceptAny.statusPage0 } := by
  have keeps := s.part.acceptAny_keeps
  have answers : s.part.acceptAny.status tag page
      = s.part.acceptAny.emptyEvents.data tag 2 s.part.acceptAny.statusPage0 := by
    rw [Part.status, zero]
    rfl
  have mode : s.part.acceptAny.emptyEvents.mode = _ := keeps.mode
  exact State.takeRequest_answered ready answers (by rw [mode]) (by rw [mode]) keeps.xt keeps.cfg

/-- Settles O14: page by page. -/
theorem statusPagesReadThePart : Obligations.StatusPagesReadThePart := by
  unfold Obligations.StatusPagesReadThePart
  intro s tag page ready
  dsimp only
  match number : page.toNat with
  | 0 => exact exec_status_page0 ready number
  | 1 | 2 | 3 =>
    refine State.takeRequest_data ready ?_
    rw [Part.status, number]
    rfl
  | n + 4 =>
    refine State.takeRequest_denied ready ?_
    rw [Part.status, number]
    rfl

/-! ### JACK-READ, SECTOR-READ, LAYER-READ and FAULTS (R38, R39, R133, R179) -/

section
variable {s : State} {tag : Tag} {jack sector n index : Byte}

theorem exec_jackRead (ready : s.part.Ready) (inside : jack.toNat < 96) : exec (.jackRead tag jack) s
    = .next { s with part := s.part.acceptAny.data tag 16 (s.part.acceptAny.jackData ⟨jack.toNat, inside⟩) } := by
  change execJackRead tag jack s = _
  rw [execJackRead, indexOf_of_lt inside]
  exact State.takeRequest_data ready rfl

theorem exec_jackRead_range (ready : s.part.Ready) (outside : 96 ≤ jack.toNat) :
    exec (.jackRead tag jack) s = .next { s with part := s.part.acceptAny.deny tag 16 .range } := by
  change execJackRead tag jack s = _
  rw [execJackRead, indexOf_of_le outside]
  exact State.takeRequest_denied ready rfl

theorem exec_sectorRead (ready : s.part.Ready) (inside : sector.toNat < 24) : exec (.sectorRead tag sector) s
    = .next { s with part := s.part.acceptAny.data tag 17 (s.part.acceptAny.sectorData ⟨sector.toNat, inside⟩) } := by
  change execSectorRead tag sector s = _
  rw [execSectorRead, indexOf_of_lt inside]
  exact State.takeRequest_data ready rfl

theorem exec_sectorRead_range (ready : s.part.Ready) (outside : 24 ≤ sector.toNat) :
    exec (.sectorRead tag sector) s = .next { s with part := s.part.acceptAny.deny tag 17 .range } := by
  change execSectorRead tag sector s = _
  rw [execSectorRead, indexOf_of_le outside]
  exact State.takeRequest_denied ready rfl

theorem exec_layerRead (ready : s.part.Ready) (inside : sector.toNat < 24) (below : n.toNat < 16) :
    exec (.layerRead tag sector n) s = .next { s with
      part := s.part.acceptAny.data tag 18 (s.part.acceptAny.layerData ⟨sector.toNat, inside⟩ n.toNat) } := by
  change execLayerRead tag sector n s = _
  rw [execLayerRead, indexOf_of_lt inside, indexOf_of_lt below]
  exact State.takeRequest_data ready rfl

theorem exec_layerRead_range (ready : s.part.Ready) (outside : 24 ≤ sector.toNat ∨ 16 ≤ n.toNat) :
    exec (.layerRead tag sector n) s = .next { s with part := s.part.acceptAny.deny tag 18 .range } := by
  change execLayerRead tag sector n s = _
  rw [execLayerRead]
  refine State.takeRequest_denied ready ?_
  rcases outside with beyond | above
  · rw [indexOf_of_le beyond]
    rfl
  · rw [indexOf_of_le above]
    cases indexOf 24 sector <;> rfl

theorem exec_faults (ready : s.part.Ready) (inside : index.toNat < 32) : exec (.faults tag index) s
    = .next { s with part := s.part.acceptAny.data tag 3 (s.part.acceptAny.faultsData index.toNat) } :=
  State.takeRequest_data ready (if_pos inside)

theorem exec_faults_range (ready : s.part.Ready) (outside : 32 ≤ index.toNat) :
    exec (.faults tag index) s = .next { s with part := s.part.acceptAny.deny tag 3 .range } :=
  State.takeRequest_denied ready (if_neg (Nat.not_lt.2 outside))

end

section
variable {p : Part} {n : Nat}

theorem Part.layerData_some {k : SectorId} {l : Layer} (there : (p.sector k).layers[n]? = some l) :
    p.layerData k n = octet (p.sector k).layers.length :: l.octets p.clock := by
  rw [Part.layerData, there]

theorem Part.layerData_none {k : SectorId} (absent : (p.sector k).layers[n]? = none) :
    p.layerData k n = octet ((p.sector k).layers.length + 128) :: ones 9 := by
  rw [Part.layerData, absent]

theorem Part.faultsData_some {r : LogRecord} (there : p.mon.log[n]? = some r) :
    p.faultsData n = octet p.mon.log.length :: r.octets p.clock := by
  rw [Part.faultsData, there]

theorem Part.faultsData_none (absent : p.mon.log[n]? = none) : p.faultsData n = octet p.mon.log.length :: ones 9 := by
  rw [Part.faultsData, absent]

end

/-- Settles O16: for each read the record found, the record absent, and the index out of range. -/
theorem readsReturnRecords : Obligations.ReadsReturnRecords := by
  unfold Obligations.ReadsReturnRecords
  refine ⟨fun s tag jack ready => ⟨exec_jackRead ready, exec_jackRead_range ready⟩, fun s tag sector n ready =>
    ⟨fun inside => ⟨exec_sectorRead ready inside, fun below l there => ?_, fun below absent => ?_⟩,
      exec_sectorRead_range ready, exec_layerRead_range ready⟩, fun s tag index ready =>
    ⟨fun r inside there => ?_, fun inside absent => ?_, exec_faults_range ready⟩⟩
  · rw [exec_layerRead ready inside below, Part.layerData_some there]
    rfl
  · rw [exec_layerRead ready inside below, Part.layerData_none absent]
    rfl
  · rw [exec_faults ready inside, Part.faultsData_some there, LogRecord.octets]
    cases r.detail <;> rfl
  · rw [exec_faults ready inside, Part.faultsData_none absent]
    rfl

end Sys2Proof.Machine
end

section
/-! SUPPORT. Steps: the command at the front of the queue, what is due before a command, and a step that finds nothing to do
(R184; logs 1, 2, 3). -/

namespace Sys2Proof.Machine

/-! ### What was due is due no more -/

section
variable (p : Part)

theorem Part.resetIfDue_resetWait : p.resetIfDue.resetWait ≠ some 0 := by
  unfold Part.resetIfDue
  split
  · unfold Part.requestReset Part.releaseEvent
    dsimp only
    split
    · rw [(Part.judge_loud _ _ _).keeps.resetWait]
      nofun
    · nofun
  · assumption

theorem Part.takeShares_resetWait (l : List Share) : (l.foldl Part.takeShare p).resetWait = p.resetWait :=
  foldl_law (P := fun q : Part => q.resetWait = p.resetWait) (fun q x before => (q.takeShare_reset x).1.trans before) l p rfl

/-- What has been settled stays as it is when it is settled again (logs 2, 3). -/
theorem Part.settle_settle : p.settle.settle = p.settle := by
  have wait : p.settle.resetWait ≠ some 0 := by
    rw [Part.settle, Part.takeShares_resetWait]
    exact p.resetIfDue_resetWait
  have late := p.settle_owed
  generalize p.settle = q at *
  rw [Part.settle, Part.resetIfDue_eq wait]
  refine Part.takeShares_eq _ fun x timely owed => ?_
  simp [late x owed] at timely

theorem Part.settleAll_settleAll : p.settleAll.settleAll = p.settleAll := by
  have wait : p.settleAll.resetWait ≠ some 0 := by
    rw [Part.settleAll, Part.takeShares_resetWait]
    exact p.resetIfDue_resetWait
  have free := p.settleAll_owed
  generalize p.settleAll = q at *
  rw [Part.settleAll, Part.resetIfDue_eq wait]
  exact Part.takeShares_eq _ fun x _ owed => by simp [free] at owed

end

theorem State.act_settle (s : State) (f : Part → Part) : s.act f = State.act f { s with part := s.part.settle } := by
  unfold State.act
  rw [Part.settle_settle]

/-- Every command but the rows for what falls due and the advance is taken on the part settled (log 2). -/
theorem exec_settle (i : Instr) (s : State) (plain : dueRow i = false) (other : i ≠ .slipClockAdvance) :
    exec i s = exec i { s with part := s.part.settle } := by
  have act := s.act_settle
  cases i
  case slipClockAdvance => exact absurd rfl other
  case resetAfterAck | deferredEntryExpiry | subTransactionTimeout | resendDue | creepTimerExpiry | leaseLimit | windowExpiry
      | commitWaitCancel | deglitchExpiry | resumeBlankingEnd =>
    nomatch plain
  case mgmtBadRequest =>
    simp only [exec, execMgmtBadRequest]
    split <;> exact act _
  case spliceBegin | spliceEnd | rodSet | positionSet | jackRead | sectorRead | layerRead =>
    simp only [exec, execSpliceBegin, execSpliceEnd, execRodSet, execPositionSet, execJackRead, execSectorRead, execLayerRead]
    exact act _
  all_goals exact act _

/-- Settles O1: a step's own definition. -/
theorem stepTakesFrontCommand : Obligations.StepTakesFrontCommand := by
  unfold Obligations.StepTakesFrontCommand
  intro c s
  rfl

/-- Settles O2: every command is one event, and one with nothing due and no effect leaves the part. -/
theorem everyStepCompletes : Obligations.EveryStepCompletes := by
  unfold Obligations.EveryStepCompletes
  refine ⟨fun c s => ?_, fun s empty settled free => ?_⟩
  · obtain ⟨p, taken, -⟩ := exec_commitLaw c s
    exact ⟨p, taken⟩
  · rw [step, empty]
    change s.endSecond id = _
    rw [State.endSecond_settled settled free, id, Part.finish_self settled.2.2]

/-- Settles O3: settling leaves nothing to settle, and so a command finds the same part on a part settled before. -/
theorem dueSharesComeFirst : Obligations.DueSharesComeFirst := by
  unfold Obligations.DueSharesComeFirst
  refine ⟨fun c s plain other => ⟨exec_settle c s plain other, fun x owed => ?_⟩, fun s => ⟨?_, s.part.settleAll_owed⟩⟩
  · have order : s.part.settle.order = s.part.order := by
      rw [Part.settle, Part.takeShares_order, Part.resetIfDue_order]
    exact order ▸ s.part.settle_owed x owed
  · change s.endSecond Part.advance = State.endSecond Part.advance { s with part := s.part.settleAll }
    unfold State.endSecond
    rw [Part.settleAll_settleAll]

end Sys2Proof.Machine
end

section
/-! SUPPORT. What passes, closes and stops spare: a command in SENT stays open, and no BOND pair moves (R69, R79, R120). -/

namespace Sys2Proof.Machine

/-! ### Commands in SENT -/

/-- The command of a subject is open, in SENT. -/
def Part.SentAt (p : Part) (x : Subject) : Prop := ∃ c, p.openOf x = some c ∧ c.phase = .sent

section
variable {p q r : Part} {x : Subject}

theorem Part.SentAt.of_table (h : p.SentAt x) (table : q.xt.table = p.xt.table) : q.SentAt x := by
  rwa [Part.SentAt, Part.openOf, table]

/-- Records rewritten under their own subjects, none of them out of SENT. -/
theorem Part.SentAt.of_map (h : p.SentAt x) {f : Command → Command} (subject : ∀ c, (f c).subject = c.subject)
    (sent : ∀ c : Command, c.phase = .sent → (f c).phase = .sent) (table : q.xt.table = p.xt.table.map f) :
    q.SentAt x := by
  obtain ⟨c, found, phase⟩ := h
  have same : (fun d : Command => d.subject == x) ∘ f = (·.subject == x) := funext fun d => by
    rw [Function.comp_apply, subject]
  refine ⟨f c, ?_, sent c phase⟩
  rw [Part.openOf, table, List.find?_map, same]
  exact congrArg (Option.map f) found

theorem Part.SentAt.of_append (h : p.SentAt x) {l : List Command} (table : q.xt.table = p.xt.table ++ l) : q.SentAt x := by
  obtain ⟨c, found, phase⟩ := h
  refine ⟨c, ?_, phase⟩
  rw [Part.openOf, table, List.find?_append, show p.xt.table.find? _ = some c from found]
  rfl

theorem Part.SentAt.removeCommand (h : p.SentAt x) {y : Subject} (other : y ≠ x) : (p.removeCommand y).SentAt x := by
  obtain ⟨c, found, phase⟩ := h
  refine ⟨c, Eq.trans ?_ found, phase⟩
  change (p.xt.table.filter _).find? _ = p.xt.table.find? _
  rw [List.find?_filter]
  congr 1
  funext d
  by_cases here : d.subject = x <;> simp [here, other.symm]

/-- A sub-transaction sent (R69). -/
theorem Part.SentAt.sendSub (h : p.SentAt x) (c : Command) : (p.sendSub c).SentAt x := by
  refine h.of_map (f := fun e => if e.subject = c.subject then
    { c with tag := p.nextTag (p.addrOf c.subject), size := p.nextSize c, phase := .sent, sent := p.clock, retries := 0 }
    else e) (fun e => ?_) (fun e sent => ?_) ?_
  · split
    · next same => exact same.symm
    · rfl
  · split
    · rfl
    · exact sent
  · obtain ⟨task, _⟩ := c
    cases task <;> rfl

/-- A LIFT admitted (R50, R68). -/
theorem Part.SentAt.admitLift (h : p.SentAt x) (j : JackId) (n : Nat) (o : Origin) : (p.admitLift j n o).SentAt x := by
  unfold Part.admitLift Part.openCommand
  exact Part.SentAt.sendSub (h.of_append rfl) _

/-- Some command is open, and a pending commit waits for it (R160). -/
theorem Part.SentAt.commitLaw (h : p.SentAt x) : p.CommitLaw := fun _ empty => by
  obtain ⟨c, found, -⟩ := h
  rw [Part.openOf, empty] at found
  nomatch found

/-! ### What is spared -/

/-- Commands in SENT stay open in SENT, and no BOND pair moves. -/
structure Part.Spares (p q : Part) : Prop where
  bonds : ∀ k, q.pair (.bond k) = p.pair (.bond k)
  sent : ∀ x, p.SentAt x → q.SentAt x

namespace Part.Spares

theorem refl (p : Part) : p.Spares p := ⟨fun _ => rfl, fun _ => id⟩

theorem trans (a : p.Spares q) (b : q.Spares r) : p.Spares r :=
  ⟨fun k => (b.bonds k).trans (a.bonds k), fun x h => b.sent x (a.sent x h)⟩

theorem foldl {α : Type} {f : Part → α → Part} (h : ∀ (p : Part) a, p.Spares (f p a)) (l : List α) (p : Part) :
    p.Spares (l.foldl f p) :=
  foldl_law (P := p.Spares) (fun q a before => before.trans (h q a)) l p (.refl p)

theorem same (bonds : ∀ k, q.pair (.bond k) = p.pair (.bond k)) (table : q.xt.table = p.xt.table) : p.Spares q :=
  ⟨bonds, fun _ h => h.of_table table⟩

/-- What does no more to the table than a pass does to it. -/
theorem passed (h : p.Passed q) (sent : ∀ x, p.SentAt x → q.SentAt x) : p.Spares q := ⟨fun _ => h.pair _, sent⟩

end Part.Spares

/-! ### Passes -/

section
variable (p : Part)

theorem Part.examine_spares (b : Bool) (j : JackId) : p.Spares (p.examine b j) := by
  refine .passed (p.examine_passed b j) fun x h => ?_
  unfold Part.examine
  split
  · unfold Part.examineEntry
    split
    · exact h
    split
    · exact h.of_table (by rw [Part.refuseEntry, Part.refuse_xt]; rfl)
    split
    · exact h.of_table (by rw [Part.refuseEntry, Part.refuse_xt]; rfl)
    split
    · exact Part.SentAt.admitLift (p := p.dropEntry _) h _ _ _
    · unfold Part.rehold
      split
      · exact h
      · exact h.of_table (by rw [Part.held_xt]; rfl)
  · exact h

theorem Part.passWith_spares (b : Bool) : p.Spares (p.passWith b) := .foldl (fun p j => p.examine_spares b j) _ p

theorem Part.offer_spares (j : JackId) : p.Spares (p.offer j) := by
  refine .passed (p.offer_passed j) fun x h => ?_
  unfold Part.offer
  split
  · exact h.admitLift j 1 .device
  · split <;> exact h

theorem Part.endRoundTest_spares : p.Spares p.endRoundTest := by
  unfold Part.endRoundTest
  split <;> exact .same (fun _ => rfl) rfl

theorem Part.creepPassIfWaiting_spares : p.Spares p.creepPassIfWaiting := by
  unfold Part.creepPassIfWaiting Part.creepPass Part.dropStuck
  split
  · exact .refl p
  · have offered := Part.Spares.foldl (fun p j => p.offer_spares j) p.mode.roundList p
    refine (offered.trans ?_).trans (Part.endRoundTest_spares _)
    split
    · exact .same (fun _ => rfl) rfl
    · exact .refl _

theorem Part.toldOfClose_spares (o : Origin) : p.Spares (p.toldOfClose o) := by
  unfold Part.toldOfClose
  split
  · have lowered : p.Spares (p.setMode { p.mode with roundCommands := p.mode.roundCommands - 1 }) :=
      .same (fun _ => rfl) rfl
    exact (lowered.trans (Part.creepPassIfWaiting_spares _)).trans (Part.endRoundTest_spares _)
  · exact p.creepPassIfWaiting_spares

theorem Part.leaseSince_spares (pre : Part) : p.Spares (pre.leaseSince p) := by
  unfold Part.leaseSince Part.leaseTest
  split
  · exact .refl p
  · split
    · split
      · exact .same (fun k => Part.emit_pair _ _ _ _ _ _) (by rw [Part.reply_xt]; rfl)
      · exact .refl p
    all_goals exact .refl p

/-! ### Closes and stops -/

theorem Part.closeEnded_freed (c : Command) (why : Reason) :
    p.closeEnded c why = (p.freed c why).admPass.toldOfClose c.origin := by
  unfold Part.closeEnded Part.closeWith Part.freed Part.releaseOf
  cases c.task <;> rfl

/-- A stop closes no command in SENT (R79). -/
theorem Part.closeStopped_spares (y : Subject) : p.Spares (p.closeStopped y) := by
  unfold Part.closeStopped
  split
  · next c found =>
    split
    · next e resend _ =>
      rw [p.closeEnded_freed]
      refine .trans (.trans ⟨fun k => p.freed_pair c _ nofun, fun x h => ?_⟩ (Part.passWith_spares _ _))
        (Part.toldOfClose_spares _ _)
      have other : c.subject ≠ x := by
        rintro rfl
        obtain ⟨d, there, sent⟩ := h
        rw [← Part.openOf_subject found, there] at found
        rw [Option.some.inj found, resend] at sent
        nomatch sent
      exact (h.removeCommand other).of_table (by rw [p.freed_moves]; rfl)
    · exact .refl p
  · exact .refl p

theorem Part.markAll_spares (e : Ending) (which : Command → Bool) : p.Spares (p.markAll e which) := by
  refine ⟨fun _ => rfl, fun x h => h.of_map (fun c => ?_) (fun c sent => ?_) rfl⟩
  · split <;> rfl
  · split <;> exact sent

theorem Part.removeEntries_spares (which : Entry → Bool) (why : Reason) : p.Spares (p.removeEntries which why) :=
  .passed (p.removeEntries_passed which why) fun _ h => h.of_table (by rw [p.removeEntries_xt])

theorem Part.stopSector_spares (k : SectorId) : p.Spares (p.stopSector k) := by
  have stilled := fun l q => Part.Spares.foldl (f := Part.stillNode) (fun _ _ => .same (fun _ => rfl) rfl) l q
  have closed := fun l q => Part.Spares.foldl (f := fun p x => p.closeStopped x) (fun p x => p.closeStopped_spares x) l q
  have marked := p.markAll_spares .sectorStopped (p.liftsIn k)
  have before := (marked.trans (stilled (p.xt.table.filter (p.liftsIn k)) _)).trans
    (closed ((p.xt.table.filter (p.liftsIn k)).map Command.subject) _)
  unfold Part.stopSector
  exact (before.trans (Part.removeEntries_spares _ _ _)).trans (.same (fun _ => rfl) rfl)

/-- An assertion moves its own pair, and spares all else (R127, R128). -/
theorem Part.assertHere_spares (y : Pair) (d : Option JackId) : (p.noteAssertion y d).Spares (p.assertHere y d) := by
  unfold Part.assertHere
  split
  · split
    · exact .refl _
    · exact Part.stopSector_spares _ _
  · exact .refl _

theorem Part.stopFlushed_spares : p.Spares p.stopFlushed := by
  have set : p.Spares (p.setMode p.stoppedRecord) := .same (fun _ => rfl) rfl
  unfold Part.stopFlushed
  split
  · exact set.trans (Part.removeEntries_spares _ _ _)
  · exact set

/-- The ring stop (R105). -/
theorem Part.enterStopped_spares : p.Spares p.enterStopped := by
  cases stands : p.mode.mode.isStopped with
  | true =>
    rw [Part.enterStopped_stopped stands]
    exact .refl p
  | false =>
    have closed : p.stopFlushed.Spares p.stopClosed :=
      (Part.markAll_spares _ _ _).trans (.foldl (f := fun p x => p.closeStopped x) (fun p x => p.closeStopped_spares x) _ _)
    have out : p.stopClosed.Spares { p.stopClosed.ringOut false .still 127 0 [] with stopOut := true } :=
      .same (fun _ => rfl) rfl
    have told := p.stopTold.toldOfStopped_told
    have before := ((p.stopFlushed_spares.trans closed).trans out).trans (Part.endRoundTest_spares _)
    have last : p.stopTold.Spares p.stopTold.toldOfStopped :=
      .same (fun k => told.pairs _ nofun nofun) (by rw [told.only])
    rw [Part.enterStopped_eq stands]
    generalize p.stopTold.toldOfStopped = t at *
    exact (before.trans last).trans (.same (fun _ => rfl) rfl)

end
end

end Sys2Proof.Machine
end

section
/-! SUPPORT. The lease over a second: no share of an advance asks for one, and each ends in the test of R116 (R148,
log 39). -/

namespace Sys2Proof.Machine

/-- No lease has been asked for since p (R147). -/
def Part.AsksNone (p q : Part) : Prop := ∀ asking, q.mode.lease = .pending asking → p.mode.lease = .pending asking

/-- No lease has been asked for since p, and one that is still PENDING does not pass the test of R116 if it did not in p. -/
structure Part.LeaseTested (p q : Part) : Prop where
  asks : p.AsksNone q
  passes : ∀ asking, q.mode.lease = .pending asking → q.grantTest = true → p.grantTest = true

section
variable {p q r : Part}

theorem Part.AsksNone.ofTenure (h : p.mode.Tenure q.mode) : p.AsksNone q := fun _ asked => h.lease ▸ asked

theorem Part.AsksNone.unleased (none : q.mode.lease = .none) : p.AsksNone q := fun _ asked => nomatch none.symm.trans asked

namespace Part.LeaseTested

theorem refl (p : Part) : p.LeaseTested p := ⟨fun _ => id, fun _ _ => id⟩

theorem trans (a : p.LeaseTested q) (b : q.LeaseTested r) : p.LeaseTested r :=
  ⟨fun t h => a.asks t (b.asks t h), fun t h pass => a.passes t (b.asks t h) (b.passes t h pass)⟩

theorem foldl {α : Type} {f : Part → α → Part} (h : ∀ (p : Part) a, p.LeaseTested (f p a)) (l : List α) (p : Part) :
    p.LeaseTested (l.foldl f p) :=
  foldl_law (P := p.LeaseTested) (fun q a before => before.trans (h q a)) l p (.refl p)

/-- What moves no lease, no round and no round command. -/
theorem same (lease : q.mode.lease = p.mode.lease) (test : q.grantTest = p.grantTest) : p.LeaseTested q :=
  ⟨fun _ asked => lease ▸ asked, fun _ _ pass => test ▸ pass⟩

theorem of_mode (mode : q.mode = p.mode) : p.LeaseTested q := same (by rw [mode]) (by rw [Part.grantTest, mode]; rfl)

/-- What has been tested need not be tested again. -/
theorem leaseSince_eq (h : p.LeaseTested q) : p.leaseSince q = q := by
  unfold Part.leaseSince Part.leaseTest
  split
  · rfl
  · next failed =>
    split
    · next asking pending => exact if_neg fun pass => failed (h.passes asking pending pass)
    all_goals rfl

end Part.LeaseTested

/-- The test of R116 at the end of an event. -/
theorem Part.AsksNone.leaseSince (h : p.AsksNone q) : p.LeaseTested (p.leaseSince q) := by
  unfold Part.leaseSince Part.leaseTest
  split
  · next passed => exact ⟨h, fun _ _ _ => passed⟩
  · split
    · split
      · refine ⟨fun asking => ?_, fun asking => ?_⟩
        all_goals
          rw [Part.reply_mode]
          nofun
      · next fails => exact ⟨h, fun _ _ pass => absurd pass fails⟩
    all_goals next lease => exact ⟨h, fun asking pending => nomatch lease.symm.trans pending⟩

theorem Part.quiesce_leaseTested (p : Part) : p.LeaseTested p.quiesce := by
  unfold Part.quiesce Part.applyPending
  split
  · split
    · refine Part.AsksNone.leaseSince (.ofTenure ?_)
      split
      · exact Part.cancelCommit_tenure _ _ (.refl _)
      · exact Part.applyBank_tenure _ (.refl _)
    · exact .refl p
  · exact .refl p

theorem Part.AsksNone.finish (h : p.AsksNone q) : p.LeaseTested (p.finish q) :=
  h.leaseSince.trans (Part.quiesce_leaseTested _)

/-! ### The shares of an advance (R184) -/

theorem Part.dueCommand_leaseTested (c : Command) (p : Part) : p.LeaseTested (p.dueCommand c) := by
  unfold Part.dueCommand
  split
  · exact Part.AsksNone.finish (.ofTenure (Part.closeTimeout_tenure c (.refl _)))
  · split
    · exact .of_mode (p.resend_mode c)
    · exact .refl p

theorem Part.shareLease_asksNone (p : Part) : p.AsksNone p.shareLease := by
  unfold Part.shareLease
  split
  · split
    · refine .unleased ((Part.owedRound_tenure (.refl _)).lease.trans ?_)
      rw [Part.reply_mode]
      rfl
    · exact fun _ => id
  all_goals exact fun _ => id

theorem Part.share_asksNone (x : Share) (p : Part) : p.AsksNone (p.share x) := by
  cases x with
  | deferred => exact .ofTenure (Part.passWith_tenure true (.refl _))
  | transactions =>
    refine (Part.LeaseTested.foldl (fun q x => ?_) _ p).asks
    split
    · exact Part.dueCommand_leaseTested _ q
    · exact .refl q
  | creep => exact .ofTenure (.ite (Part.expireCreep_tenure (.refl _)) (.refl _))
  | lease => exact p.shareLease_asksNone
  | window => exact .ofTenure (.ite (Part.violation_tenure (p := p.setSup _) (.refl _)) (.refl _))
  | commitWait =>
    change p.AsksNone p.shareCommitWait
    unfold Part.shareCommitWait
    split
    · exact .ofTenure (.ite (Part.cancelCommit_tenure _ _ (.refl _)) (.refl _))
    · exact fun _ => id
  | deglitch => exact .ofTenure (Part.shareDeglitch_tenure (.refl _))
  | blanking => exact .ofTenure (.ite (Part.judgeDeck_tenure (p := p.endBlanking) (.refl _)) (.refl _))

theorem Part.takeShare_leaseTested (p : Part) (x : Share) : p.LeaseTested (p.takeShare x) := by
  unfold Part.takeShare
  split
  · have dropped : p.AsksNone ((p.share x).dropShare x) := p.share_asksNone x
    exact dropped.finish
  · exact .refl p

end

end Sys2Proof.Machine
end

section
/-! SUPPORT. A second (R184): BOND judged at the new time (R37, R120, R125), and what the end of the second leaves (R56). -/

namespace Sys2Proof.Machine

/-! ### BOND's input (R120) -/

/-- Enabled jacks name the sector, and concrete above the bottom has reached its maximum exit age. -/
theorem Part.bondInput_iff (p : Part) (k : SectorId) : p.bondInput k = true ↔
    (∃ j, (p.jackEntry j).enabled = true ∧ p.sectorOf j = k)
      ∧ ∃ l ∈ (p.sector k).layers, p.sectorBottom k < l.base + l.depth
        ∧ (p.mixEntry l.mix).maxExit < age p.clock l.first := by
  simp only [Part.bondInput, Part.inUse, Part.bond, Bool.and_eq_true, List.any_eq_true, mem_jackIds, true_and, beq_iff_eq,
    decide_eq_true_eq]
  rfl

/-! ### BOND's tests (R125) -/

/-- The state x of BOND of a sector is what its test in p finds, but for an assertion at once (R125). -/
structure Part.BondFound (p : Part) (k : SectorId) (x : PairState) : Prop where
  ceases : p.bondInput k = false → x = .notPresent
  waits : p.bondInput k = true → (p.pair (.bond k)).state = .notPresent → p.bank.deglitchBond ≠ 0 →
    x = .pending p.clock
  stays : p.bondInput k = true → (p.pair (.bond k)).state ≠ .notPresent → x = (p.pair (.bond k)).state

/-- What BOND's tests leave on their way. -/
structure Part.BondsTested (p q : Part) : Prop where
  loud : Loud p q
  runs : p.Runs q
  sent : ∀ x, p.SentAt x → q.SentAt x

theorem PairState.followed_of_ne (now : Clock) {x : PairState} (there : x ≠ .notPresent) : x.followed now true = x := by
  cases x with
  | notPresent => exact absurd rfl there
  | pending start => rfl
  | present m => rfl

section
variable {p q : Part}

theorem judging_sent (y : Pair) (input : Part → Bool) {x : Subject} (h : p.SentAt x) : (judging y input p).1.SentAt x := by
  unfold judging
  split
  · exact (p.assertHere_spares y none).sent x (h.of_table (by rw [(p.noteAssertion_only y none).1]))
  · exact h.of_table (by rw [(p.follow_only y _).1])

theorem judging_bond_other {y : Pair} (input : Part → Bool) {k : SectorId} (away : .bond k ≠ y) :
    (judging y input p).1.pair (.bond k) = p.pair (.bond k) := by
  unfold judging
  split
  · exact ((p.assertHere_spares y none).bonds k).trans ((p.noteAssertion_pair y none _).trans (if_neg away))
  · exact (p.follow_pair y _ _).trans (if_neg away)

theorem bondJudging_state (k : SectorId) : ((bondJudging k p).1.pair (.bond k)).state =
    if p.assertsNow (.bond k) (p.bondInput k) then .present (p.bank.condMode (.bond k))
    else (p.pair (.bond k)).state.followed p.clock (p.bondInput k) := by
  unfold bondJudging judging
  split
  · refine (congrArg PairRecord.state (((p.assertHere_spares (.bond k) none).bonds k).trans
      (p.noteAssertion_pair (.bond k) none _))).trans ?_
    rw [if_pos rfl]
  · rw [p.follow_pair, if_pos rfl]

theorem Part.BondsTested.judging (h : p.BondsTested q) (y : Pair) (input : Part → Bool) :
    p.BondsTested (judging y input q).1 :=
  ⟨h.loud.trans (judging_loudly y input q), h.runs.trans (judging_runs y input q),
    fun x sent => judging_sent y input (h.sent x sent)⟩

/-- A test of BOND, made on a state that it has found before or not (R125). -/
theorem Part.BondsTested.found (h : p.BondsTested q) {k : SectorId}
    (before : (q.pair (.bond k)).state = (p.pair (.bond k)).state ∨ p.BondFound k (q.pair (.bond k)).state) :
    p.BondFound k ((bondJudging k q).1.pair (.bond k)).state := by
  have keeps := h.loud.keeps
  have input := (Part.inputOf_congr keeps.jacks keeps.sectors keeps.cfg keeps.clock).1 k
  rw [bondJudging_state, input, Part.assertsNow, Part.bank, keeps.cfg, keeps.clock]
  generalize (q.pair (.bond k)).state = x at *
  cases found : p.bondInput k with
  | false =>
    have low : p.bondInput k ≠ true := Bool.eq_false_iff.1 found
    exact ⟨fun _ => rfl, fun high => absurd high low, fun high => absurd high low⟩
  | true =>
    refine ⟨fun low => absurd (found.symm.trans low) nofun, fun _ absent slow => ?_, fun _ there => ?_⟩
    · have delayed : (p.cfg.active.deglitch (.bond k) == 0) = false := beq_false_of_ne slow
      have waiting : x = .notPresent ∨ x = .pending p.clock :=
        before.imp (·.trans absent) fun before => before.waits found absent slow
      rw [delayed, Bool.and_false, if_neg Bool.false_ne_true]
      rcases waiting with rfl | rfl <;> rfl
    · have same : x = (p.pair (.bond k)).state := before.elim id fun before => before.stays found there
      rw [same, beq_false_of_ne there]
      exact PairState.followed_of_ne _ there

/-- The tests of BOND at an advance, COMPOUND's the last (R37, R127). -/
def bondTests : List Judging := sectorIds.map bondJudging ++ [compoundJudging]

theorem Part.judgeBonds_eq (p : Part) : p.judgeBonds = p.event bondTests := rfl

theorem bondTests_cases {f : Judging} (m : f ∈ bondTests) : (∃ k, f = bondJudging k) ∨ f = compoundJudging := by
  simp only [bondTests, List.mem_append, List.mem_map, List.mem_singleton] at m
  exact m.imp_left fun ⟨k, _, same⟩ => ⟨k, same.symm⟩

theorem Part.BondsTested.test (h : p.BondsTested q) {f : Judging} (m : f ∈ bondTests) : p.BondsTested (f q).1 := by
  rcases bondTests_cases m with ⟨k, rfl⟩ | rfl
  · exact h.judging _ _
  · exact h.judging _ _

/-- Each test finds its own pair and leaves the others'. -/
theorem Part.BondsTested.found_test (h : p.BondsTested q) {f : Judging} (m : f ∈ bondTests) {k : SectorId}
    (before : (q.pair (.bond k)).state = (p.pair (.bond k)).state ∨ p.BondFound k (q.pair (.bond k)).state) :
    p.BondFound k ((f q).1.pair (.bond k)).state ∨ (f q).1.pair (.bond k) = q.pair (.bond k) := by
  rcases bondTests_cases m with ⟨i, rfl⟩ | rfl
  · by_cases own : k = i
    · exact .inl (own ▸ h.found before)
    · exact .inr (judging_bond_other _ fun same => own (Pair.bond.inj same))
  · exact .inr (judging_bond_other _ nofun)

/-- What the judging of BOND leaves (R37, R105, R125, R127). -/
structure Part.BondsJudged (p t : Part) : Prop where
  loud : Loud p t
  runs : t.mode.mode = p.mode.mode →
    t.mode.creepTimer = p.mode.creepTimer ∧ t.mon.blanking = p.mon.blanking ∧ t.sup = p.sup
  sent : ∀ x, p.SentAt x → t.SentAt x
  bond : ∀ k, p.BondFound k (t.pair (.bond k)).state

theorem Part.BondsTested.refl (p : Part) : p.BondsTested p := ⟨.refl p, .refl p, fun _ => id⟩

theorem bondTests_tested (p : Part) : p.BondsTested (judgeAll bondTests p).1 :=
  judgeAll_keeps (P := p.BondsTested) (fun _ m _ before => before.test m) (.refl p)

/-- The tests themselves, before the ring stops. -/
theorem bondTests_judged (p : Part) : p.BondsJudged (judgeAll bondTests p).1 := by
  have tested := bondTests_tested p
  refine ⟨tested.loud, fun _ => ⟨tested.runs.timer, tested.runs.blanking, tested.runs.sup⟩, tested.sent, fun k => ?_⟩
  refine judgeAll_reaches (g := bondJudging k) (R := fun q => p.BondFound k (q.pair (.bond k)).state)
    (P := fun q => p.BondsTested q
      ∧ ((q.pair (.bond k)).state = (p.pair (.bond k)).state ∨ p.BondFound k (q.pair (.bond k)).state))
    (fun f m q ⟨h, before⟩ => ⟨h.test m, ?_⟩) (fun f m q ⟨h, _⟩ found => ?_) ?_
    (fun q ⟨h, before⟩ => h.found before) ⟨.refl p, .inl rfl⟩
  · rcases h.found_test m before with found | same
    · exact .inr found
    · rwa [same]
  · rcases h.found_test m (.inr found) with found | same
    · exact found
    · rwa [same]
  · exact List.mem_append_left _ (List.mem_map_of_mem (mem_sectorIds k))

/-- A ring stop after the tests: out of another climb mode it is seen in the mode, and no BOND moves (R105). -/
theorem Part.BondsJudged.enterStopped (h : p.BondsJudged q) (climb : q.mode.mode = p.mode.mode) :
    p.BondsJudged q.enterStopped := by
  cases stands : q.mode.mode.isStopped with
  | true =>
    rw [Part.enterStopped_stopped stands]
    exact h
  | false =>
    have spares := q.enterStopped_spares
    refine ⟨h.loud.trans q.enterStopped_loud, fun same => ?_, fun x sent => spares.sent x (h.sent x sent), fun k => ?_⟩
    · have halted := (Part.enterStopped_halts stands).1
      rw [same, ← climb] at halted
      rw [halted] at stands
      nomatch stands
    · rw [spares.bonds]
      exact h.bond k

theorem Part.judgeBonds_judged (p : Part) : p.BondsJudged p.judgeBonds := by
  have judged := bondTests_judged p
  rw [Part.judgeBonds_eq]
  rcases p.event_cases bondTests with same | same
  · exact same ▸ judged
  · exact same ▸ judged.enterStopped (bondTests_tested p).runs.climb

/-- A test whose input is false, of a pair that is NOT-PRESENT, does nothing (R125). -/
theorem judging_still {y : Pair} {input : Part → Bool} (none : input p = false) (absent : (p.pair y).state = .notPresent) :
    judging y input p = (p, false) := by
  unfold judging Part.assertsNow Part.follow
  rw [none, absent]
  rfl

theorem judgeAll_still {l : List Judging} (still : ∀ f ∈ l, f p = (p, false)) : judgeAll l p = (p, false) := by
  induction l with
  | nil => rfl
  | cons f l ih =>
    rw [judgeAll, still f List.mem_cons_self, ih fun g m => still g (List.mem_cons_of_mem _ m)]
    rfl

/-- Where no BOND changes, no more sectors are stopped than the limit, and COMPOUND is NOT-PRESENT, the judging of BOND
does nothing (R37, R124, R125). -/
theorem Part.judgeBonds_still (bonds : ∀ k, p.bondInput k = false ∧ (p.pair (.bond k)).state = .notPresent)
    (compound : (p.pair .compound).state = .notPresent) (low : p.stoppedSectors ≤ p.bank.sectorStopLimit) :
    p.judgeBonds = p := by
  have still : ∀ f ∈ bondTests, f p = (p, false) := fun f m => by
    rcases bondTests_cases m with ⟨k, rfl⟩ | rfl
    · exact judging_still (bonds k).1 (bonds k).2
    · exact judging_still (decide_eq_false (by omega)) compound
  rw [Part.judgeBonds_eq, Part.event, judgeAll_still still]
  rfl

end

/-! ### ADM at the advance (R56) -/

/-- What the end of the second leaves, once BOND has been judged: leases granted, and ADM's share taken. -/
structure Part.Trails (p t : Part) : Prop where
  jacks : t.jacks = p.jacks
  sectors : t.sectors = p.sectors
  cfg : t.cfg = p.cfg
  clock : t.clock = p.clock
  climb : t.mode.mode = p.mode.mode
  timer : t.mode.creepTimer = p.mode.creepTimer
  blanking : t.mon.blanking = p.mon.blanking
  sup : t.sup = p.sup
  spares : p.Spares t

section
variable {p q : Part}

theorem Part.Trails.trans {r : Part} (a : p.Trails q) (b : q.Trails r) : p.Trails r :=
  ⟨b.jacks.trans a.jacks, b.sectors.trans a.sectors, b.cfg.trans a.cfg, b.clock.trans a.clock, b.climb.trans a.climb,
    b.timer.trans a.timer, b.blanking.trans a.blanking, b.sup.trans a.sup, a.spares.trans b.spares⟩

theorem Part.Trails.ofQuiet (h : Quiet p q) (spares : p.Spares q) : p.Trails q :=
  have keeps := h.keeps
  ⟨keeps.jacks, keeps.sectors, keeps.cfg, keeps.clock, keeps.climb, keeps.timer, keeps.blanking, keeps.sup, spares⟩

theorem Part.leaseSince_trails (pre : Part) : p.Trails (pre.leaseSince p) :=
  .ofQuiet (p.leaseSince_quiet pre) (p.leaseSince_spares pre)

theorem Part.leaseSince_adm (pre : Part) : (pre.leaseSince p).adm = p.adm := by
  unfold Part.leaseSince Part.leaseTest
  split
  · rfl
  · split
    · split
      · rw [Part.reply_adm]
        rfl
      · rfl
    all_goals rfl

/-- ADM takes its share at once: it owes it, is not late, and no entry is overdue (R56, logs 2, 3). -/
def Part.AdmTakes (p : Part) : Prop :=
  Share.deferred ∈ p.owed ∧ Share.deferred ∉ p.order.late
    ∧ ∀ e ∈ p.adm.queue, age p.clock e.deferred ≤ p.bank.deferLimit

theorem Part.admAdvance_takes (h : p.AdmTakes) : p.admAdvance = (p.passWith false).dropShare .deferred := by
  obtain ⟨owed, timely, fresh⟩ := h
  refine if_pos ?_
  simpa [Part.overdue, owed, timely] using fresh

theorem Part.admAdvance_waits (h : ¬ p.AdmTakes) : p.admAdvance = p := by
  refine if_neg fun takes => h ?_
  simpa [Part.overdue, Part.AdmTakes, and_assoc] using takes

theorem Part.admAdvance_trails (p : Part) : p.Trails p.admAdvance := by
  by_cases h : p.AdmTakes
  · rw [Part.admAdvance_takes h]
    have passed : p.Trails (p.passWith false) := .ofQuiet (p.passWith_quiet false) (p.passWith_spares false)
    exact passed.trans ⟨rfl, rfl, rfl, rfl, rfl, rfl, rfl, rfl, .same (fun _ => rfl) rfl⟩
  · rw [Part.admAdvance_waits h]
    exact .ofQuiet (.refl p) (.refl p)

/-- ADM's share of the advance, as reexamined writes it (R55, R56). -/
theorem Part.admAdvance_repassed (law : p.OpenLaw) (h : p.AdmTakes) :
    p.admAdvance = ({ p with owed := p.owed.filter (· ≠ .deferred) } : Part).repassed false := by
  obtain ⟨admits, -⟩ := p.repassed_admits false
  rw [Part.admAdvance_takes h, Part.passWith_eq law.2, Part.dropShare_eq, admits.owed, ← Part.repassed_setOwed]
  rfl

/-! ### The second -/

/-- The part at the next second, once the blocks that take it early have done so (R184, R185, log 3). -/
def Part.secondBegun (p : Part) : Part := p.order.early.foldl Part.takeShare { p.countDown with owed := allShares }

theorem Part.secondBegun_clock (p : Part) : p.secondBegun.clock = p.clock + 1 := by
  refine foldl_law (P := fun q : Part => q.clock = p.clock + 1) (fun q x before => Eq.trans ?_ before) _ _ rfl
  unfold Part.takeShare
  split
  · exact (Part.finish_rests _ _).clock.trans (q.share_rests x).clock
  · rfl

theorem Part.secondBegun_order (p : Part) : p.secondBegun.order = p.order := Part.takeShares_order _ _

theorem Part.secondBegun_commitLaw (law : p.CommitLaw) : p.secondBegun.CommitLaw := by
  refine foldl_law (P := Part.CommitLaw) (fun q x before => ?_) _ _ law
  unfold Part.takeShare
  split
  · exact Part.finish_commitLaw _ _
  · exact before

theorem Part.secondBegun_leaseTested (p : Part) : p.LeaseTested p.secondBegun := by
  have counted : p.LeaseTested { p.countDown with owed := allShares } := .same rfl rfl
  exact counted.trans (.foldl Part.takeShare_leaseTested _ _)

theorem exec_slipClockAdvance {s : State} (ready : s.part.Ready) (free : s.part.owed = []) :
    exec .slipClockAdvance s = .next { s with
      part := s.part.finish (s.part.secondBegun.finish s.part.secondBegun.judgeBonds).admAdvance } := by
  change s.endSecond Part.advance = _
  rw [State.endSecond_settled ready.1 free, Part.advance, ready.2, if_neg Bool.false_ne_true]
  rfl

/-- A pending commit goes on waiting where a command in SENT is spared (R160). -/
theorem Part.commitLaw_of_sent (waits : p.commitPending = true → ∃ x, p.SentAt x) (cfg : q.cfg = p.cfg)
    (sent : ∀ x, p.SentAt x → q.SentAt x) : q.CommitLaw := fun pending => by
  obtain ⟨x, open_⟩ := waits (by rwa [Part.commitPending, ← cfg])
  exact (sent x open_).commitLaw pending

/-- The end of the second, where a pending commit waits for a command in SENT: leases, and ADM's share. -/
theorem Part.secondEnded (pre : Part) (waits : p.commitPending = true → ∃ x, p.SentAt x) :
    pre.finish (p.finish p.judgeBonds).admAdvance = pre.leaseSince (p.leaseSince p.judgeBonds).admAdvance := by
  have judged := p.judgeBonds_judged
  have cfg := judged.loud.keeps.cfg
  have sent := judged.sent
  have first := Part.leaseSince_trails (p := p.judgeBonds) p
  generalize p.judgeBonds = r at *
  have once : p.finish r = p.leaseSince r := Part.quiesce_eq
    (Part.commitLaw_of_sent waits (first.cfg.trans cfg) fun x h => first.spares.sent x (sent x h))
  have rest := first.trans ((p.leaseSince r).admAdvance_trails.trans (Part.leaseSince_trails pre))
  rw [once]
  exact Part.quiesce_eq (Part.commitLaw_of_sent waits (rest.cfg.trans cfg) fun x h => rest.spares.sent x (sent x h))

end

end Sys2Proof.Machine
end

section
/-! SUPPORT. The advance as a whole (R184): what a second leaves, and what it leaves where no BOND changes. -/

namespace Sys2Proof.Machine

section
variable {p q : Part}

/-- What the judging of BOND and the end of the second leave of the part q in which the second has begun, p the part before
it (R37, R56, R125, R184). -/
structure Part.SecondEnds (p q t : Part) : Prop where
  clock : t.clock = q.clock
  owed : t.owed = q.owed ∨ t.owed = q.owed.filter (· ≠ .deferred)
  taken : Share.deferred ∉ p.order.late → (∀ e ∈ t.adm.queue, age q.clock e.deferred ≤ q.bank.deferLimit) →
    Share.deferred ∉ t.owed
  jacks : t.jacks = q.jacks
  sectors : t.sectors = q.sectors
  cfg : t.cfg = q.cfg
  runs : t.mode.mode = q.mode.mode →
    t.mode.creepTimer = q.mode.creepTimer ∧ t.mon.blanking = q.mon.blanking ∧ t.sup = q.sup
  bond : ∀ k, q.BondFound k (t.pair (.bond k)).state

/-- ADM's share taken at the advance is owed no more; else it waits for an entry that is overdue, or is late (logs 2, 3). -/
theorem Part.admAdvance_owed (p : Part) :
    (p.admAdvance.owed = p.owed ∧ p.admAdvance.adm = p.adm ∧ ¬ p.AdmTakes)
      ∨ p.admAdvance.owed = p.owed.filter (· ≠ .deferred) := by
  by_cases h : p.AdmTakes
  · rw [Part.admAdvance_takes h, Part.dropShare_owed, (p.passWith_quiet false).keeps.owed]
    exact .inr rfl
  · rw [Part.admAdvance_waits h]
    exact .inl ⟨rfl, rfl, h⟩

theorem Part.secondEnds (order : q.order = p.order) (waits : q.commitPending = true → ∃ x, q.SentAt x) :
    p.SecondEnds q (p.finish (q.finish q.judgeBonds).admAdvance) := by
  rw [Part.secondEnded p waits]
  obtain ⟨loud, runs, -, bond⟩ := q.judgeBonds_judged
  have first := Part.leaseSince_quiet q.judgeBonds q
  have granted := Part.leaseSince_trails (p := q.judgeBonds) q
  generalize q.judgeBonds = r at *
  generalize q.leaseSince r = w at *
  have takes := w.admAdvance_trails
  have owed := w.admAdvance_owed
  generalize w.admAdvance = u at *
  have rest := granted.trans (takes.trans (Part.leaseSince_trails p))
  have adm := Part.leaseSince_adm (p := u) p
  have last := (Part.leaseSince_quiet u p).keeps.owed
  generalize p.leaseSince u = t at *
  have before : w.owed = q.owed := first.keeps.owed.trans loud.keeps.owed
  rw [← last, before] at owed
  refine ⟨rest.clock.trans loud.keeps.clock, owed.imp_left fun stays => stays.1, fun timely fresh owes => ?_,
    rest.jacks.trans loud.keeps.jacks, rest.sectors.trans loud.keeps.sectors, rest.cfg.trans loud.keeps.cfg,
    fun climb => ?_, fun k => ?_⟩
  · rcases owed with ⟨same, queue, none⟩ | gone
    · refine none ⟨by rwa [before, ← same], ?_, fun e here => ?_⟩
      · rwa [first.keeps.order, loud.keeps.order, order]
      · rw [Part.bank, granted.clock.trans loud.keeps.clock, granted.cfg.trans loud.keeps.cfg]
        exact fresh e (by rwa [adm, queue])
    · rw [gone] at owes
      simp at owes
  · obtain ⟨timer, blanking, sup⟩ := runs (rest.climb.symm.trans climb)
    exact ⟨rest.timer.trans timer, rest.blanking.trans blanking, rest.sup.trans sup⟩
  · rw [rest.spares.bonds]
    exact bond k

/-- The second where no BOND changes: ADM's share, if it takes it (R37, R56, R184; logs 2, 3). -/
theorem Part.secondEnds_still (tested : p.LeaseTested q) (law : q.CommitLaw) (open_ : q.OpenLaw) (still : q.judgeBonds = q) :
    (q.AdmTakes → p.finish (q.finish q.judgeBonds).admAdvance
      = ({ q with owed := q.owed.filter (· ≠ .deferred) } : Part).repassed false)
    ∧ (¬ q.AdmTakes → p.finish (q.finish q.judgeBonds).admAdvance = q) := by
  rw [still, Part.finish_self law]
  refine ⟨fun takes => ?_, fun waits => ?_⟩
  · rw [Part.admAdvance_repassed open_ takes]
    obtain ⟨admits, mode⟩ := ({ q with owed := q.owed.filter (· ≠ .deferred) } : Part).repassed_admits false
    exact Part.finish_eq (tested.trans (.of_mode mode)).leaseSince_eq (admits.commitLaw law)
  · rw [Part.admAdvance_waits waits]
    exact Part.finish_eq tested.leaseSince_eq law

end

/-- Settles O37: BOND's tests one by one, the end of the second after them, and the whole where no test finds anything. -/
theorem secondAdvances : Obligations.SecondAdvances := by
  unfold Obligations.SecondAdvances
  intro s ready free p now q old
  have taken : exec .slipClockAdvance s = .next { s with part := p.finish (q.finish q.judgeBonds).admAdvance } :=
    exec_slipClockAdvance ready free
  have clock : q.clock = now := p.secondBegun_clock
  have order : q.order = p.order := p.secondBegun_order
  have law : q.CommitLaw := Part.secondBegun_commitLaw ready.1.2.2
  have tested : p.LeaseTested q := p.secondBegun_leaseTested
  have input : ∀ k, q.bondInput k = true ↔ old k := fun k => by
    have found := q.bondInput_iff k
    rwa [clock] at found
  clear_value old q now
  subst clock
  refine ⟨fun waits => ⟨_, taken, ?_⟩, fun quiet compound low open_ => ?_⟩
  · have ends := Part.secondEnds order waits
    refine ⟨ends.clock, ends.owed, ends.taken, ends.jacks, ends.sectors, ends.cfg, ends.runs, fun k => ?_⟩
    obtain ⟨ceases, starts, stays⟩ := ends.bond k
    rw [← input]
    exact ⟨fun low => ceases (Bool.eq_false_of_not_eq_true low), starts, stays⟩
  · have still : q.judgeBonds = q := Part.judgeBonds_still
      (fun k => ⟨Bool.eq_false_of_not_eq_true fun high => (quiet k).1 ((input k).1 high), (quiet k).2⟩) compound low
    obtain ⟨takes, lets⟩ := Part.secondEnds_still tested law open_ still
    rw [taken, ← order]
    split
    · next now => rw [takes now]
    · next later => rw [lets later]

end Sys2Proof.Machine
end
